-- ==== Sys2Proof/Word.lean ====
section
/-! DEFINITION. Word.lean: the word types of the Palnak and their plainest arithmetic (00_scope R5, R6). -/

namespace Sys2Proof

/-- A byte of memory. -/
abbrev Byte := BitVec 8
/-- A 32-bit register or instruction word. -/
abbrev Word := BitVec 32
/-- A 64-bit pair, address or counter. -/
abbrev DWord := BitVec 64
/-- The lanes of a unit: bit l is lane l (R23: mask word w is bits 32w+31 down to 32w). -/
abbrev Mask := BitVec 1024

/-- A value with the poison bit that travels with it (22_faults_in_memory R383, R399). -/
structure PWord where
  val : Word := 0
  poison : Bool := false
deriving DecidableEq, Repr, Inhabited

end Sys2Proof
end

