-- ==== Sys2Proof/Config.lean ====
section
/-! DEFINITION. Config.lean: what an implementation fixes and the spec leaves open. Every `opaque` constant is a free value: it
has no body, so nothing can be proved of what it is. -/

namespace Sys2Proof.Config

/-- A fresh free value of any width (cut to its use), applied to the counter `free` of the state (log 4). -/
opaque freeValue : Nat → Nat

/-- The encoding that the design returns for a bounded member of the FUN family (07 R164, 11 R244): member code and operand.
The model uses it only where it meets the bound of Table 79. -/
opaque funValue : Nat → Word → Word

/-- The encoding that the design returns for one R162 step: the kind of dot product, the addend, and the products as exact
numbers over 2^300. The model uses it only where it meets the bound of Table 46. -/
opaque dotValue : Nat → Word → List Int → Word

/-- The IOD and pilot firmware images in flash (20 R367), which the spec does not print. -/
opaque iodImage : List Byte
opaque pilotImage : List Byte

/-- The module serial number (20 Table 151). -/
opaque serial : BitVec 64

/-- SHA-384 (20 R367, R374; 14 R348). -/
opaque sha384 : List Byte → BitVec 384

/-- A fresh key pair: seed to private and public key (20 R367; 14 R348). -/
opaque p384Private : Nat → BitVec 384
opaque p384Public : BitVec 384 → BitVec 768

/-- ECDSA P-384 over a digest, and its check. -/
opaque ecdsaSign : BitVec 384 → BitVec 384 → BitVec 768
opaque ecdsaVerify : BitVec 768 → BitVec 384 → BitVec 768 → Bool

/-- The x-coordinate of ECDH on P-384 (14 Table 121). -/
opaque ecdh : BitVec 384 → BitVec 768 → BitVec 384

/-- HKDF-Extract and HKDF-Expand with SHA-384 (14 Table 121): salt and input; key, label and epoch. -/
opaque hkdf : BitVec 512 → BitVec 384 → Bool → Nat → BitVec 256

/-- AES-256-GCM (14 R345): key, IV, additional data, plaintext to ciphertext and tag; and the opening. -/
opaque gcmSeal : BitVec 256 → BitVec 96 → List Byte → List Byte → List Byte × BitVec 128
opaque gcmOpen : BitVec 256 → BitVec 96 → List Byte → List Byte → BitVec 128 → Option (List Byte)

/-- The identity certificate and the certificate of an attestation key, DER bytes (20 R371), and the check of a peer's chain. -/
opaque identityCert : List Byte
opaque attestationCert : BitVec 768 → List Byte
opaque chainOk : List Byte → BitVec 768 → Bool

/-- Fresh nonces (14 Table 121). -/
opaque nonce : Nat → BitVec 256

end Sys2Proof.Config
end

