-- ==== Sys2Proof/Machine/Bits.lean ====
section
/-! DEFINITION. Machine/Bits.lean: bit fields, sign extension, byte order and 32-bit counting helpers (00_scope R5, R6). -/

namespace Sys2Proof

/-- `field x hi lo` is x[hi:lo] of R6, as an exact number. -/
def field (x hi lo : Nat) : Nat := (x >>> lo) % 2 ^ (hi + 1 - lo)

/-- Bit `n` of `x`. -/
def bitOf (x n : Nat) : Bool := x.testBit n

/-- `setField x hi lo v` replaces x[hi:lo] by the low bits of `v`. -/
def setField (x hi lo v : Nat) : Nat :=
  let w := hi + 1 - lo
  x - field x hi lo * 2 ^ lo + (v % 2 ^ w) * 2 ^ lo

/-- The two's-complement reading of the low `n` bits of `x` (sign_extend of R6 as an exact integer). -/
def signedOf (x n : Nat) : Int :=
  let y := x % 2 ^ n
  if 2 * y ≥ 2 ^ n then (y : Int) - 2 ^ n else y

/-- wrap_u(x, n) of 07_number_formats: the low `n` bits of an exact integer. -/
def wrapU (x : Int) (n : Nat) : Nat := (x % (2 ^ n : Int)).toNat

/-- sat_s(x, n): clamp to the signed range of `n` bits. -/
def satS (x : Int) (n : Nat) : Int :=
  let hi : Int := 2 ^ (n - 1) - 1
  let lo : Int := -(2 ^ (n - 1))
  if x > hi then hi else if x < lo then lo else x

/-- sat_u(x, n): clamp to the unsigned range of `n` bits. -/
def satU (x : Int) (n : Nat) : Int :=
  let hi : Int := 2 ^ n - 1
  if x > hi then hi else if x < 0 then 0 else x

/-- The word that an exact integer wraps to. -/
def wordOfInt (x : Int) : Word := BitVec.ofInt 32 x

/-- Bytes of a number, least significant first (R5). -/
def bytesOf (x : Nat) : Nat → List Byte
  | 0 => []
  | n + 1 => BitVec.ofNat 8 x :: bytesOf (x / 256) n

/-- The number that bytes spell, least significant first (R5). -/
def natOfBytes : List Byte → Nat
  | [] => 0
  | b :: bs => b.toNat + 256 * natOfBytes bs

/-- Number of one bits among the low `n` bits of `x`. -/
def popCount (x : Nat) : Nat → Nat
  | 0 => 0
  | n + 1 => (if x.testBit n then 1 else 0) + popCount x n

/-- Leading zero bits of a 32-bit value, 32 for zero. -/
def clz32 (x : Nat) : Nat := if x = 0 then 32 else 31 - Nat.log2 x

/-- `revBits x n` reverses the low `n` bits of `x`. -/
def revBits (x : Nat) : Nat → Nat
  | 0 => 0
  | n + 1 => (if x.testBit 0 then 2 ^ n else 0) + revBits (x / 2) n

/-- Numbers of the one bits of `x` among bits `from_` to `from_ + n - 1`, ascending. -/
def onesFrom (x : Nat) (from_ : Nat) : Nat → List Nat
  | 0 => []
  | n + 1 => if x.testBit from_ then from_ :: onesFrom x (from_ + 1) n else onesFrom x (from_ + 1) n

/-- Smallest multiple of `m` at or above `x`. -/
def ceilDiv (x m : Nat) : Nat := (x + m - 1) / m

/-- Insertion into a list in ascending order of a key, behind equal keys. -/
def insBy {α : Type} (key : α → Nat) (a : α) : List α → List α
  | [] => [a]
  | b :: bs => if key a < key b then a :: b :: bs else b :: insBy key a bs

/-- A list in ascending order of a key; equal keys keep their order. -/
def sortBy {α : Type} (key : α → Nat) (l : List α) : List α := l.foldl (fun acc a => insBy key a acc) []

end Sys2Proof
end

