-- ==== Sys2Proof/Syntax.lean ====
section
/-! DEFINITION. Syntax.lean: the instructions and events of the Palnak, one constructor of `Instr` per row of
spec/opcode_table.json. The raw fields of a word are kept as the format tables of 09_encodings name them; their meaning is in
Machine/, their legality in WellFormed.lean. -/

namespace Sys2Proof

/-- Names a group: the stream identity of its team and its number in the team (R27, R89). Stream 0 is never given to a team
(R412), so (0, c) names the pilot's group in privileged slot 16 of core c. -/
structure GKey where
  stream : Nat
  gid : Nat
deriving DecidableEq, Repr, Inhabited

/-- Names a unit: its group and 0 for the body or 1 to 16 for a fragment record (R32, R127). -/
structure UnitRef where
  group : GKey
  unit : Nat
deriving DecidableEq, Repr, Inhabited

/-- A channel state key (R89): stream, channel, destination die identifier. -/
structure ChanKey where
  stream : Nat
  chan : Nat
  die : Nat
deriving DecidableEq, Repr, Inhabited

/-- A resequencing key at a destination (R343): source device, stream, channel. -/
structure SeqKey where
  src : Nat
  stream : Nat
  chan : Nat
deriving DecidableEq, Repr, Inhabited

/-- Who waits in a wait that R397 times: a unit, or an instruction of a matrix context. -/
inductive Waiter where
  | ofUnit (u : UnitRef)
  | ofMatrix (core ctx id : Nat)
deriving DecidableEq, Repr, Inhabited

/-- The operand fields of an instruction of classes S, F, C, I and L in either format (Tables 52 to 56). A short word fills
`d`, `a` and `b` from its 7-bit fields (class C: `d` from pd, `sub` from cond; class I: the 11-bit immediate, zero-extended,
in `b` and `c`), `gp` and `gn` from its guard (63, false = always), and leaves `c`, `q` and the rest of `sub` zero.
`sub` never repeats a family sub-opcode that the constructor already fixes; for XRED, XSCAN and XSCAN_EX it holds the
operation code of Table 65. `q` is bits [6:0] of a long first word. -/
structure Args where
  long : Bool := false
  gp : BitVec 6 := 63
  gn : Bool := false
  d : BitVec 8 := 0
  a : BitVec 8 := 0
  b : BitVec 8 := 0
  c : BitVec 8 := 0
  sub : BitVec 5 := 0
  q : BitVec 7 := 0
deriving DecidableEq, Repr, Inhabited

/-- The fields of the class Q branches BRQ and BRD (Table 54, R185); `off` is the word offset, sign-extended to 18 bits. -/
structure BrArgs where
  long : Bool := false
  gp : BitVec 6 := 63
  gn : Bool := false
  sense : Bool := false
  pn : BitVec 6 := 0
  token : BitVec 8 := 0
  off : BitVec 18 := 0
deriving DecidableEq, Repr, Inhabited

/-- Clause header (Table 58). -/
structure ClhArgs where
  wait : BitVec 12 := 0
  seta : BitVec 4 := 15
  setb : BitVec 4 := 15
  len : BitVec 5 := 1
deriving DecidableEq, Repr, Inhabited

/-- Repeat word (Table 59): count minus one and the three step codes. -/
structure RepArgs where
  cnt : BitVec 6 := 0
  sd : BitVec 2 := 0
  sa : BitVec 2 := 0
  sb : BitVec 2 := 0
deriving DecidableEq, Repr, Inhabited

/-- A fabric packet (Table 117) with its payload. -/
structure Packet where
  offset : Nat := 0
  segment : Nat := 0
  stream : Nat := 0
  chan : Nat := 0
  seq : Nat := 0
  kind : Nat := 0
  op : Nat := 0
  width : Nat := 0
  length : Nat := 0
  rtag : Nat := 0
  sos : Bool := false
  status : Nat := 0
  payload : List Byte := []
deriving DecidableEq, Repr, Inhabited

/-- What a receiver reads of a frame's link trailer (R404): the link sequence number, the CRC-32, and whether every codeword was correctable. -/
structure LinkTrailer where
  seq : BitVec 12 := 0
  crc : BitVec 32 := 0
  fec : Bool := true
deriving DecidableEq, Repr, Inhabited

/-- A fabric frame as it travels (Table 116): the header fields, the tag, the body bytes, in clear or encrypted, and the link trailer. -/
structure Frame where
  tag : BitVec 128 := 0
  counter : Nat := 0
  src : Nat := 0
  dst : Nat := 0
  plane : Nat := 0
  vc : Nat := 0
  epoch : Nat := 0
  gmac : Bool := false
  body : List Byte := []
  link : LinkTrailer := {}
deriving DecidableEq, Repr, Inhabited

/-- A key handshake message (Table 121). -/
structure KxMessage where
  nonce : BitVec 256 := 0
  pub : BitVec 768 := 0
  report : List Byte := []
  certs : List Byte := []
  sig : BitVec 768 := 0
deriving DecidableEq, Repr, Inhabited

/-- A request that arrives on the host link (R327 to R334): the function (0 to 7 a VF, 8 the PF), the requester, the offset
in the function's memory window, or in BAR0, and its attributes. For an AtomicOp, `op` is 0 FetchAdd, 1 Swap, 2 CAS. -/
structure HostReq where
  fn : Nat := 0
  requester : Nat := 0
  offset : Nat := 0
  bytes : List Byte := []
  len : Nat := 0
  relaxed : Bool := false
  ido : Bool := false
  poisoned : Bool := false
  ideOk : Bool := true
  bar0 : Bool := false
  op : Nat := 0
  operand : Nat := 0
  compare : Nat := 0
deriving DecidableEq, Repr, Inhabited

/-- A register write on the host link (R329): the function (0 to 7 a VF, 8 the PF), the BAR0 offset, the data, and whether its TLP passes the IDE check
(R415). -/
structure RegWrite where
  fn : Nat := 0
  offset : Nat := 0
  bytes : List Byte := []
  ideOk : Bool := true
deriving DecidableEq, Repr, Inhabited

/-- One hourly reading of the four monitors of a unit, margin used in hundredths of a percent (R427, R428). -/
structure MonitorReading where
  age : Nat := 0
  em : Nat := 0
  vmin : Nat := 0
  eye : Nat := 0
deriving DecidableEq, Repr, Inhabited

/-- Where a soft error stands, by the structures of Table 160: a register of the main file, of a region buffer or of the uniform file; a granule
or a full bit of a core's slice; a word of a context's tiles; an entry of a hardware queue; a line of an L1; an entry of the TLB of a core
or of a pipe, of the IOD's cache, or a group's translation register; a clean line of a pile cache; a DRAM block; a byte of a part of an
inbound write; a request packet kept for retransmission (its place there), or stored for resequencing; control state of a group, or of
a core when no group is named. -/
inductive EccSite where
  | mainReg (g : GKey) (lane reg : Nat)
  | regionReg (g : GKey) (lane reg : Nat)
  | uniformReg (g : GKey) (reg : Nat)
  | spad (core granule : Nat)
  | fullBit (core granule : Nat)
  | tile (core ctx word : Nat)
  | queue (core number entry : Nat)
  | l1 (core line : Nat)
  | tlb (core : Nat) (pipe : Option Nat) (va : Nat)
  | pte (va : Nat)
  | xlate (g : GKey) (slot : Nat)
  | cleanLine (pa : Nat)
  | dram (pa : Nat)
  | staging (write part byte : Nat)
  | retransmit (place : Nat)
  | stored (key : SeqKey) (seq : Nat)
  | control (core : Nat) (g : Option GKey)
deriving DecidableEq, Repr, Inhabited

/-- A soft error that a check finds (R399, Table 160): corrected or not, where, the byte offset in its SRAM when the site has no address of
its own, and the partition of the access when known. -/
structure EccEvent where
  corrected : Bool := false
  site : EccSite := .dram 0
  offset : Nat := 0
  part : Option Nat := none
deriving DecidableEq, Repr, Inhabited

/-- The instructions and the events of spec/opcode_table.json, in its order. -/
inductive Instr where
  /-- IADD (R235). Adds two lane registers, wrapping or saturating. -/
  | iadd (x : Args)
  /-- ISUB (R235). Subtracts two lane registers, wrapping or saturating. -/
  | isub (x : Args)
  /-- IADDS (R236). Adds two lane registers and a carry predicate, writing the sum and the carry-out. -/
  | iadds (x : Args)
  /-- IMUL (R235). Multiplies two lane registers, low 32 bits or saturated. -/
  | imul (x : Args)
  /-- IMULH (R235). Writes the high 32 bits of the signed product. -/
  | imulh (x : Args)
  /-- IMAD (R235). Multiply-add of lane registers, with the third source taken from d in the short format. -/
  | imad (x : Args)
  /-- IMADW (R237). Wide unsigned multiply-add into a 64-bit register pair. -/
  | imadw (x : Args)
  /-- IMIN (R235). Signed minimum of two lane registers. -/
  | imin (x : Args)
  /-- IMAX (R235). Signed maximum of two lane registers. -/
  | imax (x : Args)
  /-- IAND (R235). Bitwise AND of two lane registers. -/
  | iand (x : Args)
  /-- IOR (R235). Bitwise OR of two lane registers. -/
  | ior (x : Args)
  /-- IXOR (R235). Bitwise exclusive OR of two lane registers. -/
  | ixor (x : Args)
  /-- ISHL (R235). Shifts a lane register left. -/
  | ishl (x : Args)
  /-- ISHR (R235). Logical right shift of a lane register. -/
  | ishr (x : Args)
  /-- ISRA (R235). Arithmetic right shift of a lane register. -/
  | isra (x : Args)
  /-- IROT (R235). Rotates a lane register left. -/
  | irot (x : Args)
  /-- IBFE (R235). Extracts a bit field of a lane register. -/
  | ibfe (x : Args)
  /-- IBFI (R235). Inserts a bit field into a lane register. -/
  | ibfi (x : Args)
  /-- IPRM (R238). Selects bytes of two registers under a selector, with sign replication. -/
  | iprm (x : Args)
  /-- ICMP (R239). Compares two integer lane registers into a lane predicate. -/
  | icmp (x : Args)
  /-- ISEL (R239). Selects one of two lane registers under a predicate; long format only. -/
  | isel (x : Args)
  /-- IABS (R235). Absolute value of a lane register. -/
  | iabs (x : Args)
  /-- INEG (R235). Negates a lane register. -/
  | ineg (x : Args)
  /-- INOT (R235). Bitwise NOT of a lane register. -/
  | inot (x : Args)
  /-- ICLZ (R235). Counts leading zero bits. -/
  | iclz (x : Args)
  /-- IPOP (R235). Counts one bits. -/
  | ipop (x : Args)
  /-- IBREV (R235). Reverses the bits of a lane register. -/
  | ibrev (x : Args)
  /-- MOV (R235). Copies a lane register, keeping poison. -/
  | mov (x : Args)
  /-- LID (R235). Writes each lane's number. -/
  | lid (x : Args)
  /-- IMOVI (R240). Writes a sign-extended immediate to a lane register. -/
  | imovi (x : Args)
  /-- IMOVH (R240). Writes an immediate into the high half of a lane register. -/
  | imovh (x : Args)
  /-- MOVX (R240). Writes a lane register to an indexed register v[xk+o]. -/
  | movx (x : Args)
  /-- FADD (R241). binary32 addition, rounded by round_fp. -/
  | fadd (x : Args)
  /-- FSUB (R241). binary32 subtraction. -/
  | fsub (x : Args)
  /-- FMUL (R241). binary32 multiplication. -/
  | fmul (x : Args)
  /-- FFMA (R241). binary32 fused multiply-add with one rounding. -/
  | ffma (x : Args)
  /-- FMIN (R242). binary32 minimum passing over a single NaN. -/
  | fmin (x : Args)
  /-- FMAX (R242). binary32 maximum passing over a single NaN. -/
  | fmax (x : Args)
  /-- FCMP (R243). Compares two binary32 values into a lane predicate. -/
  | fcmp (x : Args)
  /-- FDIV (R241). binary32 division, correctly rounded. -/
  | fdiv (x : Args)
  /-- FRCP (R244). Reciprocal within 1 ulp. -/
  | frcp (x : Args)
  /-- FRSQ (R244). Reciprocal square root within 1 ulp. -/
  | frsq (x : Args)
  /-- FSQRT (R244). Correctly rounded square root. -/
  | fsqrt (x : Args)
  /-- FEXP2 (R244). Base-2 exponential within 2 ulp. -/
  | fexp2 (x : Args)
  /-- FLOG2 (R244). Base-2 logarithm within its bound. -/
  | flog2 (x : Args)
  /-- FSIN (R244). Sine within 2^-22 absolute. -/
  | fsin (x : Args)
  /-- FCOS (R244). Cosine within 2^-22 absolute. -/
  | fcos (x : Args)
  /-- FRND (R244). Rounds a binary32 value to an integer value by rm. -/
  | frnd (x : Args)
  /-- FCLS (R244). Classifies a binary32 value into a one-hot word. -/
  | fcls (x : Args)
  /-- HADD2 (R245). Packed 16-bit float addition per element. -/
  | hadd2 (x : Args)
  /-- HMUL2 (R245). Packed 16-bit float multiplication per element. -/
  | hmul2 (x : Args)
  /-- HFMA2 (R245). Packed 16-bit fused multiply-add per element. -/
  | hfma2 (x : Args)
  /-- DADD (R245). binary64 addition on register pairs. -/
  | dadd (x : Args)
  /-- DMUL (R245). binary64 multiplication on register pairs. -/
  | dmul (x : Args)
  /-- DFMA (R245). binary64 fused multiply-add on register pairs. -/
  | dfma (x : Args)
  /-- CVT (R247). Converts between formats by Table 42; long format only. -/
  | cvt (x : Args)
  /-- PACK (R248). Converts two values to narrow elements and shifts them into the destination. -/
  | pack (x : Args)
  /-- UNPK (R249). Extracts and widens one packed element. -/
  | unpk (x : Args)
  /-- IDP4 (R251). Exact dot product of four 8-bit elements with accumulate. -/
  | idp4 (x : Args)
  /-- IDP8 (R251). Exact dot product of eight 4-bit elements with accumulate. -/
  | idp8 (x : Args)
  /-- FDP4 (R252). FP8 four-element dot product into binary32 under the R162 bound. -/
  | fdp4 (x : Args)
  /-- FDP2 (R252). 16-bit float two-element dot product into binary32. -/
  | fdp2 (x : Args)
  /-- SCL (R250). Applies a binary32 scale with a single rounding. -/
  | scl (x : Args)
  /-- PAND (R253). AND of lane predicates. -/
  | pand (x : Args)
  /-- POR (R253). OR of lane predicates. -/
  | por (x : Args)
  /-- PXOR (R253). Exclusive OR of lane predicates. -/
  | pxor (x : Args)
  /-- PMOV (R253). Copies a lane predicate. -/
  | pmov (x : Args)
  /-- PNOT (R253). Inverts a lane predicate. -/
  | pnot (x : Args)
  /-- XLD (R255). Reads a register from a lane named per lane. -/
  | xld (x : Args)
  /-- XSHF (R255). Shuffles a register across lanes by a uniform pattern. -/
  | xshf (x : Args)
  /-- XBAL (R256). Writes ballot words of a predicate. -/
  | xbal (x : Args)
  /-- XANY (R256). Sets a predicate when any contributing lane has the source predicate set. -/
  | xany (x : Args)
  /-- XALL (R256). Sets a predicate when every contributing lane has the source predicate set. -/
  | xall (x : Args)
  /-- XRED (R257). Reduces a register over contributing lanes, FADD by a fixed tree. -/
  | xred (x : Args)
  /-- XSCAN (R257). Inclusive scan over contributing lanes in ascending order. -/
  | xscan (x : Args)
  /-- XSCAN_EX (R257). Exclusive scan over contributing lanes in ascending order. -/
  | xscanEx (x : Args)
  /-- LD (R269). Loads w bytes per lane through a layout slot, plain or acquire. -/
  | ld (x : Args)
  /-- ST (R270). Stores w bytes per lane through a layout slot, plain or release. -/
  | st (x : Args)
  /-- LDFE (R271). Loads scratchpad under full/empty bits, blocking while empty and optionally clearing. -/
  | ldfe (x : Args)
  /-- STFE (R272). Stores to scratchpad and sets each touched granule full. -/
  | stfe (x : Args)
  /-- LDR (R273). Remote load through the reply slots of a channel. -/
  | ldr (x : Args)
  /-- ATOM (R274). Atomic read-modify-write returning the old value. -/
  | atom (x : Args)
  /-- CAS (R275). Atomic compare-and-swap returning the old value. -/
  | cas (x : Args)
  /-- RED (R276). Atomic reduction with no return. -/
  | red (x : Args)
  /-- PREF (R278). Prefetches lines into the L1 or a pile cache. -/
  | pref (x : Args)
  /-- INVL (R279). Drops L1 lines of named addresses or all device and host lines. -/
  | invl (x : Args)
  /-- POPQ (R282). Takes entries from a hardware queue, blocking or non-blocking. -/
  | popq (x : Args)
  /-- PUSHQ (R283). Appends entries to a hardware queue, blocking, non-blocking or spilling. -/
  | pushq (x : Args)
  /-- MLOOP (R306). Queues a matrix product over n tile steps into accumulator tiles. -/
  | mloop (x : Args)
  /-- MLOOPJ (R308). Contributes one part of a joint MLOOP of 2 to 4 groups. -/
  | mloopj (x : Args)
  /-- MZERO (R313). Queues zeroing of accumulator tiles. -/
  | mzero (x : Args)
  /-- MLDA (R315). Queues a load of accumulator tiles from scratchpad. -/
  | mlda (x : Args)
  /-- MDRN (R316). Queues a drain of tiles to scratchpad, raw or requantised. -/
  | mdrn (x : Args)
  /-- MRSUM (R309). Queues addition of a multiple of A row sums into tiles. -/
  | mrsum (x : Args)
  /-- CLH (R205). Clause header opening a run with its wait mask and set flags. -/
  | clh (h : ClhArgs)
  /-- REP (R207). Repeats the following instruction with stepped register fields. -/
  | rep (r : RepArgs)
  /-- BRA (R209). Unconditional branch. -/
  | bra (off : BitVec 25)
  /-- BRQ (R209). Branch on a uniform predicate. -/
  | brq (x : BrArgs)
  /-- BRD (R34). Divergent branch that may split the unit and push a token entry. -/
  | brd (x : BrArgs)
  /-- CALL (R209). Branch saving the return address in s126 and s127. -/
  | call (off : BitVec 25)
  /-- NOP (R211). Occupies the uniform unit for one cycle. -/
  | nop (x : Args)
  /-- RET (R209). Returns to the address in an s-register pair. -/
  | ret (x : Args)
  /-- EXIT (R37). Ends every lane of the issuing unit. -/
  | exit (x : Args)
  /-- TRET (R213). Pops a trap entry and returns from a handler. -/
  | tret (x : Args)
  /-- GRET (R142). Returns from a gate call. -/
  | gret (x : Args)
  /-- HALT (R215). Ends the pilot's unit in slot 16. -/
  | halt (x : Args)
  /-- SLEEP (R211). Parks the unit for a number of cycles. -/
  | sleep (x : Args)
  /-- BRX (R209). Branches to the address in an s-register pair. -/
  | brx (x : Args)
  /-- GATE_REGISTER (R214). Gate call with the gate number in an s-register. -/
  | gateRegister (x : Args)
  /-- WPT (R35). Reconvergence token: arrives at the top token entry. -/
  | wpt (x : Args)
  /-- TRAP (R212). Software trap pushing a trap entry and entering the handler. -/
  | trap (x : Args)
  /-- GATE (R214). Gate call with an immediate gate number; parks for the quiesce. -/
  | gate (x : Args)
  /-- SADD (R216). 32-bit uniform add. -/
  | sadd (x : Args)
  /-- SSUB (R216). 32-bit uniform subtract. -/
  | ssub (x : Args)
  /-- SMUL (R216). 32-bit uniform multiply. -/
  | smul (x : Args)
  /-- SMULH (R216). High word of the signed uniform product. -/
  | smulh (x : Args)
  /-- SMAD (R216). 32-bit uniform multiply-add. -/
  | smad (x : Args)
  /-- SDIV (R216). Signed uniform division with defined edge results. -/
  | sdiv (x : Args)
  /-- SREM (R216). Signed uniform remainder with defined edge results. -/
  | srem (x : Args)
  /-- SAND (R216). Uniform bitwise AND. -/
  | sand (x : Args)
  /-- SOR (R216). Uniform bitwise OR. -/
  | sor (x : Args)
  /-- SXOR (R216). Uniform bitwise exclusive OR. -/
  | sxor (x : Args)
  /-- SSHL (R216). Uniform left shift. -/
  | sshl (x : Args)
  /-- SSHR (R216). Uniform logical right shift. -/
  | sshr (x : Args)
  /-- SSRA (R216). Uniform arithmetic right shift. -/
  | ssra (x : Args)
  /-- SROT (R216). Uniform left rotation. -/
  | srot (x : Args)
  /-- SMIN (R216). Uniform signed minimum. -/
  | smin (x : Args)
  /-- SMAX (R216). Uniform signed maximum. -/
  | smax (x : Args)
  /-- SBFE (R216). Uniform bit-field extract. -/
  | sbfe (x : Args)
  /-- SBFI (R216). Uniform bit-field insert. -/
  | sbfi (x : Args)
  /-- SCMP (R219). Compares two s-registers into a uniform predicate. -/
  | scmp (x : Args)
  /-- SSEL (R219). Selects one of two s-registers under a q-predicate; long only. -/
  | ssel (x : Args)
  /-- QOP (R219). Logical operation on uniform predicates. -/
  | qop (x : Args)
  /-- SADD64 (R218). 64-bit add on s-register pairs. -/
  | sadd64 (x : Args)
  /-- SSUB64 (R218). 64-bit subtract on s-register pairs. -/
  | ssub64 (x : Args)
  /-- SMUL64 (R218). 64-bit multiply on s-register pairs. -/
  | smul64 (x : Args)
  /-- SSHL64 (R218). 64-bit shift of a pair by a signed count. -/
  | sshl64 (x : Args)
  /-- SNOT (R216). Uniform bitwise NOT. -/
  | snot (x : Args)
  /-- SCLZ (R216). Uniform leading-zero count. -/
  | sclz (x : Args)
  /-- SPOP (R216). Uniform population count. -/
  | spop (x : Args)
  /-- SMOV (R216). Copies an s-register, keeping poison. -/
  | smov (x : Args)
  /-- SADDI (R217). Adds a sign-extended immediate to an s-register. -/
  | saddi (x : Args)
  /-- SMOVI (R217). Writes a sign-extended immediate to an s-register. -/
  | smovi (x : Args)
  /-- SMOVH (R217). Writes an immediate into the high half of an s-register. -/
  | smovh (x : Args)
  /-- SRDS (R220). Reads a system value into an s-register. -/
  | srds (x : Args)
  /-- SWRS (R220). Writes a writable system value. -/
  | swrs (x : Args)
  /-- LBIND (R221). Loads a layout record from memory into a slot; parks until written. -/
  | lbind (x : Args)
  /-- LSET (R222). Writes one field of a bound layout slot. -/
  | lset (x : Args)
  /-- LQRY (R222). Reads one field of a layout slot. -/
  | lqry (x : Args)
  /-- XSET (R224). Writes an index register. -/
  | xset (x : Args)
  /-- RGN (R225). Region head: releases the current region and loads a new register list. -/
  | rgn (regs : List (BitVec 8))
  /-- CHCFG (R228). Sets a channel's reply-slot reservation, parking until it fits. -/
  | chcfg (x : Args)
  /-- ENQ (R229). Pushes a task record onto a task queue. -/
  | enq (x : Args)
  /-- JOIN (R286). Records marks on masked channels and holds later accesses of a channel behind them; mask in an s-register. -/
  | join (x : Args)
  /-- JOIN_IMMEDIATE_MASK (R286). JOIN with its channel mask in the long second word. -/
  | joinImmediateMask (x : Args)
  /-- DRAIN (R287). Parks until earlier accesses of a channel are performed at a scope. -/
  | drain (x : Args)
  /-- FENCE (R288). Parks until earlier accesses are performed at a scope; .SC joins the SC order. -/
  | fence (x : Args)
  /-- CHSTAT (R289). Reads a channel snapshot or the fence status word. -/
  | chstat (x : Args)
  /-- BARI (R290). Initialises a barrier object. -/
  | bari (x : Args)
  /-- BARA (R291). Arrives at a barrier as a cluster-scope release, adding a byte count. -/
  | bara (x : Args)
  /-- BARW (R292). Waits for the end of a barrier phase. -/
  | barw (x : Args)
  /-- BARX (R293). Adds a signed amount to a barrier's expected arrivals. -/
  | barx (x : Args)
  /-- KICK (R294). Checks and queues a copy request on the core's copy engine. -/
  | kick (x : Args)
  /-- QCNT (R284). Reads the entry count of a hardware queue. -/
  | qcnt (x : Args)
  /-- MOPF (R318). Parks until the unit's earlier register writes and on-core accesses are done. -/
  | mopf (x : Args)
  /-- MWAIT (R319). Parks until the group's earlier matrix instructions complete. -/
  | mwait (x : Args)
  /-- MQRY (R320). Reads a matrix engine snapshot. -/
  | mqry (x : Args)
  /-- PIPE_ARBITRATION (R128). A pipe chooses its earliest-eligible unit, which issues its run. -/
  | pipeArbitration (core pipe : Nat)
  /-- REGION_LOAD_COMPLETE (R225). A region's registers finish loading and the unit becomes Ready. -/
  | regionLoadComplete (u : UnitRef)
  /-- REGION_RELOAD (R226). An evicted unit's region is reloaded when a region slot frees. -/
  | regionReload (u : UnitRef)
  /-- GATE_QUIESCE_END (R141). A GATE's quiesce ends; the entry is read, checked and the call entered. -/
  | gateQuiesceEnd (u : UnitRef)
  /-- GRET_QUIESCE_END (R142). A GRET's quiesce ends and the caller state is restored. -/
  | gretQuiesceEnd (u : UnitRef)
  /-- SLEEP_EXPIRY (R211). A sleeping unit's interval ends and it becomes Ready. -/
  | sleepExpiry (u : UnitRef)
  /-- TASK_POP (R44). An idle group pops a task record and starts it. -/
  | taskPop (g : GKey)
  /-- MEM_DATA_RETURN (R265). A load, atomic or LDR reply lands in a lane's destination registers. -/
  | memDataReturn (id : Nat)
  /-- TABLE_WALK_COMPLETE (R59). A hardware page walk ends and the parked instruction re-executes for unfinished lanes. -/
  | tableWalkComplete (u : UnitRef)
  /-- ACCESS_PERFORMED_AT_DESTINATION (R78). An access is applied at its bank, pile logic die or IOD at a single instant. -/
  | accessPerformed (id : Nat)
  /-- ACKNOWLEDGEMENT_RECEIVED (R84). A cumulative acknowledgement returns to the issuing core or save area and updates the channel entry. -/
  | ackReceived (key : ChanKey) (ack : Nat)
  /-- WINDOW_RESUME (R84). A unit parked on a full 64-packet window resumes as acknowledgements free places. -/
  | windowResume (u : UnitRef)
  /-- REPLY_SLOT_RESUME (R88). A unit parked for a reply slot resumes when a slot returns. -/
  | replySlotResume (u : UnitRef)
  /-- CHANNEL_TABLE_RESUME (R89). Issue waiting on a full channel state table proceeds when an entry is evictable. -/
  | channelTableResume (u : UnitRef)
  /-- REQUEST_ENTRY_RESUME (R266). A unit parked for a free request entry resumes. -/
  | requestEntryResume (u : UnitRef)
  /-- RELEASE_ISSUE (R91). A release's conditions hold and its access issues. -/
  | releaseIssue (u : UnitRef)
  /-- JOIN_HELD_RELEASE (R86). An access held by JOIN marks is released once every mark is performed. -/
  | joinHeldRelease (id : Nat)
  /-- JOIN_PENDING_RESUME (R86). A fifth JOIN parked on a channel resumes when the oldest JOIN's marks are met. -/
  | joinPendingResume (u : UnitRef)
  /-- DRAIN_COMPLETION (R87). A parked DRAIN completes and, at pod or system scope, writes the fence status word. -/
  | drainCompletion (u : UnitRef)
  /-- FENCE_COMPLETION (R93). A parked FENCE completes and drops L1 lines at team scope or wider. -/
  | fenceCompletion (u : UnitRef)
  /-- TICK (R97). The device tick counter increments every 512 arithmetic-clock cycles. -/
  | tick
  /-- LDFE_WAKE (R271). An LDFE parked on an empty granule reads it once it is set full. -/
  | ldfeWake (u : UnitRef)
  /-- BARA_ARRIVAL (R291). A BARA's release conditions hold and its arrival updates the barrier object. -/
  | baraArrival (u : UnitRef)
  /-- BARW_WAKE (R292). A unit parked at BARW becomes Ready when the phase changes. -/
  | barwWake (u : UnitRef)
  /-- POPQ_WAKE (R282). A blocking POPQ takes its entries when the queue holds enough. -/
  | popqWake (u : UnitRef)
  /-- PUSHQ_WAKE (R283). A blocking PUSHQ appends its entries when the queue has room. -/
  | pushqWake (u : UnitRef)
  /-- CHCFG_WAKE (R228). A parked CHCFG completes when in-use slots fall enough. -/
  | chcfgWake (u : UnitRef)
  /-- LBIND_SLOT_WRITE (R221). An LBIND record read returns, is checked, and the slot and translation registers are written. -/
  | lbindSlotWrite (u : UnitRef)
  /-- ENQ_ATOMIC_STEP (R229). After the release wait, ENQ's descriptor step writes the record and sets the predicate. -/
  | enqAtomicStep (u : UnitRef)
  /-- KICK_QUEUE_PLACE (R294). A KICK parked on a full copy queue reads and checks its record when a place frees. -/
  | kickQueuePlace (u : UnitRef)
  /-- COPY_REQUEST_START (R74). A copy request leaves the engine queue and resolves and checks its slots. -/
  | copyRequestStart (core id : Nat)
  /-- COPY_SEGMENT_MOVE (R74). The copy engine moves one 4 KiB segment of a request. -/
  | copySegmentMove (core id : Nat)
  /-- COPY_SEGMENT_PERFORMED (R100). A segment is performed at pod scope and counted down on its barrier. -/
  | copySegmentPerformed (core id : Nat)
  /-- MATRIX_QUEUE_PLACE (R303). A unit parked on a full context queue queues its matrix instruction when a place frees. -/
  | matrixQueuePlace (u : UnitRef)
  /-- MATRIX_INSTRUCTION_START (R311). A queued matrix instruction starts once the ordering conditions hold. -/
  | matrixInstructionStart (core ctx id : Nat)
  /-- TILE_STEP (R312). In one cycle a context's running instructions each advance by one tile step. -/
  | tileStep (core ctx : Nat)
  /-- MATRIX_INSTRUCTION_COMPLETION (R303). A matrix instruction completes by Table 104. -/
  | matrixInstructionCompletion (core ctx id : Nat)
  /-- MATRIX_TRANSFER_COMPLETION (R313). An MZERO, MLDA or MDRN transfer finishes moving its tiles. -/
  | matrixTransferCompletion (core ctx id : Nat)
  /-- MOPF_COMPLETE (R318). A parked MOPF's conditions hold and the unit goes on. -/
  | mopfComplete (u : UnitRef)
  /-- MWAIT_COMPLETE (R319). A parked MWAIT finds every earlier matrix instruction complete. -/
  | mwaitComplete (u : UnitRef)
  /-- MATRIX_STREAM_COMMAND_START (R325). A matrix-stream command starts in slot order. -/
  | matrixStreamCommandStart (part bundle sub : Nat)
  /-- WAIT_LIMIT_TIMEOUT (R397). A timed wait reaches 2^36 resident cycles and raises WAIT_EXPIRED. -/
  | waitLimitTimeout (w : Waiter)
  /-- COMMAND_CLAIM (R115). A pilot claims the next command of a queue by compare-and-swap. -/
  | commandClaim (core part queue : Nat)
  /-- QUEUE_TAIL_POLL (R330). A pilot re-reads every enabled queue's tail at least once per 10 µs. -/
  | queueTailPoll (core part queue : Nat)
  /-- BUNDLE (R111). Command that validates and starts 1 to 4 sub-launches. -/
  | bundle (part queue : Nat)
  /-- PIN (R113). Command that writes pinned leaf entries for a range. -/
  | pin (part queue : Nat)
  /-- UNPIN (R60). Command that clears pinned and invalidates TLB entries for a range. -/
  | unpin (part queue : Nat)
  /-- WAIT (R109). Command that waits until a semaphore reaches a value. -/
  | waitCmd (part queue : Nat)
  /-- WAIT_SEMAPHORE_REREAD (R109). A waiting WAIT command re-reads its semaphore with a system-scope acquire. -/
  | waitSemaphoreReread (part queue : Nat)
  /-- SIGNAL (R109). Command that writes or adds a value to a semaphore at system scope. -/
  | signal (part queue : Nat)
  /-- NOTIFY (R109). Command that sends an MSI-X vector after earlier commands are performed. -/
  | notify (part queue : Nat)
  /-- BUNDLE_RETIRE (R111). A bundle retires once its sub-launches complete and accesses are performed at system scope. -/
  | bundleRetire (part bundle : Nat)
  /-- TEAM_DRAW (R116). A pilot draws teams from a grid's save list or ticket and holds room. -/
  | teamDraw (core part grid count : Nat)
  /-- SCOREBOARD_REREAD (R122). A pilot holding a Reserved team re-reads scoreboard words at least every 1,024 cycles. -/
  | scoreboardReread (core : Nat)
  /-- TEAM_RELEASE (R123). A Reserved team whose predecessors have retired is admitted into its held room. -/
  | teamRelease (part grid team : Nat)
  /-- PILOT_HEARTBEAT (R117). A pilot adds 1 to its heartbeat word at least once per 1 ms. -/
  | pilotHeartbeat (core : Nat)
  /-- PREEMPTION_STARVATION_TIMEOUT (R130). A higher-priority team finding no room for 100 µs makes a pilot choose victims. -/
  | preemptionStarvationTimeout (core part grid : Nat)
  /-- PREEMPTION_TAKES_EFFECT (R131). A team's units, engines and accesses stop at boundaries and are saved. -/
  | preemptionTakesEffect (stream : Nat)
  /-- SAVE_IMAGE_COMPLETE (R132). A team's save image is written and its resources freed; it becomes Saved. -/
  | saveImageComplete (stream : Nat)
  /-- TEAM_RESTORE (R133). A saved team is restored onto a core with room and resumes. -/
  | teamRestore (core stream : Nat)
  /-- TEAM_RETIREMENT (R125). After all groups end and channels drain, a team frees resources and sets its scoreboard bit. -/
  | teamRetirement (stream : Nat)
  /-- DOORBELL (R330). A doorbell write tells the partition's pilots a queue's tail may have moved. -/
  | doorbell (vf : Nat) (value : Word)
  /-- REGISTER_WRITE (R329). A write to a BAR register with no behaviour of its own. -/
  | registerWrite (w : RegWrite)
  /-- INBOUND_MEMORY_WRITE (R333). An inbound posted write is split into parts and ordered for release. -/
  | inboundMemoryWrite (r : HostReq)
  /-- WRITE_PART_RELEASE (R333). A held part of an inbound write is released to its route. -/
  | writePartRelease (id part : Nat)
  /-- WRITE_PART_ACKNOWLEDGE (R332). A route acknowledges a part applied at its pile's logic die. -/
  | writePartAcknowledge (id part : Nat)
  /-- INBOUND_MEMORY_READ (R334). An inbound read is released after earlier posted writes and its completions return. -/
  | inboundMemoryRead (r : HostReq)
  /-- INBOUND_ATOMICOP (R334). An inbound AtomicOp is performed as one atomic step at the pile. -/
  | inboundAtomicop (r : HostReq)
  /-- OUTBOUND_COMPLETION (R335). A completion for an outbound host read or AtomicOp returns. -/
  | outboundCompletion (id : Nat) (status : Nat) (data : List Byte) (poison : Bool)
  /-- COMPLETION_TIMEOUT (R415). An outbound non-posted request not completed within 50 ms completes poisoned. -/
  | completionTimeout (id : Nat)
  /-- SURPRISE_DOWN (R415). The host link goes down without hot reset and outbound traffic is discarded or poisoned. -/
  | surpriseDown
  /-- HOT_RESET (R415). A hot reset of the PCI Express port acts as a device warm reset. -/
  | hotReset
  /-- POWER_GOOD (R367). Power-good starts the verified boot order. -/
  | powerGood
  /-- CREATE_PARTITION (R372). Management command that creates a partition from a parameter block. -/
  | createPartition (desc : DWord)
  /-- DESTROY_PARTITION (R370). Management command that discards a partition's grids and frees its cores and memory. -/
  | destroyPartition (desc : DWord)
  /-- CREATE_QUEUE (R370). Management command that pins a ring and writes an enabled queue descriptor. -/
  | createQueue (desc : DWord)
  /-- PREEMPT (R370). Management command that pre-empts every admitted team of a partition. -/
  | preempt (desc : DWord)
  /-- INSTALL_GATE (R137). Management command that replaces a gate table entry atomically. -/
  | installGate (desc : DWord)
  /-- WRITE_SEGMENT (R342). Management command that replaces a segment table entry. -/
  | writeSegment (desc : DWord)
  /-- WRITE_PEER (R412). Management command that writes a peer entry, clearing loss and starting a handshake. -/
  | writePeer (desc : DWord)
  /-- WRITE_TRUST (R375). Management command that writes a trust-table entry of M0 to M2 digests. -/
  | writeTrust (desc : DWord)
  /-- REKEY (R348). Management command that starts a new key handshake with a peer. -/
  | rekey (desc : DWord)
  /-- GET_REPORT (R374). Management command that writes a signed attestation report. -/
  | getReport (desc : DWord)
  /-- GET_CERTS (R371). Management command that writes the identity and attestation-key certificates. -/
  | getCerts (desc : DWord)
  /-- READ_ERRORS (R400). Management command that writes error counters and log, optionally clearing counters. -/
  | readErrors (desc : DWord)
  /-- RESET_QUEUE (R419). Management command that resets one command queue. -/
  | resetQueue (desc : DWord)
  /-- RESTART_PILOT (R419). Management command that reloads and restarts the pilots of named cores. -/
  | restartPilot (desc : DWord)
  /-- RESET_PARTITION (R392). Management command that discards every team, bundle and command of a partition. -/
  | resetPartition (desc : DWord)
  /-- WARM_RESET (R419). Management command that destroys every partition and restarts the boot order. -/
  | warmReset (desc : DWord)
  /-- READ_LINKS (R414). Management command that writes per-lane records, optionally clearing counts. -/
  | readLinks (desc : DWord)
  /-- READ_HEALTH (R430). Management command that writes the 17 health records. -/
  | readHealth (desc : DWord)
  /-- WRITE_CONFIG (R368). Management command that writes a new device configuration record to flash. -/
  | writeConfig (desc : DWord)
  /-- DOMAIN_COPY (R373). Management command that copies bytes between host memory and a domain's virtual range. -/
  | domainCopy (desc : DWord)
  /-- PWR_LIMIT_WRITE (R369). A write to PWR_LIMIT sets the power limit, clamped to range. -/
  | pwrLimitWrite (value : Word)
  /-- EOL_THRESHOLD_WRITE (R429). A write to EOL_THRESHOLD sets the replacement threshold, clamped to range. -/
  | eolThresholdWrite (value : Word)
  /-- POWER_CONTROL_SAMPLE (R376). Every 1 ms the IOD compares power with the limit and steps the arithmetic clock. -/
  | powerControlSample (mw : Nat) (hot : Bool)
  /-- HEALTH_SAMPLE (R428). Hourly sampling of wear monitors and eol prediction. -/
  | healthSample (readings : List MonitorReading)
  /-- PLANE_LOST (R433). A lane down for 24 h is counted as a lost plane. -/
  | planeLost (lane : Nat)
  /-- ECC_ERROR_DETECTED (R399). An SRAM or DRAM ECC check corrects an error or decides an uncorrectable one by Table 160. -/
  | eccErrorDetected (e : EccEvent)
  /-- FRAME_TRANSMIT (R340). The IOD sends a frame on the next up plane holding credit for it. -/
  | frameTransmit (dest vc : Nat)
  /-- FRAME_RECEIVED (R346). A frame is verified and its packets disposed of in body order. -/
  | frameReceived (lane : Nat) (f : Frame)
  /-- NACK_RECEIVED (R343). A nack arrives and the source starts the resynchronising exchange. -/
  | nackReceived (src : Nat) (p : Packet)
  /-- NO_ROOM_RETRY (R343). 20 µs after a 0x03 nack the source retransmits the key's unacknowledged packets. -/
  | noRoomRetry (key : ChanKey)
  /-- RESYNC_TIMEOUT (R408). A key's oldest unacknowledged packet waits 50 µs and an exchange starts. -/
  | resyncTimeout (key : ChanKey)
  /-- RESYNC (R409). A destination receives RESYNC and returns its expected number. -/
  | resync (src : Nat) (p : Packet)
  /-- RESYNC_REPLY (R409). A source receives RESYNC REPLY, frees acknowledged packets and retransmits the rest. -/
  | resyncReply (src : Nat) (p : Packet)
  /-- RESYNC_RETRY (R409). The source repeats RESYNC every 100 µs until a reply arrives. -/
  | resyncRetry (key : ChanKey)
  /-- RESPONSE_TIMEOUT (R439). A request's response missing 100 µs after acknowledgement completes it poisoned. -/
  | responseTimeout (id : Nat)
  /-- KEY_STATE_IDLE_DROP (R343). The destination drops an idle key's resequencing state. -/
  | keyStateIdleDrop (key : SeqKey)
  /-- LINK_ACK_RECEIVED (R404). A cumulative link acknowledgement frees frames from the link replay buffer. -/
  | linkAckReceived (lane seq : Nat)
  /-- LINK_NACK_RECEIVED (R404). A receiver nack starts a link replay. -/
  | linkNackReceived (lane : Nat)
  /-- LINK_ACK_TIMEOUT (R404). 5 µs without a link acknowledgement starts a link replay. -/
  | linkAckTimeout (lane : Nat)
  /-- LANE_DOWN_SIGNAL (R405). The partner learns through training signalling that a lane is down. -/
  | laneDownSignal (lane : Nat)
  /-- LANE_RETRAIN (R405). A down lane is retrained every 10 ms. -/
  | laneRetrain (lane : Nat) (ok : Bool)
  /-- PLANE_REJOIN (R405). After 1 ms of clean acknowledgements a retrained plane rejoins the rotation. -/
  | planeRejoin (lane : Nat)
  /-- PLANE_UNREACHABLE_NOTICE (R405). A source removes a plane from its rotation for a destination. -/
  | planeUnreachableNotice (lane dest : Nat)
  /-- PLANE_PROBE (R405). An excluded plane is probed again every 10 ms. -/
  | planeProbe (lane dest : Nat) (ok : Bool)
  /-- LIVENESS_FRAME (R412). A device sends a keyed peer a frame at least every 200 µs. -/
  | livenessFrame (peer : Nat)
  /-- PEER_LOSS_TIMEOUT (R412). 2 ms without a sign of life, or without a key for a waiting access, declares a peer lost. -/
  | peerLossTimeout (peer : Nat)
  /-- KX1 (R348). Initiator's first handshake message with nonce, ephemeral key and report. -/
  | kx1 (peer : Nat) (m : KxMessage)
  /-- KX2 (R348). Responder's handshake message with nonce, key, report and signature. -/
  | kx2 (peer : Nat) (m : KxMessage)
  /-- KX3 (R348). Initiator's signature completing key derivation and the epoch switch. -/
  | kx3 (peer : Nat) (m : KxMessage)
  /-- KEY_HANDSHAKE_TIMEOUT (R413). A handshake message not arriving within 100 ms fails the handshake. -/
  | keyHandshakeTimeout (peer : Nat)
  /-- HANDSHAKE_RETRY (R413). The initiator retries a failed handshake after 1 s. -/
  | handshakeRetry (peer : Nat)
  /-- PREVIOUS_EPOCH_EXPIRY (R348). 1 ms after step 3 the receiver stops accepting the previous epoch. -/
  | previousEpochExpiry (peer : Nat)
  /-- ENGINE_STOP_RECORD (R390). A stopped engine writes its stop record; the last one completes the halt summary. -/
  | engineStopRecord (core engine : Nat)
  /-- IDE_KM (R415). IDE_KM sets new keys for a selective IDE stream, taking it out of the Insecure state. -/
  | ideKm (fn : Nat) (key : BitVec 256)
  /-- HOST_LINK_RETURN (R415). The PCI Express link comes back up without a hot reset and host traffic resumes. -/
  | hostLinkReturn
  /-- CREDIT_GRANT (R341). A fabric input port grants flit credits to the sender, letting waiting whole frames start. -/
  | creditGrant (lane vc flits : Nat)
  /-- POWER_GOOD_REMOVAL (R419). Power-good is removed and the module loses all volatile state, which is the cold reset of rung 5. -/
  | powerGoodRemoval
  /-- BOOT_STEP_COMPLETE (R367). A step of the boot order (image verification, pile training, SRAM init, link bring-up, pilot load, key generation, lane training) finishes and the next begins. -/
  | bootStepComplete (ok : Bool)
deriving DecidableEq, Repr, Inhabited

end Sys2Proof
end

