-- ==== Sys2Proof/Decode.lean ====
section
/-! DEFINITION. Decode.lean: from bytes to instructions and back (09_encodings R177 to R202). The operand fields of every opcode are
one table, `Instr.form`; the decoder splits a word into raw fields, names the instruction, and refuses every word of Table 66 by
the name of the rule it breaks. The encoder is written from the same tables. -/

namespace Sys2Proof

/-- Why bytes are not an instruction (Table 66). -/
inductive DecodeError where
  /-- Fewer bytes than the instruction has. -/
  | truncated
  /-- Primary opcode unassigned, or a long marker inside a long word. -/
  | opcode
  /-- Short word of a class L opcode. -/
  | longOnly
  /-- Long word of an opcode without a long form (R189). -/
  | noLongForm
  /-- Family sub-opcode not in Table 63, or QOP code 7. -/
  | member
  /-- Nonzero reserved field or bit. -/
  | reserved
  /-- Register field outside its class (R181). -/
  | registerClass
  /-- Long guard outside R186. -/
  | guard
  /-- Operand modifier or xmode set where the entry lists none (R187, R188, R232). -/
  | modifier
  /-- Immediate outside the range of its entry. -/
  | immediate
  /-- Clause header fields of R190. -/
  | header
  /-- Region head with n of 17 to 31, or a register named twice (R193). -/
  | region
deriving DecidableEq, Repr, Inhabited

/-- Short-word class of an opcode (Table 54). -/
inductive Cls where
  | S | F | C | I | L
deriving DecidableEq, Repr, Inhabited

/-- What a register field names, which bounds its values (R181). -/
inductive Fld where
  /-- Unused: reserved. -/
  | none
  /-- Any value: checked elsewhere, or an index offset. -/
  | any
  | v
  /-- Even v-register pair. -/
  | v2
  | s
  /-- Even s-register pair. -/
  | s2
  /-- First of ten s-registers: even and at most 118 (R229). -/
  | s10
  | p
  /-- Predicate destination of a lane compare: p0 to p15 short, p0 to p47 long. -/
  | pd
  | qd | x | ch
  /-- Flag 0 to 11, or 15 for none. -/
  | fl
  | hq | ly | scope
  /-- A selector 0 to 2. -/
  | sel
  /-- 0 or 1. -/
  | bit
  /-- Layout field codes that LSET takes (Table 73). -/
  | lset
  /-- Layout field codes that LQRY takes (Table 73). -/
  | lqry
deriving DecidableEq, Repr, Inhabited

/-- A row of the encoding tables. -/
structure Form where
  uniform : Bool
  op : Nat
  /-- Family sub-opcode, when the opcode is a family. -/
  sub : Option Nat
  cls : Cls
  d : Fld := .none
  a : Fld := .none
  b : Fld := .none
  c : Fld := .none
  /-- c is a third source, which the short format takes from d. -/
  third : Bool := false
  rm : Bool := false
  sat : Bool := false
  neg : Bool := false
  abs : Bool := false
  xa : Bool := false
  xb : Bool := false
  xl : Bool := false
  /-- Largest value of the sub bits that the entry defines in the long format. -/
  subMax : Nat := 0
  /-- The member code stands in the short format as well (XRED, XSCAN). -/
  subShort : Bool := false
  /-- The entry defines its own qualifier field, checked by `extra`. -/
  qOwn : Bool := false
  immMax : Nat := 65535
  extra : Args → Bool := fun _ => true

/-- Bytes of a word, or pair of words, with these fields. -/
def Args.bytes (x : Args) : Nat := if x.long then 8 else 4

/-- Scope, slot, flag and channel fields of a MEM second word (Table 89). -/
def Args.scope (x : Args) : Nat := field x.b.toNat 7 5
def Args.slot (x : Args) : Nat := field x.b.toNat 4 0
def Args.flag (x : Args) : Nat := field x.c.toNat 7 4
def Args.chan (x : Args) : Nat := field x.c.toNat 3 0
/-- Width code of a MEM qualifier (Table 88). -/
def Args.width (x : Args) : Nat := field x.q.toNat 6 4
def Args.order32 (x : Args) : Nat := field x.q.toNat 3 2
def Args.order54 (x : Args) : Nat := field x.q.toNat 5 4
/-- The 16-bit immediate of a class I word. -/
def Args.imm (x : Args) : Nat := x.b.toNat * 256 + x.c.toNat
def Args.xmode (x : Args) : Nat := field x.q.toNat 1 0
def Args.rm (x : Args) : Nat := field x.q.toNat 6 5
def Args.sat (x : Args) : Bool := bitOf x.q.toNat 4
def Args.neg (x : Args) : Bool := bitOf x.q.toNat 3
def Args.abs (x : Args) : Bool := bitOf x.q.toNat 2

/-- Alignment of the first data register for `n` registers (Table 90). -/
def regAligned (d n : Nat) : Bool := d % n == 0

/-- Data registers of a width code (Table 90). -/
def widthRegs (code : Nat) : Nat := if code = 6 then 4 else if code = 5 then 2 else 1

def scopeOk (order scope : Nat) : Bool := if order = 0 then scope == 0 else scope ≤ 5
def flagOk (f : Nat) : Bool := f ≤ 11 || f == 15

/-- Qualifier and second-word limits of the MEM members (Tables 88, 89, 90). -/
def ldOk (x : Args) : Bool :=
  x.width ≤ 6 && x.order32 ≤ 1 && field x.q.toNat 1 0 == 0 && regAligned x.d.toNat (widthRegs x.width) &&
  scopeOk x.order32 x.scope && flagOk x.flag && x.chan == 0
def storeWidthOk (w : Nat) : Bool := w == 0 || w == 2 || w == 4 || w == 5 || w == 6
def stOk (x : Args) : Bool :=
  storeWidthOk x.width && (x.order32 == 0 || x.order32 == 2) && field x.q.toNat 1 0 == 0 &&
  regAligned x.d.toNat (widthRegs x.width) && scopeOk x.order32 x.scope && flagOk x.flag
def ldfeOk (x : Args) : Bool :=
  x.width ≤ 6 && field x.q.toNat 3 1 == 0 && regAligned x.d.toNat (widthRegs x.width) && x.scope == 0 && flagOk x.flag && x.chan == 0
def stfeOk (x : Args) : Bool := stOk x
def ldrOk (x : Args) : Bool :=
  x.width ≤ 6 && field x.q.toNat 3 0 == 0 && regAligned x.d.toNat (widthRegs x.width) && x.scope == 0 && flagOk x.flag
def atomRegs (x : Args) : Nat := if bitOf x.q.toNat 6 then 2 else 1
def atomOk (x : Args) : Bool :=
  field x.q.toNat 3 0 ≤ 11 && regAligned x.d.toNat (atomRegs x) && scopeOk x.order54 x.scope && flagOk x.flag
def casOk (x : Args) : Bool :=
  (x.width == 4 || x.width == 5 || x.width == 6) && field x.q.toNat 1 0 == 0 && regAligned x.d.toNat (widthRegs x.width) &&
  scopeOk x.order32 x.scope && flagOk x.flag
def redOk (x : Args) : Bool :=
  field x.q.toNat 3 0 ≤ 10 && (x.order54 == 0 || x.order54 == 2) && regAligned x.d.toNat (atomRegs x) &&
  scopeOk x.order54 x.scope && flagOk x.flag
def prefOk (x : Args) : Bool := field x.q.toNat 6 1 == 0 && x.d == 0 && x.scope == 0 && x.c == 0
def invlOk (x : Args) : Bool :=
  field x.q.toNat 6 1 == 0 && x.d == 0 && x.scope == 0 && x.c == 0 && (!bitOf x.q.toNat 0 || (x.a == 0 && x.slot == 0))
/-- Form, queue and predicate fields of a QUE word (Table 96). -/
def Args.qform (x : Args) : Nat := field x.q.toNat 1 0
def Args.hq (x : Args) : Nat := field x.b.toNat 2 0
def Args.qslot (x : Args) : Nat := field x.b.toNat 7 3
def Args.pred (x : Args) : Nat := field x.c.toNat 5 0
def quePredOk (x : Args) : Bool := field x.c.toNat 7 6 == 0 && (if x.qform = 1 then x.pred ≤ 47 else x.pred == 0)
def popqOk (x : Args) : Bool := field x.q.toNat 6 2 == 0 && x.qform ≤ 1 && x.a == 0 && x.qslot == 0 && quePredOk x
def pushqOk (x : Args) : Bool :=
  field x.q.toNat 6 2 == 0 && x.qform ≤ 2 && (x.qform == 2 || (x.d == 0 && x.qslot == 0)) && quePredOk x
/-- Fields of an MTX word (Tables 102, 103). -/
def Args.amode (x : Args) : Nat := field x.q.toNat 1 0
def Args.mflag (x : Args) : Nat := field x.q.toNat 5 2
def mtxBase (x : Args) : Bool := !bitOf x.q.toNat 6 && flagOk x.mflag
def stepDescOk (x : Args) : Bool := x.c.toNat % 8 == 0 && x.c.toNat ≤ 120
def mloopOk (x : Args) : Bool := mtxBase x && (x.amode ≥ 2 || x.a == 0) && x.b == 0 && stepDescOk x
def mloopjOk (x : Args) : Bool :=
  mtxBase x && x.amode ≤ 2 && (x.amode == 2 || x.a == 0) && 1 ≤ field x.b.toNat 7 6 &&
  field x.b.toNat 5 4 ≤ field x.b.toNat 7 6 && stepDescOk x
def mzeroOk (x : Args) : Bool := mtxBase x && x.amode == 0 && x.d == 0 && x.a == 0 && x.b == 0 && x.c.toNat ≤ 127
def mtransferOk (x : Args) : Bool :=
  mtxBase x && x.amode == 0 && x.d == 0 && x.a == 0 && x.b == 0 && x.c.toNat % 4 == 0 && x.c.toNat ≤ 124
/-- CVT: format codes, pairs of binary64, and where .NS stands (R246, R247). -/
def cvtOk (x : Args) : Bool :=
  let dc := field x.b.toNat 7 4
  let sc := field x.b.toNat 3 0
  dc ≤ 11 && sc ≤ 11 && (dc != 11 || x.d.toNat % 2 == 0) && (sc != 11 || (x.a.toNat % 2 == 0 && x.xmode == 0)) &&
  (x.sub == 0 || dc ≤ 3 || dc == 6 || dc == 7)
/-- PACK and UNPK: element format codes 0 to 4 and 6 to 9 in the long format (R248, R249). -/
def packOk (x : Args) : Bool := !x.long || field x.sub.toNat 3 0 ≤ 4 || (6 ≤ field x.sub.toNat 3 0 && field x.sub.toNat 3 0 ≤ 9)
/-- PACK takes .NS where its elements have 8 or 4 bits (R156). -/
def packNsOk (x : Args) : Bool :=
  let code := field x.sub.toNat 3 0
  packOk x && (x.sub.toNat < 16 || code ≤ 3 || code == 6 || code == 7)
def qopOk (x : Args) : Bool := x.sub != 7 && (x.sub.toNat ≤ 4 || x.b == 0)
/-- SWRS reaches $gate.status, $trap.vec.lo and $trap.vec.hi (Table 72). -/
def swrsOk (x : Args) : Bool := x.imm == 17 || x.imm == 22 || x.imm == 23
def joinImmOk (x : Args) : Bool := x.long && x.q == 1

/-- The row of the encoding tables for an instruction that takes `Args`, with its operand fields. -/
def Instr.form : Instr → Option (Form × Args)
  | .iadd x => some ({ uniform := false, op := 0x00, sub := none, cls := .S, d := .v, a := .v, b := .v, xa := true, xb := true, xl := true, sat := true }, x)
  | .isub x => some ({ uniform := false, op := 0x01, sub := none, cls := .S, d := .v, a := .v, b := .v, xa := true, xb := true, xl := true, sat := true }, x)
  | .iadds x => some ({ uniform := false, op := 0x02, sub := none, cls := .S, d := .v, a := .v, b := .v, c := .p }, x)
  | .imul x => some ({ uniform := false, op := 0x03, sub := none, cls := .S, d := .v, a := .v, b := .v, xa := true, xb := true, xl := true, sat := true }, x)
  | .imulh x => some ({ uniform := false, op := 0x04, sub := none, cls := .S, d := .v, a := .v, b := .v, xa := true, xb := true, xl := true }, x)
  | .imad x => some ({ uniform := false, op := 0x05, sub := none, cls := .S, d := .v, a := .v, b := .v, c := .v, third := true, sat := true }, x)
  | .imadw x => some ({ uniform := false, op := 0x06, sub := none, cls := .S, d := .v2, a := .v, b := .v, c := .v2, third := true }, x)
  | .imin x => some ({ uniform := false, op := 0x07, sub := none, cls := .S, d := .v, a := .v, b := .v, xa := true, xb := true, xl := true }, x)
  | .imax x => some ({ uniform := false, op := 0x08, sub := none, cls := .S, d := .v, a := .v, b := .v, xa := true, xb := true, xl := true }, x)
  | .iand x => some ({ uniform := false, op := 0x09, sub := none, cls := .S, d := .v, a := .v, b := .v, xa := true, xb := true, xl := true }, x)
  | .ior x => some ({ uniform := false, op := 0x0A, sub := none, cls := .S, d := .v, a := .v, b := .v, xa := true, xb := true, xl := true }, x)
  | .ixor x => some ({ uniform := false, op := 0x0B, sub := none, cls := .S, d := .v, a := .v, b := .v, xa := true, xb := true, xl := true }, x)
  | .ishl x => some ({ uniform := false, op := 0x0C, sub := none, cls := .S, d := .v, a := .v, b := .v, xa := true, xb := true, xl := true }, x)
  | .ishr x => some ({ uniform := false, op := 0x0D, sub := none, cls := .S, d := .v, a := .v, b := .v, xa := true, xb := true, xl := true }, x)
  | .isra x => some ({ uniform := false, op := 0x0E, sub := none, cls := .S, d := .v, a := .v, b := .v, xa := true, xb := true, xl := true }, x)
  | .irot x => some ({ uniform := false, op := 0x0F, sub := none, cls := .S, d := .v, a := .v, b := .v, xa := true, xb := true, xl := true }, x)
  | .ibfe x => some ({ uniform := false, op := 0x10, sub := none, cls := .S, d := .v, a := .v, b := .v, xa := true, xb := true, xl := true }, x)
  | .ibfi x => some ({ uniform := false, op := 0x11, sub := none, cls := .S, d := .v, a := .v, b := .v, c := .v, third := true }, x)
  | .iprm x => some ({ uniform := false, op := 0x12, sub := none, cls := .S, d := .v, a := .v, b := .v, c := .v, third := true }, x)
  | .icmp x => some ({ uniform := false, op := 0x13, sub := none, cls := .C, d := .pd, a := .v, b := .v, xa := true, xb := true, xl := true }, x)
  | .isel x => some ({ uniform := false, op := 0x14, sub := none, cls := .L, d := .v, a := .v, b := .v, c := .p }, x)
  | .iabs x => some ({ uniform := false, op := 0x15, sub := some 0, cls := .F, d := .v, a := .v, xa := true, xl := true, sat := true }, x)
  | .ineg x => some ({ uniform := false, op := 0x15, sub := some 1, cls := .F, d := .v, a := .v, xa := true, xl := true, sat := true }, x)
  | .inot x => some ({ uniform := false, op := 0x15, sub := some 2, cls := .F, d := .v, a := .v, xa := true, xl := true }, x)
  | .iclz x => some ({ uniform := false, op := 0x15, sub := some 3, cls := .F, d := .v, a := .v, xa := true, xl := true }, x)
  | .ipop x => some ({ uniform := false, op := 0x15, sub := some 4, cls := .F, d := .v, a := .v, xa := true, xl := true }, x)
  | .ibrev x => some ({ uniform := false, op := 0x15, sub := some 5, cls := .F, d := .v, a := .v, xa := true, xl := true }, x)
  | .mov x => some ({ uniform := false, op := 0x15, sub := some 6, cls := .F, d := .v, a := .v, xa := true, xl := true }, x)
  | .lid x => some ({ uniform := false, op := 0x15, sub := some 7, cls := .F, d := .v }, x)
  | .imovi x => some ({ uniform := false, op := 0x16, sub := none, cls := .I, d := .v }, x)
  | .imovh x => some ({ uniform := false, op := 0x17, sub := none, cls := .I, d := .v }, x)
  | .movx x => some ({ uniform := false, op := 0x18, sub := none, cls := .S, d := .any, a := .v, b := .x }, x)
  | .fadd x => some ({ uniform := false, op := 0x19, sub := none, cls := .S, d := .v, a := .v, b := .v, xa := true, xb := true, xl := true, rm := true, sat := true, neg := true, abs := true }, x)
  | .fsub x => some ({ uniform := false, op := 0x1A, sub := none, cls := .S, d := .v, a := .v, b := .v, xa := true, xb := true, xl := true, rm := true, sat := true, neg := true, abs := true }, x)
  | .fmul x => some ({ uniform := false, op := 0x1B, sub := none, cls := .S, d := .v, a := .v, b := .v, xa := true, xb := true, xl := true, rm := true, sat := true, neg := true, abs := true }, x)
  | .ffma x => some ({ uniform := false, op := 0x1C, sub := none, cls := .S, d := .v, a := .v, b := .v, c := .v, third := true, rm := true, sat := true, neg := true, abs := true }, x)
  | .fmin x => some ({ uniform := false, op := 0x1D, sub := none, cls := .S, d := .v, a := .v, b := .v, xa := true, xb := true, xl := true, neg := true, abs := true }, x)
  | .fmax x => some ({ uniform := false, op := 0x1E, sub := none, cls := .S, d := .v, a := .v, b := .v, xa := true, xb := true, xl := true, neg := true, abs := true }, x)
  | .fcmp x => some ({ uniform := false, op := 0x1F, sub := none, cls := .C, d := .pd, a := .v, b := .v, xa := true, xb := true, xl := true, neg := true, abs := true }, x)
  | .fdiv x => some ({ uniform := false, op := 0x20, sub := none, cls := .S, d := .v, a := .v, b := .v, xa := true, xb := true, xl := true, rm := true, sat := true, neg := true, abs := true }, x)
  | .frcp x => some ({ uniform := false, op := 0x21, sub := some 0, cls := .F, d := .v, a := .v, xa := true, xl := true, neg := true, abs := true }, x)
  | .frsq x => some ({ uniform := false, op := 0x21, sub := some 1, cls := .F, d := .v, a := .v, xa := true, xl := true, neg := true, abs := true }, x)
  | .fsqrt x => some ({ uniform := false, op := 0x21, sub := some 2, cls := .F, d := .v, a := .v, xa := true, xl := true, neg := true, abs := true, rm := true }, x)
  | .fexp2 x => some ({ uniform := false, op := 0x21, sub := some 3, cls := .F, d := .v, a := .v, xa := true, xl := true, neg := true, abs := true }, x)
  | .flog2 x => some ({ uniform := false, op := 0x21, sub := some 4, cls := .F, d := .v, a := .v, xa := true, xl := true, neg := true, abs := true }, x)
  | .fsin x => some ({ uniform := false, op := 0x21, sub := some 5, cls := .F, d := .v, a := .v, xa := true, xl := true, neg := true, abs := true }, x)
  | .fcos x => some ({ uniform := false, op := 0x21, sub := some 6, cls := .F, d := .v, a := .v, xa := true, xl := true, neg := true, abs := true }, x)
  | .frnd x => some ({ uniform := false, op := 0x21, sub := some 7, cls := .F, d := .v, a := .v, xa := true, xl := true, neg := true, abs := true, rm := true }, x)
  | .fcls x => some ({ uniform := false, op := 0x21, sub := some 8, cls := .F, d := .v, a := .v, xa := true, xl := true, neg := true, abs := true }, x)
  | .hadd2 x => some ({ uniform := false, op := 0x22, sub := none, cls := .S, d := .v, a := .v, b := .v, xa := true, xb := true, xl := true, rm := true, sat := true, neg := true, abs := true, subMax := 1 }, x)
  | .hmul2 x => some ({ uniform := false, op := 0x23, sub := none, cls := .S, d := .v, a := .v, b := .v, xa := true, xb := true, xl := true, rm := true, sat := true, neg := true, abs := true, subMax := 1 }, x)
  | .hfma2 x => some ({ uniform := false, op := 0x24, sub := none, cls := .S, d := .v, a := .v, b := .v, c := .v, third := true, rm := true, sat := true, neg := true, abs := true, subMax := 1 }, x)
  | .dadd x => some ({ uniform := false, op := 0x25, sub := none, cls := .S, d := .v2, a := .v2, b := .v2, rm := true, sat := true, neg := true, abs := true }, x)
  | .dmul x => some ({ uniform := false, op := 0x26, sub := none, cls := .S, d := .v2, a := .v2, b := .v2, rm := true, sat := true, neg := true, abs := true }, x)
  | .dfma x => some ({ uniform := false, op := 0x27, sub := none, cls := .S, d := .v2, a := .v2, b := .v2, c := .v2, third := true, rm := true, sat := true, neg := true, abs := true }, x)
  | .cvt x => some ({ uniform := false, op := 0x28, sub := none, cls := .L, d := .any, a := .any, b := .any, rm := true, xa := true, xl := true, subMax := 1, extra := cvtOk }, x)
  | .pack x => some ({ uniform := false, op := 0x29, sub := none, cls := .S, d := .v, a := .v, b := .v, rm := true, subMax := 31, extra := packNsOk }, x)
  | .unpk x => some ({ uniform := false, op := 0x2A, sub := none, cls := .S, d := .v, a := .v, b := .v, xa := true, xb := true, xl := true, subMax := 15, extra := packOk }, x)
  | .idp4 x => some ({ uniform := false, op := 0x2B, sub := none, cls := .S, d := .v, a := .v, b := .v, c := .v, third := true, sat := true, subMax := 3 }, x)
  | .idp8 x => some ({ uniform := false, op := 0x2C, sub := none, cls := .S, d := .v, a := .v, b := .v, c := .v, third := true, sat := true, subMax := 3 }, x)
  | .fdp4 x => some ({ uniform := false, op := 0x2D, sub := none, cls := .S, d := .v, a := .v, b := .v, c := .v, third := true, subMax := 3 }, x)
  | .fdp2 x => some ({ uniform := false, op := 0x2E, sub := none, cls := .S, d := .v, a := .v, b := .v, c := .v, third := true, subMax := 1 }, x)
  | .scl x => some ({ uniform := false, op := 0x2F, sub := none, cls := .S, d := .v, a := .v, b := .v, xa := true, xb := true, xl := true, rm := true, sat := true, subMax := 1 }, x)
  | .pand x => some ({ uniform := false, op := 0x30, sub := none, cls := .S, d := .p, a := .p, b := .p, neg := true }, x)
  | .por x => some ({ uniform := false, op := 0x31, sub := none, cls := .S, d := .p, a := .p, b := .p, neg := true }, x)
  | .pxor x => some ({ uniform := false, op := 0x32, sub := none, cls := .S, d := .p, a := .p, b := .p, neg := true }, x)
  | .pmov x => some ({ uniform := false, op := 0x33, sub := some 0, cls := .F, d := .p, a := .p }, x)
  | .pnot x => some ({ uniform := false, op := 0x33, sub := some 1, cls := .F, d := .p, a := .p }, x)
  | .xld x => some ({ uniform := false, op := 0x34, sub := none, cls := .S, d := .v, a := .v, b := .v }, x)
  | .xshf x => some ({ uniform := false, op := 0x35, sub := none, cls := .S, d := .v, a := .v, b := .s }, x)
  | .xbal x => some ({ uniform := false, op := 0x36, sub := some 0, cls := .F, d := .v, a := .p }, x)
  | .xany x => some ({ uniform := false, op := 0x36, sub := some 1, cls := .F, d := .p, a := .p }, x)
  | .xall x => some ({ uniform := false, op := 0x36, sub := some 2, cls := .F, d := .p, a := .p }, x)
  | .xred x => some ({ uniform := false, op := 0x37, sub := none, cls := .F, d := .v, a := .v, subShort := true, subMax := 10 }, x)
  | .xscan x => some ({ uniform := false, op := 0x38, sub := none, cls := .F, d := .v, a := .v, subShort := true, subMax := 10 }, x)
  | .xscanEx x => some ({ uniform := false, op := 0x38, sub := none, cls := .F, d := .v, a := .v, subShort := true, subMax := 10 }, x)
  | .ld x => some ({ uniform := false, op := 0x39, sub := some 0, cls := .L, d := .any, a := .any, b := .any, c := .any, qOwn := true, extra := ldOk }, x)
  | .st x => some ({ uniform := false, op := 0x39, sub := some 1, cls := .L, d := .any, a := .any, b := .any, c := .any, qOwn := true, extra := stOk }, x)
  | .ldfe x => some ({ uniform := false, op := 0x39, sub := some 2, cls := .L, d := .any, a := .any, b := .any, c := .any, qOwn := true, extra := ldfeOk }, x)
  | .stfe x => some ({ uniform := false, op := 0x39, sub := some 3, cls := .L, d := .any, a := .any, b := .any, c := .any, qOwn := true, extra := stfeOk }, x)
  | .ldr x => some ({ uniform := false, op := 0x39, sub := some 4, cls := .L, d := .any, a := .any, b := .any, c := .any, qOwn := true, extra := ldrOk }, x)
  | .atom x => some ({ uniform := false, op := 0x39, sub := some 5, cls := .L, d := .any, a := .any, b := .any, c := .any, qOwn := true, extra := atomOk }, x)
  | .cas x => some ({ uniform := false, op := 0x39, sub := some 6, cls := .L, d := .any, a := .any, b := .any, c := .any, qOwn := true, extra := casOk }, x)
  | .red x => some ({ uniform := false, op := 0x39, sub := some 7, cls := .L, d := .any, a := .any, b := .any, c := .any, qOwn := true, extra := redOk }, x)
  | .pref x => some ({ uniform := false, op := 0x39, sub := some 8, cls := .L, d := .any, a := .any, b := .any, c := .any, qOwn := true, extra := prefOk }, x)
  | .invl x => some ({ uniform := false, op := 0x39, sub := some 9, cls := .L, d := .any, a := .any, b := .any, c := .any, qOwn := true, extra := invlOk }, x)
  | .popq x => some ({ uniform := false, op := 0x3A, sub := some 0, cls := .L, d := .any, a := .any, b := .any, c := .any, qOwn := true, extra := popqOk }, x)
  | .pushq x => some ({ uniform := false, op := 0x3A, sub := some 1, cls := .L, d := .any, a := .any, b := .any, c := .any, qOwn := true, extra := pushqOk }, x)
  | .mloop x => some ({ uniform := false, op := 0x3B, sub := some 0, cls := .L, d := .any, a := .any, b := .any, c := .any, qOwn := true, extra := mloopOk }, x)
  | .mloopj x => some ({ uniform := false, op := 0x3B, sub := some 1, cls := .L, d := .any, a := .any, b := .any, c := .any, qOwn := true, extra := mloopjOk }, x)
  | .mzero x => some ({ uniform := false, op := 0x3B, sub := some 2, cls := .L, d := .any, a := .any, b := .any, c := .any, qOwn := true, extra := mzeroOk }, x)
  | .mlda x => some ({ uniform := false, op := 0x3B, sub := some 3, cls := .L, d := .any, a := .any, b := .any, c := .any, qOwn := true, extra := mtransferOk }, x)
  | .mdrn x => some ({ uniform := false, op := 0x3B, sub := some 4, cls := .L, d := .any, a := .any, b := .any, c := .any, qOwn := true, extra := mtransferOk }, x)
  | .mrsum x => some ({ uniform := false, op := 0x3B, sub := some 5, cls := .L, d := .any, a := .any, b := .any, c := .any, qOwn := true, extra := mloopOk }, x)
  | .nop x => some ({ uniform := true, op := 0x06, sub := some 0, cls := .F }, x)
  | .ret x => some ({ uniform := true, op := 0x06, sub := some 1, cls := .F, a := .s2 }, x)
  | .exit x => some ({ uniform := true, op := 0x06, sub := some 2, cls := .F }, x)
  | .tret x => some ({ uniform := true, op := 0x06, sub := some 3, cls := .F }, x)
  | .gret x => some ({ uniform := true, op := 0x06, sub := some 4, cls := .F }, x)
  | .halt x => some ({ uniform := true, op := 0x06, sub := some 5, cls := .F }, x)
  | .sleep x => some ({ uniform := true, op := 0x06, sub := some 6, cls := .F, a := .s }, x)
  | .brx x => some ({ uniform := true, op := 0x06, sub := some 7, cls := .F, a := .s2 }, x)
  | .gateRegister x => some ({ uniform := true, op := 0x06, sub := some 8, cls := .F, a := .s }, x)
  | .wpt x => some ({ uniform := true, op := 0x07, sub := none, cls := .I, immMax := 255 }, x)
  | .trap x => some ({ uniform := true, op := 0x08, sub := none, cls := .I, immMax := 2047 }, x)
  | .gate x => some ({ uniform := true, op := 0x09, sub := none, cls := .I, immMax := 255 }, x)
  | .sadd x => some ({ uniform := true, op := 0x0A, sub := none, cls := .S, d := .s, a := .s, b := .s, sat := true }, x)
  | .ssub x => some ({ uniform := true, op := 0x0B, sub := none, cls := .S, d := .s, a := .s, b := .s, sat := true }, x)
  | .smul x => some ({ uniform := true, op := 0x0C, sub := none, cls := .S, d := .s, a := .s, b := .s }, x)
  | .smulh x => some ({ uniform := true, op := 0x0D, sub := none, cls := .S, d := .s, a := .s, b := .s }, x)
  | .smad x => some ({ uniform := true, op := 0x0E, sub := none, cls := .S, d := .s, a := .s, b := .s, c := .s, third := true }, x)
  | .sdiv x => some ({ uniform := true, op := 0x0F, sub := none, cls := .S, d := .s, a := .s, b := .s }, x)
  | .srem x => some ({ uniform := true, op := 0x10, sub := none, cls := .S, d := .s, a := .s, b := .s }, x)
  | .sand x => some ({ uniform := true, op := 0x11, sub := none, cls := .S, d := .s, a := .s, b := .s }, x)
  | .sor x => some ({ uniform := true, op := 0x12, sub := none, cls := .S, d := .s, a := .s, b := .s }, x)
  | .sxor x => some ({ uniform := true, op := 0x13, sub := none, cls := .S, d := .s, a := .s, b := .s }, x)
  | .sshl x => some ({ uniform := true, op := 0x14, sub := none, cls := .S, d := .s, a := .s, b := .s }, x)
  | .sshr x => some ({ uniform := true, op := 0x15, sub := none, cls := .S, d := .s, a := .s, b := .s }, x)
  | .ssra x => some ({ uniform := true, op := 0x16, sub := none, cls := .S, d := .s, a := .s, b := .s }, x)
  | .srot x => some ({ uniform := true, op := 0x17, sub := none, cls := .S, d := .s, a := .s, b := .s }, x)
  | .smin x => some ({ uniform := true, op := 0x18, sub := none, cls := .S, d := .s, a := .s, b := .s }, x)
  | .smax x => some ({ uniform := true, op := 0x19, sub := none, cls := .S, d := .s, a := .s, b := .s }, x)
  | .sbfe x => some ({ uniform := true, op := 0x1A, sub := none, cls := .S, d := .s, a := .s, b := .s }, x)
  | .sbfi x => some ({ uniform := true, op := 0x1B, sub := none, cls := .S, d := .s, a := .s, b := .s, c := .s, third := true }, x)
  | .scmp x => some ({ uniform := true, op := 0x1C, sub := none, cls := .C, d := .qd, a := .s, b := .s }, x)
  | .ssel x => some ({ uniform := true, op := 0x1D, sub := none, cls := .L, d := .s, a := .s, b := .s, c := .qd }, x)
  | .qop x => some ({ uniform := true, op := 0x1E, sub := none, cls := .C, d := .qd, a := .qd, b := .qd, extra := qopOk }, x)
  | .sadd64 x => some ({ uniform := true, op := 0x1F, sub := none, cls := .S, d := .s2, a := .s2, b := .s2, sat := true }, x)
  | .ssub64 x => some ({ uniform := true, op := 0x20, sub := none, cls := .S, d := .s2, a := .s2, b := .s2, sat := true }, x)
  | .smul64 x => some ({ uniform := true, op := 0x21, sub := none, cls := .S, d := .s2, a := .s2, b := .s2 }, x)
  | .sshl64 x => some ({ uniform := true, op := 0x22, sub := none, cls := .S, d := .s2, a := .s2, b := .s }, x)
  | .snot x => some ({ uniform := true, op := 0x23, sub := some 0, cls := .F, d := .s, a := .s }, x)
  | .sclz x => some ({ uniform := true, op := 0x23, sub := some 1, cls := .F, d := .s, a := .s }, x)
  | .spop x => some ({ uniform := true, op := 0x23, sub := some 2, cls := .F, d := .s, a := .s }, x)
  | .smov x => some ({ uniform := true, op := 0x23, sub := some 3, cls := .F, d := .s, a := .s }, x)
  | .saddi x => some ({ uniform := true, op := 0x24, sub := none, cls := .I, d := .s, a := .s, sat := true }, x)
  | .smovi x => some ({ uniform := true, op := 0x25, sub := none, cls := .I, d := .s }, x)
  | .smovh x => some ({ uniform := true, op := 0x26, sub := none, cls := .I, d := .s }, x)
  | .srds x => some ({ uniform := true, op := 0x27, sub := none, cls := .I, d := .s, immMax := 31 }, x)
  | .swrs x => some ({ uniform := true, op := 0x28, sub := none, cls := .I, a := .s, immMax := 31, extra := swrsOk }, x)
  | .lbind x => some ({ uniform := true, op := 0x29, sub := none, cls := .S, d := .ly, a := .s2 }, x)
  | .lset x => some ({ uniform := true, op := 0x2A, sub := none, cls := .S, d := .ly, a := .s, b := .lset }, x)
  | .lqry x => some ({ uniform := true, op := 0x2B, sub := none, cls := .S, d := .s, a := .ly, b := .lqry }, x)
  | .xset x => some ({ uniform := true, op := 0x2C, sub := none, cls := .S, d := .x, a := .s }, x)
  | .chcfg x => some ({ uniform := true, op := 0x2E, sub := none, cls := .S, d := .ch, a := .s }, x)
  | .enq x => some ({ uniform := true, op := 0x2F, sub := none, cls := .S, d := .qd, a := .s2, b := .s10 }, x)
  | .join x => some ({ uniform := true, op := 0x30, sub := none, cls := .S, d := .ch, a := .s }, x)
  | .joinImmediateMask x => some ({ uniform := true, op := 0x30, sub := none, cls := .L, d := .ch, b := .any, c := .any, qOwn := true, extra := joinImmOk }, x)
  | .drain x => some ({ uniform := true, op := 0x31, sub := none, cls := .S, d := .ch, b := .scope }, x)
  | .fence x => some ({ uniform := true, op := 0x32, sub := none, cls := .S, a := .bit, b := .scope }, x)
  | .chstat x => some ({ uniform := true, op := 0x33, sub := none, cls := .S, d := .s, a := .ch, b := .sel }, x)
  | .bari x => some ({ uniform := true, op := 0x34, sub := some 0, cls := .F, a := .s2 }, x)
  | .bara x => some ({ uniform := true, op := 0x34, sub := some 1, cls := .F, d := .s, a := .s2 }, x)
  | .barw x => some ({ uniform := true, op := 0x34, sub := some 2, cls := .F, a := .s2 }, x)
  | .barx x => some ({ uniform := true, op := 0x34, sub := some 3, cls := .F, a := .s2 }, x)
  | .kick x => some ({ uniform := true, op := 0x35, sub := none, cls := .S, d := .fl, a := .s }, x)
  | .qcnt x => some ({ uniform := true, op := 0x36, sub := none, cls := .S, d := .s, a := .hq }, x)
  | .mopf x => some ({ uniform := true, op := 0x37, sub := some 0, cls := .F }, x)
  | .mwait x => some ({ uniform := true, op := 0x37, sub := some 1, cls := .F }, x)
  | .mqry x => some ({ uniform := true, op := 0x37, sub := some 2, cls := .F, d := .s, a := .sel }, x)
  | .clh _ => none
  | .rep _ => none
  | .bra _ => none
  | .brq _ => none
  | .brd _ => none
  | .call _ => none
  | .rgn _ => none
  | .pipeArbitration _ _ => none
  | .regionLoadComplete _ => none
  | .regionReload _ => none
  | .gateQuiesceEnd _ => none
  | .gretQuiesceEnd _ => none
  | .sleepExpiry _ => none
  | .taskPop _ => none
  | .memDataReturn _ => none
  | .tableWalkComplete _ => none
  | .accessPerformed _ => none
  | .ackReceived _ _ => none
  | .windowResume _ => none
  | .replySlotResume _ => none
  | .channelTableResume _ => none
  | .requestEntryResume _ => none
  | .releaseIssue _ => none
  | .joinHeldRelease _ => none
  | .joinPendingResume _ => none
  | .drainCompletion _ => none
  | .fenceCompletion _ => none
  | .tick => none
  | .ldfeWake _ => none
  | .baraArrival _ => none
  | .barwWake _ => none
  | .popqWake _ => none
  | .pushqWake _ => none
  | .chcfgWake _ => none
  | .lbindSlotWrite _ => none
  | .enqAtomicStep _ => none
  | .kickQueuePlace _ => none
  | .copyRequestStart _ _ => none
  | .copySegmentMove _ _ => none
  | .copySegmentPerformed _ _ => none
  | .matrixQueuePlace _ => none
  | .matrixInstructionStart _ _ _ => none
  | .tileStep _ _ => none
  | .matrixInstructionCompletion _ _ _ => none
  | .matrixTransferCompletion _ _ _ => none
  | .mopfComplete _ => none
  | .mwaitComplete _ => none
  | .matrixStreamCommandStart _ _ _ => none
  | .waitLimitTimeout _ => none
  | .commandClaim _ _ _ => none
  | .queueTailPoll _ _ _ => none
  | .bundle _ _ => none
  | .pin _ _ => none
  | .unpin _ _ => none
  | .waitCmd _ _ => none
  | .waitSemaphoreReread _ _ => none
  | .signal _ _ => none
  | .notify _ _ => none
  | .bundleRetire _ _ => none
  | .teamDraw _ _ _ _ => none
  | .scoreboardReread _ => none
  | .teamRelease _ _ _ => none
  | .pilotHeartbeat _ => none
  | .preemptionStarvationTimeout _ _ _ => none
  | .preemptionTakesEffect _ => none
  | .saveImageComplete _ => none
  | .teamRestore _ _ => none
  | .teamRetirement _ => none
  | .doorbell _ _ => none
  | .registerWrite _ => none
  | .inboundMemoryWrite _ => none
  | .writePartRelease _ _ => none
  | .writePartAcknowledge _ _ => none
  | .inboundMemoryRead _ => none
  | .inboundAtomicop _ => none
  | .outboundCompletion _ _ _ _ => none
  | .completionTimeout _ => none
  | .surpriseDown => none
  | .hotReset => none
  | .powerGood => none
  | .createPartition _ => none
  | .destroyPartition _ => none
  | .createQueue _ => none
  | .preempt _ => none
  | .installGate _ => none
  | .writeSegment _ => none
  | .writePeer _ => none
  | .writeTrust _ => none
  | .rekey _ => none
  | .getReport _ => none
  | .getCerts _ => none
  | .readErrors _ => none
  | .resetQueue _ => none
  | .restartPilot _ => none
  | .resetPartition _ => none
  | .warmReset _ => none
  | .readLinks _ => none
  | .readHealth _ => none
  | .writeConfig _ => none
  | .domainCopy _ => none
  | .pwrLimitWrite _ => none
  | .eolThresholdWrite _ => none
  | .powerControlSample _ _ => none
  | .healthSample _ => none
  | .planeLost _ => none
  | .eccErrorDetected _ => none
  | .frameTransmit _ _ => none
  | .frameReceived _ _ => none
  | .nackReceived _ _ => none
  | .noRoomRetry _ => none
  | .resyncTimeout _ => none
  | .resync _ _ => none
  | .resyncReply _ _ => none
  | .resyncRetry _ => none
  | .responseTimeout _ => none
  | .keyStateIdleDrop _ => none
  | .linkAckReceived _ _ => none
  | .linkNackReceived _ => none
  | .linkAckTimeout _ => none
  | .laneDownSignal _ => none
  | .laneRetrain _ _ => none
  | .planeRejoin _ => none
  | .planeUnreachableNotice _ _ => none
  | .planeProbe _ _ _ => none
  | .livenessFrame _ => none
  | .peerLossTimeout _ => none
  | .kx1 _ _ => none
  | .kx2 _ _ => none
  | .kx3 _ _ => none
  | .keyHandshakeTimeout _ => none
  | .handshakeRetry _ => none
  | .previousEpochExpiry _ => none
  | .engineStopRecord _ _ => none
  | .ideKm _ _ => none
  | .hostLinkReturn => none
  | .creditGrant _ _ _ => none
  | .powerGoodRemoval => none
  | .bootStepComplete _ => none

/-- Does a value lie in the class of its field (R181)? -/
def Fld.ok (long : Bool) (f : Fld) (x : BitVec 8) : Bool :=
  let n := x.toNat
  match f with
  | .none => n == 0
  | .any => true
  | .v => true
  | .v2 => n % 2 == 0
  | .s => n ≤ 127
  | .s2 => n ≤ 127 && n % 2 == 0
  | .s10 => n ≤ 118 && n % 2 == 0
  | .p => n ≤ 47
  | .pd => n ≤ (if long then 47 else 15)
  | .qd => n ≤ 15
  | .x => n ≤ 7
  | .ch => n ≤ 15
  | .fl => n ≤ 11 || n == 15
  | .hq => n ≤ 7
  | .ly => n ≤ 31
  | .scope => n ≤ 5
  | .sel => n ≤ 2
  | .bit => n ≤ 1
  | .lset => n ≤ 10 || (16 ≤ n && n ≤ 20) || (24 ≤ n && n ≤ 28) || (32 ≤ n && n ≤ 36)
  | .lqry => n ≤ 10 || (16 ≤ n && n ≤ 20) || (24 ≤ n && n ≤ 28) || (32 ≤ n && n ≤ 36) || n == 40

/-- The long guard of R186; a short guard is `gp` 0 to 7 true, 0 to 6 false, or always (Table 53), and classes I and Q have
none in the short format. -/
def guardOk (uniform long noShortGuard : Bool) (gp : BitVec 6) (gn : Bool) : Bool :=
  let n := gp.toNat
  if n = 63 then !gn
  else if long then (if uniform then n ≤ 15 else n ≤ 47)
  else !noShortGuard && (if gn then n ≤ 6 else n ≤ 7)

/-- The operand class of R187: the opcodes whose long form reads the operand modifiers. -/
def operandClass (uniform : Bool) (op : Nat) : Bool :=
  if uniform then 0x0A ≤ op && op ≤ 0x26 else op ≤ 0x38

/-- Are the modifiers and the operand mode those that the entry lists (R187, R188, R232)? -/
def modifiersOk (f : Form) (x : Args) : Bool :=
  if f.qOwn then true
  else if !x.long then x.q == 0
  else if !operandClass f.uniform f.op then x.q == 0
  else
    (f.rm || x.rm == 0) && (f.sat || !x.sat) && (f.neg || !x.neg) && (f.abs || !x.abs) &&
    (match x.xmode with
     | 0 => true
     | 1 => f.xa
     | 2 => f.xb
     | _ => f.xl)

/-- Are the bits of `sub` those that the entry defines? -/
def subOk (f : Form) (x : Args) : Bool :=
  match f.cls with
  | .C => x.sub.toNat ≤ 7
  | _ => if x.long || f.subShort then x.sub.toNat ≤ f.subMax else x.sub == 0

/-- The register fields d, a, b and c, by class, format and operand mode. -/
def fieldsOk (f : Form) (x : Args) : Bool :=
  let short7 := x.long || (x.d.toNat ≤ 127 && x.a.toNat ≤ 127 && (f.cls == .I || x.b.toNat ≤ 127))
  let aOk := if operandClass f.uniform f.op && x.xmode == 1 then true else f.a.ok x.long x.a
  let bOk := if f.cls == .I then true else if operandClass f.uniform f.op && x.xmode == 2 then true else f.b.ok x.long x.b
  let cOk :=
    if f.cls == .I then true
    else if !x.long then x.c == 0
    else if f.qOwn then f.c.ok x.long x.c
    else match x.xmode with
      | 0 => f.c.ok x.long x.c
      | 3 => true
      | _ => x.c.toNat ≤ 7
  short7 && f.d.ok x.long x.d && aOk && bOk && cOk

/-- Is the immediate of a class I word within the range of its entry? Short words hold 11 bits. -/
def immOk (f : Form) (x : Args) : Bool :=
  if f.cls == .I then x.imm ≤ f.immMax && (x.long || x.imm ≤ 2047) else true

/-- The rule of Table 66 that the fields of an instruction break, if any. -/
def Form.error (f : Form) (x : Args) : Option DecodeError :=
  if f.cls == .L && !x.long then some .longOnly
  else if !guardOk f.uniform x.long (f.cls == .I) x.gp x.gn then some .guard
  else if !modifiersOk f x then some .modifier
  else if !subOk f x then some .reserved
  else if !immOk f x then some .immediate
  else if !fieldsOk f x then some .registerClass
  else if !f.extra x then some .reserved
  else none

def ClhArgs.error (h : ClhArgs) : Option DecodeError :=
  let setOk (n : BitVec 4) : Bool := n.toNat ≤ 11 || n == 15
  if 1 ≤ h.len.toNat && h.len.toNat ≤ 24 && setOk h.seta && setOk h.setb && (h.seta != h.setb || h.seta == 15) then none
  else some .header

/-- A branch: guard, predicate class, and an offset that the format can hold (R182, R185). -/
def BrArgs.error (isBrd : Bool) (x : BrArgs) : Option DecodeError :=
  let fits (n : Nat) : Bool := ((x.off.truncate n : BitVec n).signExtend 18) == x.off
  if !guardOk true x.long true x.gp x.gn then some .guard
  else if !(x.pn.toNat ≤ (if isBrd then 47 else 15)) then some .registerClass
  else if !(isBrd || x.token == 0) then some .reserved
  else if !(if x.long then fits 16 else if isBrd then fits 10 else true) then some .immediate
  else none

/-- The rule of Table 66 that an instruction's fields break, if any; an event has no word. -/
def Instr.error : Instr → Option DecodeError
  | .clh h => h.error
  | .brq x => x.error false
  | .brd x => x.error true
  | .rgn regs => if regs.length ≤ 16 && regs.Nodup then none else some .region
  | i => match i.form with
    | some (f, x) => f.error x
    | none => none

/-- The instruction that a primary opcode and a sub-opcode name (Tables 61, 62 and 63), with the raw fields `x`; `imm` is bit
[0] of the qualifier, which tells the two JOIN forms apart (Table 97). `none` when the opcode or the member is unassigned. -/
def Instr.ofOpcode (uniform : Bool) (op : Nat) (sub : Nat) (imm : Bool) (x : Args) : Option Instr :=
  let y : Args := { x with sub := 0 }
  match uniform, op with
  | false, 0x00 => some (.iadd x)
  | false, 0x01 => some (.isub x)
  | false, 0x02 => some (.iadds x)
  | false, 0x03 => some (.imul x)
  | false, 0x04 => some (.imulh x)
  | false, 0x05 => some (.imad x)
  | false, 0x06 => some (.imadw x)
  | false, 0x07 => some (.imin x)
  | false, 0x08 => some (.imax x)
  | false, 0x09 => some (.iand x)
  | false, 0x0A => some (.ior x)
  | false, 0x0B => some (.ixor x)
  | false, 0x0C => some (.ishl x)
  | false, 0x0D => some (.ishr x)
  | false, 0x0E => some (.isra x)
  | false, 0x0F => some (.irot x)
  | false, 0x10 => some (.ibfe x)
  | false, 0x11 => some (.ibfi x)
  | false, 0x12 => some (.iprm x)
  | false, 0x13 => some (.icmp x)
  | false, 0x14 => some (.isel x)
  | false, 0x15 => match sub with | 0 => some (.iabs y) | 1 => some (.ineg y) | 2 => some (.inot y) | 3 => some (.iclz y) | 4 => some (.ipop y) | 5 => some (.ibrev y) | 6 => some (.mov y) | 7 => some (.lid y) | _ => none
  | false, 0x16 => some (.imovi x)
  | false, 0x17 => some (.imovh x)
  | false, 0x18 => some (.movx x)
  | false, 0x19 => some (.fadd x)
  | false, 0x1A => some (.fsub x)
  | false, 0x1B => some (.fmul x)
  | false, 0x1C => some (.ffma x)
  | false, 0x1D => some (.fmin x)
  | false, 0x1E => some (.fmax x)
  | false, 0x1F => some (.fcmp x)
  | false, 0x20 => some (.fdiv x)
  | false, 0x21 => match sub with | 0 => some (.frcp y) | 1 => some (.frsq y) | 2 => some (.fsqrt y) | 3 => some (.fexp2 y) | 4 => some (.flog2 y) | 5 => some (.fsin y) | 6 => some (.fcos y) | 7 => some (.frnd y) | 8 => some (.fcls y) | _ => none
  | false, 0x22 => some (.hadd2 x)
  | false, 0x23 => some (.hmul2 x)
  | false, 0x24 => some (.hfma2 x)
  | false, 0x25 => some (.dadd x)
  | false, 0x26 => some (.dmul x)
  | false, 0x27 => some (.dfma x)
  | false, 0x28 => some (.cvt x)
  | false, 0x29 => some (.pack x)
  | false, 0x2A => some (.unpk x)
  | false, 0x2B => some (.idp4 x)
  | false, 0x2C => some (.idp8 x)
  | false, 0x2D => some (.fdp4 x)
  | false, 0x2E => some (.fdp2 x)
  | false, 0x2F => some (.scl x)
  | false, 0x30 => some (.pand x)
  | false, 0x31 => some (.por x)
  | false, 0x32 => some (.pxor x)
  | false, 0x33 => match sub with | 0 => some (.pmov y) | 1 => some (.pnot y) | _ => none
  | false, 0x34 => some (.xld x)
  | false, 0x35 => some (.xshf x)
  | false, 0x36 => match sub with | 0 => some (.xbal y) | 1 => some (.xany y) | 2 => some (.xall y) | _ => none
  | false, 0x37 => if sub ≤ 10 then some (.xred { x with sub := BitVec.ofNat 5 sub }) else none
  | false, 0x38 => if sub ≤ 10 then some (.xscan { x with sub := BitVec.ofNat 5 sub })
    else if 16 ≤ sub ∧ sub ≤ 26 then some (.xscanEx { x with sub := BitVec.ofNat 5 (sub - 16) }) else none
  | false, 0x39 => match sub with | 0 => some (.ld y) | 1 => some (.st y) | 2 => some (.ldfe y) | 3 => some (.stfe y) | 4 => some (.ldr y) | 5 => some (.atom y) | 6 => some (.cas y) | 7 => some (.red y) | 8 => some (.pref y) | 9 => some (.invl y) | _ => none
  | false, 0x3A => match sub with | 0 => some (.popq y) | 1 => some (.pushq y) | _ => none
  | false, 0x3B => match sub with | 0 => some (.mloop y) | 1 => some (.mloopj y) | 2 => some (.mzero y) | 3 => some (.mlda y) | 4 => some (.mdrn y) | 5 => some (.mrsum y) | _ => none
  | true, 0x06 => match sub with | 0 => some (.nop y) | 1 => some (.ret y) | 2 => some (.exit y) | 3 => some (.tret y) | 4 => some (.gret y) | 5 => some (.halt y) | 6 => some (.sleep y) | 7 => some (.brx y) | 8 => some (.gateRegister y) | _ => none
  | true, 0x07 => some (.wpt x)
  | true, 0x08 => some (.trap x)
  | true, 0x09 => some (.gate x)
  | true, 0x0A => some (.sadd x)
  | true, 0x0B => some (.ssub x)
  | true, 0x0C => some (.smul x)
  | true, 0x0D => some (.smulh x)
  | true, 0x0E => some (.smad x)
  | true, 0x0F => some (.sdiv x)
  | true, 0x10 => some (.srem x)
  | true, 0x11 => some (.sand x)
  | true, 0x12 => some (.sor x)
  | true, 0x13 => some (.sxor x)
  | true, 0x14 => some (.sshl x)
  | true, 0x15 => some (.sshr x)
  | true, 0x16 => some (.ssra x)
  | true, 0x17 => some (.srot x)
  | true, 0x18 => some (.smin x)
  | true, 0x19 => some (.smax x)
  | true, 0x1A => some (.sbfe x)
  | true, 0x1B => some (.sbfi x)
  | true, 0x1C => some (.scmp x)
  | true, 0x1D => some (.ssel x)
  | true, 0x1E => some (.qop x)
  | true, 0x1F => some (.sadd64 x)
  | true, 0x20 => some (.ssub64 x)
  | true, 0x21 => some (.smul64 x)
  | true, 0x22 => some (.sshl64 x)
  | true, 0x23 => match sub with | 0 => some (.snot y) | 1 => some (.sclz y) | 2 => some (.spop y) | 3 => some (.smov y) | _ => none
  | true, 0x24 => some (.saddi x)
  | true, 0x25 => some (.smovi x)
  | true, 0x26 => some (.smovh x)
  | true, 0x27 => some (.srds x)
  | true, 0x28 => some (.swrs x)
  | true, 0x29 => some (.lbind x)
  | true, 0x2A => some (.lset x)
  | true, 0x2B => some (.lqry x)
  | true, 0x2C => some (.xset x)
  | true, 0x2E => some (.chcfg x)
  | true, 0x2F => some (.enq x)
  | true, 0x30 => if imm then some (.joinImmediateMask x) else some (.join x)
  | true, 0x31 => some (.drain x)
  | true, 0x32 => some (.fence x)
  | true, 0x33 => some (.chstat x)
  | true, 0x34 => match sub with | 0 => some (.bari y) | 1 => some (.bara y) | 2 => some (.barw y) | 3 => some (.barx y) | _ => none
  | true, 0x35 => some (.kick x)
  | true, 0x36 => some (.qcnt x)
  | true, 0x37 => match sub with | 0 => some (.mopf y) | 1 => some (.mwait y) | 2 => some (.mqry y) | _ => none
  | _, _ => none

/-- The guard of a short word (Table 53). -/
def shortGuard (g : Nat) : BitVec 6 × Bool :=
  if g = 15 then (63, false) else if g ≥ 8 then (BitVec.ofNat 6 (g - 8), true) else (BitVec.ofNat 6 g, false)

/-- Word class of an opcode whose operand fields are `Args` (Tables 61 and 62). -/
def classOf (uniform : Bool) (op : Nat) : Option Cls :=
  if uniform then
    if op = 0x06 || op = 0x23 || op = 0x34 || op = 0x37 then some .F
    else if op = 0x07 || op = 0x08 || op = 0x09 then some .I
    else if op = 0x1C || op = 0x1E then some .C
    else if op = 0x1D then some .L
    else if 0x24 ≤ op && op ≤ 0x28 then some .I
    else if (0x0A ≤ op && op ≤ 0x22) || (0x29 ≤ op && op ≤ 0x2C) || (0x2E ≤ op && op ≤ 0x36) then some .S
    else none
  else
    if op = 0x15 || op = 0x21 || op = 0x33 || (0x36 ≤ op && op ≤ 0x38) then some .F
    else if op = 0x16 || op = 0x17 then some .I
    else if op = 0x13 || op = 0x1F then some .C
    else if op = 0x14 || op = 0x28 || (0x39 ≤ op && op ≤ 0x3B) then some .L
    else if op ≤ 0x38 then some .S
    else none

/-- Does the long word's sub field name a family member? -/
def isFamily (uniform : Bool) (op : Nat) : Bool :=
  classOf uniform op == some .F || (!uniform && 0x39 ≤ op && op ≤ 0x3B)

/-- The raw fields of a short word of a class (Tables 52 to 54). -/
def shortArgs (cls : Cls) (w : Nat) : Args :=
  let g := shortGuard (field w 3 0)
  let n8 (n : Nat) : BitVec 8 := BitVec.ofNat 8 n
  match cls with
  | .I => { d := n8 (field w 24 18), a := n8 (field w 17 11), b := n8 (field w 10 8), c := n8 (field w 7 0) }
  | .C => { gp := g.1, gn := g.2, d := n8 (field w 21 18), a := n8 (field w 17 11), b := n8 (field w 10 4),
            sub := BitVec.ofNat 5 (field w 24 22) }
  | .F => { gp := g.1, gn := g.2, d := n8 (field w 24 18), a := n8 (field w 17 11) }
  | _ => { gp := g.1, gn := g.2, d := n8 (field w 24 18), a := n8 (field w 17 11), b := n8 (field w 10 4) }

/-- The raw fields of a long pair of words (Tables 55 and 56). -/
def longArgs (w0 w1 : Nat) : Args :=
  { long := true, gp := BitVec.ofNat 6 (field w0 13 8), gn := bitOf w0 7, sub := BitVec.ofNat 5 (field w0 18 14),
    q := BitVec.ofNat 7 (field w0 6 0), d := BitVec.ofNat 8 (field w1 31 24), a := BitVec.ofNat 8 (field w1 23 16),
    b := BitVec.ofNat 8 (field w1 15 8), c := BitVec.ofNat 8 (field w1 7 0) }

/-- Accepts an instruction whose fields break no rule. -/
def checked (i : Instr) : Except DecodeError Instr :=
  match i.error with
  | none => .ok i
  | some e => .error e

/-- A short word with an opcode whose fields are `Args`. -/
def decodeShort (uniform : Bool) (op w : Nat) : Except DecodeError Instr :=
  match classOf uniform op with
  | none => .error .opcode
  | some .L => .error .longOnly
  | some cls =>
    let x := shortArgs cls w
    match Instr.ofOpcode uniform op (if cls == .F then field w 10 4 else 0) false x with
    | some i => checked i
    | none => .error .member

/-- A long pair of words. -/
def decodeLong (uniform : Bool) (w0 w1 : Nat) : Except DecodeError Instr :=
  let op := field w0 24 19
  let x := longArgs w0 w1
  if uniform && (op = 0x00 || op = 0x01 || op = 0x02 || op = 0x05 || op = 0x2D) then .error .noLongForm
  else if uniform && (op = 0x03 || op = 0x04) then
    let br : BrArgs := { long := true, gp := x.gp, gn := x.gn, sense := bitOf w1 31, pn := BitVec.ofNat 6 (field w1 29 24),
                         token := BitVec.ofNat 8 (field w1 23 16), off := (BitVec.ofNat 16 (field w1 15 0)).signExtend 18 }
    if x.sub == 0 && x.q == 0 && !bitOf w1 30 then checked (if op = 0x03 then .brq br else .brd br) else .error .reserved
  else match classOf uniform op with
    | none => .error .opcode
    | some _ =>
      match Instr.ofOpcode uniform op (field w0 18 14) (uniform && bitOf w0 0) x with
      | some i => checked i
      | none => .error .member

/-- The register list of a region head: `n` entries from the list words' bytes; bytes beyond entry n must be zero (R193). -/
def decodeRgn (w0 : Nat) (rest : List Byte) : Except DecodeError Instr :=
  let n := field w0 24 20
  if n > 16 then .error .region
  else if field w0 19 0 ≠ 0 then .error .reserved
  else
    let bytes := 4 * ceilDiv n 4
    if rest.length < bytes then .error .truncated
    else if ((rest.take bytes).drop n).all (· == 0) then checked (.rgn (rest.take n))
    else .error .reserved

/-- Bytes in an instruction (R194): the word, its second word, or the list words of a region head. -/
def Instr.size : Instr → Nat
  | .brq x => if x.long then 8 else 4
  | .brd x => if x.long then 8 else 4
  | .rgn regs => 4 + 4 * ceilDiv regs.length 4
  | i => match i.form with
    | some (_, x) => if x.long then 8 else 4
    | none => 4

/-- The instruction at the start of a list of bytes (R177, R178, R184). Total on any bytes. -/
def decode (bytes : List Byte) : Except DecodeError Instr :=
  if bytes.length < 4 then .error .truncated
  else
    let w0 := natOfBytes (bytes.take 4)
    let rest := bytes.drop 4
    let uniform := bitOf w0 31
    let op := field w0 30 25
    if op = 0x3F then
      if rest.length < 4 then .error .truncated else decodeLong uniform w0 (natOfBytes (rest.take 4))
    else if uniform && op = 0x00 then
      checked (.clh { wait := BitVec.ofNat 12 (field w0 24 13), seta := BitVec.ofNat 4 (field w0 12 9),
                      setb := BitVec.ofNat 4 (field w0 8 5), len := BitVec.ofNat 5 (field w0 4 0) })
    else if uniform && op = 0x01 then
      if field w0 12 0 ≠ 0 then .error .reserved
      else .ok (.rep { cnt := BitVec.ofNat 6 (field w0 24 19), sd := BitVec.ofNat 2 (field w0 18 17),
                       sa := BitVec.ofNat 2 (field w0 16 15), sb := BitVec.ofNat 2 (field w0 14 13) })
    else if uniform && op = 0x02 then .ok (.bra (BitVec.ofNat 25 (field w0 24 0)))
    else if uniform && op = 0x05 then .ok (.call (BitVec.ofNat 25 (field w0 24 0)))
    else if uniform && op = 0x03 then
      checked (.brq { sense := bitOf w0 24, pn := BitVec.ofNat 6 (field w0 23 18), off := BitVec.ofNat 18 (field w0 17 0) })
    else if uniform && op = 0x04 then
      checked (.brd { sense := bitOf w0 24, pn := BitVec.ofNat 6 (field w0 23 18), token := BitVec.ofNat 8 (field w0 17 10),
                      off := (BitVec.ofNat 10 (field w0 9 0)).signExtend 18 })
    else if uniform && op = 0x2D then decodeRgn w0 rest
    else decodeShort uniform op w0

/-- Guard code of a short word (Table 53). -/
def guardCode (gp : BitVec 6) (gn : Bool) : Nat := if gp = 63 then 15 else gp.toNat + (if gn then 8 else 0)

/-- The member code that a word carries: the family sub-opcode, or the operation of XRED, XSCAN and XSCAN_EX (Table 63). -/
def Instr.memberCode (i : Instr) (f : Form) (x : Args) : Nat :=
  match i with
  | .xscanEx _ => x.sub.toNat + 16
  | _ => match f.sub with
    | some n => n
    | none => x.sub.toNat

/-- The words of an instruction whose fields are `Args`. -/
def encodeArgs (i : Instr) (f : Form) (x : Args) : List Nat :=
  let setBit := if f.uniform then 2 ^ 31 else 0
  if x.long then
    [setBit + 0x3F * 2 ^ 25 + f.op * 2 ^ 19 + i.memberCode f x * 2 ^ 14 + x.gp.toNat * 2 ^ 8 + (if x.gn then 2 ^ 7 else 0) + x.q.toNat,
     x.d.toNat * 2 ^ 24 + x.a.toNat * 2 ^ 16 + x.b.toNat * 2 ^ 8 + x.c.toNat]
  else
    let base := setBit + f.op * 2 ^ 25
    let g := guardCode x.gp x.gn
    match f.cls with
    | .I => [base + x.d.toNat * 2 ^ 18 + x.a.toNat * 2 ^ 11 + x.imm]
    | .C => [base + x.sub.toNat * 2 ^ 22 + x.d.toNat * 2 ^ 18 + x.a.toNat * 2 ^ 11 + x.b.toNat * 2 ^ 4 + g]
    | .F => [base + x.d.toNat * 2 ^ 18 + x.a.toNat * 2 ^ 11 + i.memberCode f x * 2 ^ 4 + g]
    | _ => [base + x.d.toNat * 2 ^ 18 + x.a.toNat * 2 ^ 11 + x.b.toNat * 2 ^ 4 + g]

/-- The words of a branch of class Q (Table 54, R185). -/
def encodeBr (op : Nat) (x : BrArgs) : List Nat :=
  if x.long then
    [2 ^ 31 + 0x3F * 2 ^ 25 + op * 2 ^ 19 + x.gp.toNat * 2 ^ 8 + (if x.gn then 2 ^ 7 else 0),
     (if x.sense then 2 ^ 31 else 0) + x.pn.toNat * 2 ^ 24 + x.token.toNat * 2 ^ 16 + (x.off.truncate 16).toNat]
  else if op = 0x03 then
    [2 ^ 31 + op * 2 ^ 25 + (if x.sense then 2 ^ 24 else 0) + x.pn.toNat * 2 ^ 18 + x.off.toNat]
  else
    [2 ^ 31 + op * 2 ^ 25 + (if x.sense then 2 ^ 24 else 0) + x.pn.toNat * 2 ^ 18 + x.token.toNat * 2 ^ 10 + (x.off.truncate 10).toNat]

/-- The bytes of a register list, padded with zeros to whole words. -/
def padList (regs : List Byte) : List Byte := regs ++ List.replicate (4 * ceilDiv regs.length 4 - regs.length) 0

/-- The words of an instruction as bytes; an event has none. -/
def encode (i : Instr) : List Byte :=
  let words (ws : List Nat) : List Byte := (ws.map fun w => bytesOf w 4).flatten
  match i with
  | .clh h => words [2 ^ 31 + h.wait.toNat * 2 ^ 13 + h.seta.toNat * 2 ^ 9 + h.setb.toNat * 2 ^ 5 + h.len.toNat]
  | .rep r => words [2 ^ 31 + 1 * 2 ^ 25 + r.cnt.toNat * 2 ^ 19 + r.sd.toNat * 2 ^ 17 + r.sa.toNat * 2 ^ 15 + r.sb.toNat * 2 ^ 13]
  | .bra off => words [2 ^ 31 + 2 * 2 ^ 25 + off.toNat]
  | .call off => words [2 ^ 31 + 5 * 2 ^ 25 + off.toNat]
  | .brq x => words (encodeBr 3 x)
  | .brd x => words (encodeBr 4 x)
  | .rgn regs => words [2 ^ 31 + 0x2D * 2 ^ 25 + regs.length * 2 ^ 20] ++ padList regs
  | i => match i.form with
    | some (f, x) => words (encodeArgs i f x)
    | none => []

/-- Is this constructor an instruction that words can spell, and not an event? -/
def Instr.isWord : Instr → Bool
  | .clh _ | .rep _ | .bra _ | .call _ | .brq _ | .brd _ | .rgn _ => true
  | i => i.form.isSome

/-- A word of spec/opcode_table.json, with the bits above `nbits` zero: the bytes of the longest instruction, decoded. -/
def decodeTableWord (nbits w : Nat) : Option Instr :=
  match decode (bytesOf (w % 2 ^ nbits) 20) with
  | .ok i => some i
  | .error _ => none

/-- Must the instruction stand last in its run (R195)? -/
def Instr.endsRun : Instr → Bool
  | .bra _ | .brq _ | .brd _ | .call _ | .ret _ | .brx _ | .wpt _ | .exit _ | .trap _ | .tret _ | .gate _ | .gateRegister _
  | .gret _ | .sleep _ | .halt _ => true
  | _ => false

/-- The step that a step code of REP names (Table 59). -/
def stepOf (c : BitVec 2) : Nat := if c = 3 then 4 else c.toNat

/-- Does a field name registers, so that REP may step it? Index offsets may be stepped as well (R192). -/
def Fld.steps : Fld → Bool
  | .v | .v2 | .s | .s2 | .s10 | .p | .pd | .qd | .x | .ch | .fl | .hq | .ly => true
  | _ => false

/-- Does a field of a repetition hold a register? A flag field that steps must not come to 15, which names no flag. -/
def Fld.stepOk (f : Fld) (step : BitVec 2) (x : BitVec 8) : Bool := f != .fl || step == 0 || decide (x.toNat ≤ 11)

/-- The register classes of d, a and b of a word whose table row leaves them to the entry: a field that the entry reserves names no register. -/
def Instr.ownFields : Instr → Option (Fld × Fld × Fld)
  | .ld _ | .st _ | .ldfe _ | .stfe _ | .ldr _ | .atom _ | .cas _ | .red _ => some (.v, .v, .none)
  | .pref _ => some (.none, .v, .none)
  | .invl x => some (.none, if bitOf x.q.toNat 0 then .none else .v, .none)
  | .qop x => some (.qd, .qd, if x.sub.toNat ≤ 4 then .qd else .none)
  | .popq _ => some (.v, .none, .none)
  | .pushq x => some (if x.qform = 2 then .v else .none, .v, .none)
  | .mloop x | .mloopj x | .mrsum x => some (.v, if x.amode ≥ 2 then .v else .none, .none)
  | .mzero _ | .mlda _ | .mdrn _ => some (.none, .none, .none)
  | .cvt _ => some (.v, .v, .none)
  | .movx _ => some (.v, .v, .x)
  | .joinImmediateMask _ => some (.ch, .none, .none)
  | _ => none

def addField (x : BitVec 8) (n : Nat) : BitVec 8 := BitVec.ofNat 8 (x.toNat + n)

/-- The fields of repetition k (R191, R207): d, a and b advanced by k times their steps. -/
def Args.stepped (x : Args) (r : RepArgs) (k : Nat) : Args :=
  { x with d := addField x.d (k * stepOf r.sd), a := addField x.a (k * stepOf r.sa), b := addField x.b (k * stepOf r.sb) }

/-- An instruction with its fields replaced. -/
def Instr.withArgs (i : Instr) (f : Form) (x : Args) : Instr :=
  match i with
  | .xscanEx _ => .xscanEx x
  | .xred _ => .xred x
  | .xscan _ => .xscan x
  | .joinImmediateMask _ => .joinImmediateMask x
  | _ => (Instr.ofOpcode f.uniform f.op (f.sub.getD 0) false x).getD i

/-- Repetition k of an instruction. -/
def Instr.stepped (i : Instr) (r : RepArgs) (k : Nat) : Instr :=
  match i.form with
  | some (f, x) => i.withArgs f (x.stepped r k)
  | none => i

/-- Does every field of the last repetition stay inside 8 bits, so that no carry is lost? -/
def Args.stepFits (x : Args) (r : RepArgs) : Bool :=
  let k := r.cnt.toNat
  x.d.toNat + k * stepOf r.sd ≤ 255 && x.a.toNat + k * stepOf r.sa ≤ 255 && x.b.toNat + k * stepOf r.sb ≤ 255

/-- Does the first word of an instruction name one that REP must not repeat, whatever its other fields hold: CLH, REP, RGN, or one that must stand
last in its run (R192, R195)? -/
def wordNotRepeatable (w : Nat) : Bool :=
  let op := field w 30 25
  let long := op == 0x3F
  let o := if long then field w 24 19 else op
  let member := if long then field w 18 14 else field w 10 4
  bitOf w 31 && ((!long && (o == 0x00 || o == 0x01 || o == 0x02 || o == 0x05 || o == 0x2D)) || o == 0x03 || o == 0x04 ||
    (o == 0x06 && 1 ≤ member && member ≤ 8) || (0x07 ≤ o && o ≤ 0x09))

/-- Is the first word of an instruction of several words illegal by itself (Table 66)? A region head is by its own fields. A long word is if no second
word makes it legal; those tried are all zeros, and the ones with the count of parts that MLOOPJ and the selector that SWRS ask for. -/
def firstWordIllegal (w : Nat) : Bool :=
  let op := field w 30 25
  if op = 0x3F then [0, 2 ^ 14, 17].all fun v => match decodeLong (bitOf w 31) w v with
    | .ok _ => false
    | .error _ => true
  else bitOf w 31 && op == 0x2D && (decide (16 < field w 24 20) || field w 19 0 != 0)

/-- The restrictions of R192 on a repeat word and the instruction after it. A stepped v-register of a short word may reach v255,
so a stepped instruction is checked with the classes of its long form (log 12). The short offset of MOVX, 0 to 127 in its field (R240), may step past 127
as well: R181 gives an offset no class, and the choice is the model's (log 49). -/
def repAllowed (r : RepArgs) (i : Instr) : Bool :=
  match i.form with
  | none => false
  | some (f, x) =>
    if i.endsRun then false
    else
      let cls3 : Fld × Fld × Fld := (i.ownFields).getD (f.d, f.a, f.b)
      let xm := if operandClass f.uniform f.op then x.xmode else 0
      let isC := f.cls == .C
      let noB := f.cls == .F || f.cls == .I
      (r.sd == 0 || (!isC && cls3.1.steps)) &&
      (r.sa == 0 || cls3.2.1.steps || xm == 1) &&
      (r.sb == 0 || (!noB && (cls3.2.2.steps || xm == 2))) &&
      x.stepFits r &&
      (List.range (r.cnt.toNat + 1)).all fun k =>
        let y := x.stepped r k
        f.d.stepOk r.sd y.d && f.a.stepOk r.sa y.a && f.b.stepOk r.sb y.b && f.d.ok x.long y.d && (xm == 1 || f.a.ok x.long y.a) && (xm == 2 || noB || f.b.ok x.long y.b) && f.extra y

end Sys2Proof
end

