-- ==== Sys2Proof/Machine/Sparse.lean ====
section
/-! DEFINITION. Machine/Sparse.lean: sparse maps from numbers to values, as lists of pairs in one canonical form: keys strictly
rising, and no entry equal to what an unlisted key reads as. Memory, register files and tables are such maps. -/

namespace Sys2Proof

/-- What key `i` reads as; `d` is what an unlisted key reads as. -/
def sget {V : Type} (d : V) : List (Nat × V) → Nat → V
  | [], _ => d
  | (k, v) :: m, i => if i = k then v else sget d m i

/-- Puts an entry in its place, replacing the one with its key. -/
def sins {V : Type} : List (Nat × V) → Nat → V → List (Nat × V)
  | [], i, v => [(i, v)]
  | (k, w) :: m, i, v => if i < k then (i, v) :: (k, w) :: m else if i = k then (i, v) :: m else (k, w) :: sins m i v

/-- Drops the entry of a key. -/
def serase {V : Type} (m : List (Nat × V)) (i : Nat) : List (Nat × V) := m.filter fun e => decide (e.1 ≠ i)

/-- Writes key `i`; writing what an unlisted key reads as removes the entry. -/
def sset {V : Type} [DecidableEq V] (d : V) (m : List (Nat × V)) (i : Nat) (v : V) : List (Nat × V) :=
  if v = d then serase m i else sins m i v

/-- Keys strictly rising from above `lo`. -/
def risingFrom {V : Type} (lo : Nat) : List (Nat × V) → Bool
  | [] => true
  | (k, _) :: m => decide (lo ≤ k) && risingFrom (k + 1) m

/-- The canonical form. -/
def scanon {V : Type} [DecidableEq V] (d : V) (m : List (Nat × V)) : Bool :=
  risingFrom 0 m && m.all fun e => decide (e.2 ≠ d)

end Sys2Proof
end

