-- ==== Sys2Proof/Machine/State.lean ====
section
/-! DEFINITION. Machine/State.lean: all the state that the spec gives the Palnak, as plain data. Sparse maps hold register files,
memories and tables (Sparse.lean); what an unlisted key reads as is said at each field. INVENTORY.md lists every field with its
rule. The group, the team and the unit in issue stand in `grp`, `team` and `cur`; the other units of that group stand in
`grp.units`, every other group and team in `groups` and `teams`, so that each has one home (log 6). -/

namespace Sys2Proof.Machine

/-! ### Groups and units -/

/-- The rest of a repetition (R191, R207): the word and the repetition now due. -/
structure RepRun where
  args : RepArgs := {}
  k : Nat := 0
deriving DecidableEq, Repr, Inhabited

/-- A unit's position within its run (R32, R205): the header's wait and set fields, and the instructions left to issue. With
`left = 0` the unit has reached a clause header that it has not passed. -/
structure Run where
  start : DWord := 0
  wait : BitVec 12 := 0
  seta : BitVec 4 := 15
  setb : BitVec 4 := 15
  left : Nat := 0
  rep : Option RepRun := none
deriving DecidableEq, Repr, Inhabited

/-- Why a unit is parked (R47, R266, and the entries that park). -/
inductive ParkWhy where
  | walk | ldfe | acquire | release | replySlot | requestEntry | window | channelTable | popq | pushq | joinPending | drain | fence
  | bara | barw | kick | lbind | enq | chcfg | sleep | matrixPlace | mopf | mwait | gate | gret
deriving DecidableEq, Repr, Inhabited

/-! ### Matrix instructions -/

/-- The issuer of a matrix instruction, or a participant of a joint one (R308): unit, part, captured mask, register A, flag, issue stamp, format
word and descriptor; and, of its last MOPF, the counts of register writes of its group and of scratchpad writes then, and the scratchpad bytes that it
has stored to between that and the issue (R318, R321). -/
structure MPart where
  who : UnitRef := ⟨⟨0, 0⟩, 0⟩
  p : Nat := 0
  mask : Mask := 0
  areg : Nat := 0
  flag : Option Nat := none
  serial : Nat := 0
  fmt : Word := 0
  desc : List Word := []
  vat : Nat := 0
  wat : Nat := 0
  stale : List (Nat × Nat) := []
deriving DecidableEq, Repr, Inhabited

/-- Matrix instruction kinds (R301, R325). -/
inductive MKind where
  | mloop | mrsum | mzero | mlda | mdrn
deriving DecidableEq, Repr, Inhabited

/-- A 16-byte operand chunk with its poison, when it is poisoned the detail of POISON. -/
structure Chunk where
  val : Nat := 0
  poison : Option Nat := none
deriving DecidableEq, Repr, Inhabited

/-- An instruction in a context queue (R303 to R316). `tile0` and `tiles` are the base and size of the grant, `aslot` and `bslot` the records
captured at issue (A or data slot, B or parameter slot), `issued` the count of scratchpad writes at issue (R101), `ca` and `cb` the coordinates of
the next step, `adata` register A with one row of chunks per step, `since` the cycle in which its next step became due, or since which a restored
entry stands in the queue again, `took` that it has begun once and dealt with the latch (R307, R322). -/
structure MEntry where
  id : Nat := 0
  kind : MKind := .mloop
  stream : Nat := 0
  part : Nat := 0
  domain : Nat := 0
  core : Nat := 0
  parts : List MPart := []
  fmt : Word := 0
  desc : List Word := []
  amode : Nat := 0
  aslot : BitVec 512 := 0
  bslot : BitVec 512 := 0
  tile0 : Nat := 0
  tiles : Nat := 0
  started : Bool := false
  quadrant : Nat := 0
  step : Nat := 0
  ca : Nat × Nat := (0, 0)
  cb : Nat × Nat := (0, 0)
  adata : List Chunk := []
  issued : Nat := 0
  took : Bool := false
  /-- A step that takes register A from the latch (R307). -/
  hit : Bool := false
  /-- Tiles of the team whose elements take free values: those that a transfer and an unfinished stepping instruction share (R101). -/
  disturbed : List Nat := []
  waited : Nat := 0
  since : Nat := 0
  /-- Granules whose full bits its next step waits for, and the stamp of its arrival there (R66). -/
  waitsFor : List Nat := []
  arrived : Nat := 0
  /-- Matrix-stream command it comes from: bundle and sub-launch (R325). -/
  bundle : Option (Nat × Nat) := none
deriving DecidableEq, Repr, Inhabited

/-- A parked instruction: its captured form, issue stamp, unfinished lanes, the cycle in which it parked, resident cycles counted
before a save (R397), and a value of its own (a slot, an address, a tick). `rec_` holds the layout record captured at issue or BARW's address, `src` what the
sources of the unfinished lanes held then (R264; key lane * 256 + register), `arrived` the stamp of its arrival at the granule or bank that it
waits at (R66), `via` the team in whose allocation that stands (R62), `entry` a matrix instruction that waits for its queue place. -/
structure Parked where
  why : ParkWhy
  instr : Instr
  serial : Nat
  lanes : Mask := 0
  since : Nat := 0
  waited : Nat := 0
  aux : Nat := 0
  rec_ : BitVec 512 := 0
  src : List (Nat × PWord) := []
  arrived : Nat := 0
  via : Option Nat := none
  entry : Option MEntry := none
deriving DecidableEq, Repr, Inhabited

/-- Unit state (Table 14). -/
inductive UState where
  | ready | issuing | waiting | loading | held | tokenWait | ended
  | parked (p : Parked)
deriving DecidableEq, Repr, Inhabited

/-- A resident region (R225, R226): its slot, register list, lanes, dirty registers, and, where the main file holds another value
than the region, that main-file value (key lane * 256 + register). `resident = false` after eviction; `loading` until the load
completes. The values of the region itself stand in the group's register map (log 13). -/
structure Region where
  slot : Nat := 0
  regs : List Nat := []
  lanes : Mask := 0
  dirty : List Nat := []
  main : List (Nat × Option PWord) := []
  resident : Bool := true
  loading : Bool := false
deriving DecidableEq, Repr, Inhabited

/-- A unit (R32). `since` is the cycle in which it became eligible (R128), `lastIssue` the stamp of its last issue (R225); of its last
MOPF, `mopfV` and `mopfW` hold the counts of register writes of the group and of scratchpad writes then, and `wrote` the scratchpad bytes of its core that
it has stored to since, as key and length (R318, R321).
`entered` tells that it has entered a trap handler and issued nothing there yet (R386). -/
structure MUnit where
  id : Nat := 0
  pc : DWord := 0
  mask : Mask := 0
  top : Option Nat := none
  st : UState := .ready
  run : Run := {}
  region : Option Region := none
  since : Nat := 0
  lastIssue : Nat := 0
  mopfV : Nat := 0
  mopfW : Nat := 0
  wrote : List (Nat × Nat) := []
  entered : Bool := false
deriving DecidableEq, Repr, Inhabited

/-- Kind of a reconvergence stack entry (Table 10). -/
inductive EKind where
  | none | token | trap | gate
deriving DecidableEq, Repr, Inhabited

/-- Reconvergence stack entry (Table 10). -/
structure StackEntry where
  kind : EKind := .none
  token : BitVec 8 := 0
  rpc : Option DWord := none
  mask : Mask := 0
  outstanding : Nat := 0
  owner : Nat := 0
  link : Option Nat := none
deriving DecidableEq, Repr, Inhabited

/-- Translation register of a layout slot (R55). -/
structure XReg where
  frame : Nat := 0
  limit : Nat := 0
  target : Nat := 0
  writable : Bool := false
  l1 : Bool := false
deriving DecidableEq, Repr, Inhabited

/-- Gate frame (R139). -/
structure GateFrame where
  entry : BitVec 128 := 0
  num : Nat := 0
  domain : Nat := 0
  budget : Nat := 0
  s : List (Nat × PWord) := []
  q : BitVec 16 := 0
  x : List (Nat × Word) := []
  fbits : BitVec 12 := 0
  slots : List (Nat × BitVec 512) := []
deriving DecidableEq, Repr, Inhabited

/-- Group state (Table 13). -/
inductive GState where
  | free | idle | live | saved | ended
deriving DecidableEq, Repr, Inhabited

/-- Which v-registers of a group have been written, in which order: their number so far, the number of the last write of each place (key lane * 256 +
register; unlisted: 0), and of the registers that gate calls rewrite in every lane, as first register, length and number (R101, R321; log 27). -/
structure VWrites where
  count : Nat := 0
  last : List (Nat × Nat) := []
  spans : List (Nat × Nat × Nat) := []
deriving DecidableEq, Repr, Inhabited

/-- The registers that the units of a group share, and the lanes' own (R22, R24). -/
structure Regs where
  /-- v-registers: key lane * 256 + register; unlisted: zero. -/
  v : List (Nat × PWord) := []
  vw : VWrites := {}
  /-- Lane predicates p0 to p47 by lane; unlisted: zero. -/
  p : List (Nat × BitVec 48) := []
  /-- s0 to s127; unlisted: zero. -/
  s : List (Nat × PWord) := []
  q : BitVec 16 := 0
  /-- x0 to x7; unlisted: zero. -/
  x : List (Nat × Word) := []
  /-- Completion flag bits (R206). -/
  fbits : BitVec 12 := 0
  /-- Pending counts of the flags; unlisted: zero. -/
  fcnt : List (Nat × Nat) := []
deriving DecidableEq, Repr, Inhabited

/-- The system values that are group state (R212, R220, R289). -/
structure SysRegs where
  trapCause : Word := 0
  trapPc : DWord := 0
  trapVec : DWord := 0
  gateStatus : Word := 0
  fence : Word := 0
  domain : Nat := 0
deriving DecidableEq, Repr, Inhabited

/-- A group (R22 to R27, R31). -/
structure Group where
  key : GKey := ⟨0, 0⟩
  st : GState := .live
  /-- Recorded at its save: was it idle (R46)? -/
  wasIdle : Bool := false
  core : Nat := 0
  slot : Nat := 0
  pipe : Nat := 0
  role : Nat := 0
  rank : Nat := 0
  lanes : Nat := 32
  budget : Nat := 8
  task : Bool := false
  r : Regs := {}
  sys : SysRegs := {}
  /-- Reconvergence stack, 16 entries; unlisted: free. -/
  stack : List (Nat × StackEntry) := []
  /-- Its units, in ascending number; for the group in issue, all but the unit in issue. -/
  units : List MUnit := []
  /-- Gate frames, innermost first. -/
  frames : List GateFrame := []
  /-- Translation registers by slot; unlisted: limit 0. -/
  xlate : List (Nat × XReg) := []
deriving DecidableEq, Repr, Inhabited

/-! ### Accesses in flight -/

/-- The place an access reaches (Table 15). -/
inductive Place where
  | spad (core off : Nat)
  | reg (addr : Nat)
  | dram (pa : Nat)
  | host (addr : Nat)
  | fabric (dev seg off : Nat)
deriving DecidableEq, Repr, Inhabited

/-- What an access does at its place (R269 to R276). Atomic codes are those of Table 94. -/
inductive FKind where
  | load | ldfeKeep | ldfeClr
  | store | stfe
  | atom (op : Nat) | cas | red (op : Nat)
deriving DecidableEq, Repr, Inhabited

/-- One access in flight: one lane of an instruction, or one packet of a copy segment. `done` is the widest column of Table 26
whose acknowledgement has returned: 0 none, 1 device, 2 pod, 3 system. -/
structure Flight where
  id : Nat := 0
  /-- PC of its instruction. -/
  pc : DWord := 0
  /-- Issue stamp of the instruction (program order), and the order of the lane within it. -/
  serial : Nat := 0
  who : UnitRef := ⟨⟨0, 0⟩, 0⟩
  core : Nat := 0
  /-- The core that issued it, whatever its team has done since: a store updates the L1 line there (R69). -/
  issuer : Nat := 0
  /-- It left its core at issue (R65, R80), whatever its team has done since. -/
  remote : Bool := false
  part : Nat := 0
  domain : Nat := 0
  lane : Nat := 0
  kind : FKind := .load
  place : Place := .dram 0
  /-- Team whose allocation a scratchpad place was named in, if not by an absolute address (R62). -/
  via : Option Nat := none
  /-- Virtual address in device or host space; a load of a team that was saved is translated again (R105). -/
  va : Option Nat := none
  reissue : Bool := false
  /-- Second half of a 16-byte access to the host (R76): it takes no request entry of its own. -/
  half : Bool := false
  /-- A barrier object that it stores to was updated while it was in flight (R72). -/
  races : Bool := false
  width : Nat := 4
  data : Nat := 0
  poison : Bool := false
  cmp : Nat := 0
  signExt : Bool := false
  /-- First destination register in the main file (R140), when data returns. -/
  dst : Option Nat := none
  nregs : Nat := 0
  flag : Option Nat := none
  acq : Option Nat := none
  /-- Channel, when the access names one, and its key once known. -/
  chan : Option Nat := none
  key : Option ChanKey := none
  /-- Sequence number of its packet; none while held at the source by a JOIN (R86). -/
  seq : Option Nat := none
  /-- Reply slot request it belongs to, and the number of the slot (R88). -/
  request : Option Nat := none
  slot : Option Nat := none
  performed : Bool := false
  result : Nat := 0
  rpoison : Bool := false
  returned : Bool := false
  done : Nat := 0
  l1ok : Bool := false
  /-- Copy request that it serves (R74), and its segment. -/
  copy : Option (Nat × Nat) := none
  /-- Core and request entry named by the rtag of its packet (Table 117). -/
  rtag : Option Nat := none
deriving DecidableEq, Repr, Inhabited

/-- A pending JOIN (R86): the channel it holds, the channels it marks, and its issue stamp. -/
structure Join where
  chan : Nat
  mask : BitVec 16
  serial : Nat
deriving DecidableEq, Repr, Inhabited

/-! ### Teams -/

/-- A join record of a team (R308). -/
structure MJoin where
  tag : Nat
  n : Nat
  parts : List MPart := []
deriving DecidableEq, Repr, Inhabited

/-- A copy request in an engine queue (R73, R74). -/
structure CopyReq where
  id : Nat := 0
  serial : Nat := 0
  stream : Nat := 0
  who : UnitRef := ⟨⟨0, 0⟩, 0⟩
  part : Nat := 0
  domain : Nat := 0
  core : Nat := 0
  chan : Nat := 0
  bytes : Nat := 0
  fromSlot : Nat := 0
  dstSlot : Nat := 0
  bar : Option Nat := none
  flag : Option Nat := none
  /-- Resolved layouts, once the request has left the queue. -/
  resolved : Option (BitVec 512 × BitVec 512) := none
  e : List Nat := []
  d : List Nat := []
  /-- Bytes moved; segments moved and not yet counted, as segment number and byte count. -/
  moved : Nat := 0
  seg : Nat := 0
  open_ : List (Nat × Nat) := []
  bundle : Option (Nat × Nat) := none
deriving DecidableEq, Repr, Inhabited

/-- Channel state table entry (Table 27), with its last use. -/
structure ChanEntry where
  key : ChanKey := ⟨0, 0, 0⟩
  nextSeq : Nat := 0
  ackSeq : Nat := 0
  unacked : Nat := 0
  lru : Nat := 0
  /-- An end-to-end exchange is in progress (R408). -/
  exchange : Bool := false
  /-- The first packet still has to be marked as the start of a stream. -/
  fresh : Bool := true
  /-- A nack of no room has arrived; all is sent again in 20 µs (R343). -/
  noRoom : Bool := false
  /-- The unacknowledged packets that the retransmit buffer has lost (R411). -/
  lostPackets : List Nat := []
deriving DecidableEq, Repr, Inhabited

/-- A hardware queue, head first (R281). Its waiters are the units parked on it, in the order of their issue stamps. -/
structure HwQueue where
  items : List PWord := []
deriving DecidableEq, Repr, Inhabited

/-- Team state (Table 34) once a team has been admitted. -/
inductive TState where
  | admitted | saving | saved | retiring | retired
deriving DecidableEq, Repr, Inhabited

/-- The last write of a scratchpad byte: its number, and the unit of a plain store, until a store of that unit sets the granule full (R65, R101, R321;
log 27). -/
structure SpadNote where
  stamp : Nat := 0
  plain : Option UnitRef := none
deriving DecidableEq, Repr, Inhabited

/-- The number of scratchpad writes so far, and the last one of each byte: key as the byte's; unlisted: none. -/
structure SpadLog where
  count : Nat := 0
  last : List (Nat × SpadNote) := []
deriving DecidableEq, Repr, Inhabited

/-- A save image (Table 35), beyond the groups, which are saved in place. -/
structure SaveImage where
  spad : List (Nat × Byte) := []
  full : List (Nat × Bool) := []
  poison : List (Nat × Bool) := []
  notes : List (Nat × SpadNote) := []
  tiles : List (Nat × PWord) := []
  entries : List MEntry := []
  latch : Option (GKey × Nat × Nat × Nat) := none
  copies : List CopyReq := []
  chans : List ChanEntry := []
  hqs : List (Nat × HwQueue) := []
  bytes : Nat := 0
deriving DecidableEq, Repr, Inhabited

/-- A team (R26 to R31, R118, R228). -/
structure Team where
  stream : Nat := 0
  part : Nat := 0
  grid : Nat := 0
  number : Nat := 0
  st : TState := .admitted
  core : Nat := 0
  x : Nat := 0
  y : Nat := 0
  z : Nat := 0
  gridX : Nat := 1
  gridY : Nat := 1
  gridZ : Nat := 1
  rank : Nat := 0
  clusterSize : Nat := 1
  cluster : Nat := 0
  ngroups : Nat := 1
  priority : Nat := 0
  taskMode : Bool := false
  taskQueue : DWord := 0
  admitted : Nat := 0
  base : Nat := 0
  size : Nat := 0
  ctx : Option Nat := none
  tile0 : Nat := 0
  tiles : Nat := 0
  ceiling : Nat := 0
  /-- Reserved reply slots by channel; unlisted: zero. The request entries that serve as them, slot 0 first, and the stamp of the CHCFG that
  reserved them. -/
  reserved : List (Nat × Nat) := []
  entries : List (Nat × List Nat) := []
  cfgSerial : List (Nat × Nat) := []
  /-- Cycle from which a returned slot can be taken again (R353): key channel * 2^10 + slot. -/
  slotFrom : List (Nat × Nat) := []
  hqs : BitVec 8 := 0
  /-- The layout table: 32 records; unlisted: empty slot. -/
  slots : List (Nat × BitVec 512) := []
  joins : List Join := []
  uncertain : BitVec 16 := 0
  mjoins : List MJoin := []
  tileSteps : Nat := 0
  /-- Pre-emption has been requested and has not yet taken effect (R130). -/
  preempt : Bool := false
  image : Option SaveImage := none
deriving DecidableEq, Repr, Inhabited

/-! ### Cores -/

/-- A matrix context (R296, R303, R307). -/
structure MContext where
  /-- Tile words: key tile * 256 + 16 * row + column; unlisted: zero. -/
  tiles : List (Nat × PWord) := []
  queue : List MEntry := []
  /-- A latch: owner, register, rows, steps, the latched chunks, and the owner's count of register writes when they were read. -/
  latch : Option (GKey × Nat × Nat × Nat) := none
  latchData : List Chunk := []
  latchAt : Nat := 0
deriving DecidableEq, Repr, Inhabited

/-- A TLB entry (R58): partition, domain, page base, page size, and its leaf. -/
structure TlbEntry where
  part : Nat := 0
  domain : Nat := 0
  va : Nat := 0
  size : Nat := 0
  leaf : DWord := 0
deriving DecidableEq, Repr, Inhabited

/-- An L1 line: its key (physical line address, 2^60 added for host lines), its 128 bytes, and its poisoned 32-byte blocks. -/
structure L1Line where
  key : Nat := 0
  bytes : List Byte := []
  bad : List Nat := []
deriving DecidableEq, Repr, Inhabited

/-- What one core holds beside its groups and its scratchpad slice (Table 3). -/
structure Core where
  pilot : Bool := false
  chans : List ChanEntry := []
  copies : List CopyReq := []
  /-- hq0 to hq7; unlisted: empty. -/
  hqs : List (Nat × HwQueue) := []
  /-- Matrix contexts 0 and 1; unlisted: empty. -/
  mctx : List (Nat × MContext) := []
  lastCtx : Nat := 1
  /-- L1 lines, oldest fill first. -/
  l1 : List L1Line := []
  /-- The TLB that its pipes share, and the TLB of each pipe (R58), latest fill first. -/
  tlb : List TlbEntry := []
  pipeTlb : List (Nat × List TlbEntry) := []
  /-- Last winner of each pipe: slot and unit (R128). -/
  lastWin : List (Nat × (Nat × Nat)) := []
  /-- Unit that issued last on each pipe: slot and unit (R390). -/
  lastUnit : List (Nat × (Nat × Nat)) := []
  /-- The team last served by each engine: its stream and its number (R390); unlisted: none, as zeros. -/
  served : List (Nat × (Nat × Nat)) := []
  /-- Engines that have stopped and written their record since the halt line rose: engine numbers. -/
  stopped : List Nat := []
  /-- The copy request whose fault halted the copy engine (R390). -/
  copyFaulted : Option CopyReq := none
  /-- Faults of engines that originated a halt: engine, code, detail, pc. -/
  origin : List (Nat × (Nat × Nat × Nat)) := []
deriving DecidableEq, Repr, Inhabited

/-! ### Memory -/

/-- The memories of the module and of the host, as canonical lists of cells. -/
structure Memory where
  /-- Device DRAM by 41-bit physical address; unlisted: 0 (log 8). -/
  dram : List (Nat × Byte) := []
  /-- Poisoned 32-byte blocks of DRAM; unlisted: clean. -/
  dramPoison : List (Nat × Bool) := []
  /-- Scratchpad slices: key core * 2^22 + physical offset; unlisted: 0. -/
  spad : List (Nat × Byte) := []
  /-- Full bits of granules: key core * 2^18 + granule; unlisted: empty. -/
  full : List (Nat × Bool) := []
  /-- Poisoned granules; unlisted: clean. -/
  spadPoison : List (Nat × Bool) := []
  /-- The order of the writes of the slices, beside the bytes themselves (R101, R321). -/
  log : SpadLog := {}
  /-- Host memory by bus address; unlisted: 0 (log 8). -/
  host : List (Nat × Byte) := []
  /-- The pilot image of slot 16 by pc; unlisted: 0 (log 7). -/
  pilot : List (Nat × Byte) := []
deriving DecidableEq, Repr, Inhabited

/-- Frame allocation of device DRAM (R113): the next free offset of each region (0 to 3 a die, 4 the interleaved range), and
frames given back, as region, size and address. -/
structure Alloc where
  next : List (Nat × Nat) := []
  freed : List (Nat × Nat × Nat) := []
deriving DecidableEq, Repr, Inhabited

/-! ### Partitions -/

/-- A claimed command of a queue (R115): its header slot, its extra slots, the head count of its header, and whether it has
started. -/
structure Claimed where
  queue : Nat
  head : Nat
  core : Nat
  slots : List (BitVec 512) := []
  started : Bool := false
  bundle : Option Nat := none
deriving DecidableEq, Repr, Inhabited

/-- Room that a team, or one member of a gang, holds on a core: its scratchpad and its tiles (R116, R118, R120). -/
structure Room where
  core : Nat := 0
  base : Nat := 0
  ctx : Option Nat := none
  tile0 : Nat := 0
deriving DecidableEq, Repr, Inhabited

/-- A draw unit that is Reserved (R126): the room of its members in ascending rank, the core of the pilot that drew it, and the scoreboard
bits as that pilot last read them (R122). -/
structure Reserved where
  unit : Nat := 0
  pilot : Nat := 0
  rooms : List Room := []
  seen : List (Nat × Bool) := []
deriving DecidableEq, Repr, Inhabited

/-- A grid record (R114) with its launch descriptor (Table 50) and sub-launch fields (Table 31). Draw units are teams, or whole
clusters when the launch has clusters. -/
structure Grid where
  id : Nat := 0
  bundle : Nat := 0
  sub : Nat := 0
  part : Nat := 0
  queue : Nat := 0
  priority : Nat := 0
  domain : Nat := 0
  desc : BitVec 2048 := 0
  x : Nat := 1
  y : Nat := 1
  z : Nat := 1
  args : List Word := []
  task : Bool := false
  aux : DWord := 0
  ticket : Nat := 0
  retired : Nat := 0
  /-- Retirement scoreboard (R122); unlisted: clear. -/
  board : List (Nat × Bool) := []
  /-- The frame of device memory that is set aside for the scoreboard (R114, R122, log 31). -/
  boardAddr : Option Nat := none
  saved : List Nat := []
  reserved : List Reserved := []
  /-- Floor cores, while the floor is in force (R112). -/
  floor : List Nat := []
  complete : Bool := false
deriving DecidableEq, Repr, Inhabited

/-- A matrix stream in progress (R324, R325). -/
structure MStream where
  sub : Nat := 0
  core : Nat := 0
  desc : BitVec 512 := 0
  slots : List (Nat × BitVec 512) := []
  base : Nat := 0
  size : Nat := 0
  ctx : Nat := 0
  tile0 : Nat := 0
  tiles : Nat := 0
  next : Nat := 0
  placed : Bool := false
deriving DecidableEq, Repr, Inhabited

/-- A bundle that has started (R111): its queue, its sub-launches of copies and streams, and its stream identity. -/
structure Bundle where
  id : Nat := 0
  queue : Nat := 0
  core : Nat := 0
  domain : Nat := 0
  stream : Nat := 0
  slots : List (Nat × BitVec 512) := []
  /-- Copy requests not yet queued, with their sub-launch. -/
  toCopy : List (Nat × BitVec 512) := []
  streams : List MStream := []
  /-- Issue stamp of its start; its accesses are later. -/
  serial : Nat := 0
  retired : Bool := false
deriving DecidableEq, Repr, Inhabited

/-- The halt of a partition (R389, R390): 0 running, 1 halting, 2 halted; the halts counted since creation. -/
structure Halt where
  state : Nat := 0
  seq : Nat := 0
  originators : Nat := 0
  core : Nat := 0
  engine : Nat := 0
  code : Nat := 0
deriving DecidableEq, Repr, Inhabited

/-- A partition (R95, R106, R114, R135, R137, R372, R390). -/
structure Partition where
  created : Bool := false
  cores : BitVec 256 := 0
  dram : Nat := 0
  dramUsed : Nat := 0
  tick : Bool := false
  pool : Nat := 0
  poolUsed : Nat := 0
  k : Nat := 30
  wbase : Nat := 0
  digest : BitVec 384 := 0
  /-- Frames of device DRAM that the partition keeps pinned: its queue table (R106) and its dispatch block (R114). -/
  table : Nat := 0
  dispatch : Nat := 0
  /-- Domain descriptors; unlisted: zero. -/
  domains : List (Nat × BitVec 512) := []
  /-- Gate table; unlisted: zero. -/
  gates : List (Nat × BitVec 128) := []
  /-- Queue table; unlisted: zero. -/
  queues : List (Nat × BitVec 512) := []
  /-- Poisoned 32-byte blocks of the queue table, two a descriptor; unlisted: clean (R330, R415). -/
  queuePoison : List (Nat × Bool) := []
  claimed : List Claimed := []
  /-- Claim tickets by queue (R114); unlisted: zero. -/
  tickets : List (Nat × DWord) := []
  /-- Queue that each pilot served last at each priority: key core * 4 + priority (R115). -/
  lastQueue : List (Nat × Nat) := []
  bundles : List Bundle := []
  grids : List Grid := []
  /-- Grid records of bundles that have retired since a bundle last started (R366). -/
  past : List Grid := []
  halt : Halt := {}
  /-- Launch and queue rejection counts; unlisted: zero. -/
  rejects : List (Nat × Nat) := []
  /-- Heartbeat words by core (R117); unlisted: zero. -/
  beats : List (Nat × Word) := []
  /-- Queues whose tail a doorbell or a poll has shown to the pilots. -/
  seen : List (Nat × Nat) := []
  /-- Domain 0 pages that do not count against the allowance: the save pool and the rings. -/
  uncounted : List Nat := []
deriving DecidableEq, Repr, Inhabited

/-! ### The I/O die -/

/-- A request packet kept for retransmission (R337, R343, R409), or a response, ack or other packet waiting for a frame. A key message travels
under the epoch that was in use when it was made. -/
structure OutPacket where
  dest : Nat := 0
  vc : Nat := 0
  packet : Packet := {}
  key : Option ChanKey := none
  sent : Bool := false
  lane : Nat := 0
  epoch : Nat := 0
deriving DecidableEq, Repr, Inhabited

/-- Handshake progress with a peer (Table 121). -/
inductive KxState where
  | idle | sentKx1 | sentKx2 | failed
deriving DecidableEq, Repr, Inhabited

/-- What the IOD holds of one peer device (R345 to R348, R412). -/
structure Peer where
  entry : BitVec 128 := 0
  lost : Bool := false
  epoch : Nat := 0
  sendKey : BitVec 256 := 0
  recvKey : BitVec 256 := 0
  prevEpoch : Nat := 0
  prevSendKey : BitVec 256 := 0
  prevRecvKey : BitVec 256 := 0
  prevValid : Bool := false
  /-- Frame counters by plane of this epoch and of the one before; unlisted: zero. -/
  counters : List (Nat × Nat) := []
  prevCounters : List (Nat × Nat) := []
  kx : KxState := .idle
  initiator : Bool := false
  kx1 : KxMessage := {}
  kx2 : KxMessage := {}
  kx3 : BitVec 768 := 0
  priv : BitVec 384 := 0
  /-- Key messages (kind 10): the number that the next packet sent takes; the one expected, the packets that have come before their turn, the bytes
  of the message that is coming in, and the messages that are whole and not yet handled (R339, log 17). -/
  kxSeq : Nat := 0
  kxNext : Nat := 0
  kxEarly : List Packet := []
  kxPart : List Byte := []
  kxIn : List (List Byte) := []
  lastPlane : Nat := 127
  /-- Times in µs of recent tag failures (R406), and refused requests (R407). -/
  tagFails : List Nat := []
  refused : Nat := 0
  /-- Planes taken out of the rotation towards this peer (R405). -/
  excluded : List Nat := []
deriving DecidableEq, Repr, Inhabited

/-- Resequencing state of a key at this device (R343): the packet that started its numbering, whether its source was asked to send that packet
again (R410, log 33), the stored packets with their arrival lanes, and the time in µs at which a packet or a RESYNC of it last arrived. -/
structure SeqState where
  key : SeqKey := ⟨0, 0, 0⟩
  expected : Nat := 0
  first : Option Packet := none
  repeats : Bool := false
  stored : List (Nat × Packet) := []
  heard : Nat := 0
deriving DecidableEq, Repr, Inhabited

/-- A fabric lane (R336, R341, R404, R405, R414). -/
structure Lane where
  up : Bool := false
  retrained : Bool := false
  linkSeq : Nat := 0
  /-- Link replay buffer: link sequence number and frame, oldest first; replays of the oldest so far. -/
  replay : List (Nat × Frame) := []
  fails : Nat := 0
  /-- Flits of the far pool in use by identifier (R341); unlisted: none. -/
  used : List (Nat × Nat) := []
  /-- Receive side: the link sequence number expected, the last link answer sent (true for an acknowledgement) with its number (R404), the flits
  of the input pool held by identifier, and the credits granted back since the lane came up (R341). -/
  recvSeq : Nat := 0
  answer : Option (Bool × Nat) := none
  pool : List (Nat × Nat) := []
  granted : List (Nat × Nat) := []
  tagFail : Nat := 0
  replays : Nat := 0
  downs : Nat := 0
  refused : Nat := 0
  lost : Bool := false
deriving DecidableEq, Repr, Inhabited

/-- The fabric side of the IOD. -/
structure Iod where
  /-- Segment table; unlisted: zero. -/
  segments : List (Nat × BitVec 128) := []
  peers : List (Nat × Peer) := []
  /-- Resequencing state, least recently used key first. -/
  keys : List SeqState := []
  /-- Keys without state whose sources this device has asked to send again: by a nack, or by a reply that it holds no state (R343, R411). -/
  refused : List SeqKey := []
  out : List OutPacket := []
  /-- Acknowledgements that frames have brought and that have not yet reached the core (R343). -/
  acks : List (ChanKey × Nat) := []
  /-- Nacks, RESYNCs and RESYNC REPLYs received and not yet handled, with their source (R343, R409). -/
  inbox : List (Nat × Packet) := []
  lanes : List (Nat × Lane) := []
  /-- Stream of a team to the core that holds it (R343). -/
  streams : List (Nat × Nat) := []
  nextStream : Nat := 1
  /-- Page-table entries that its translation SRAM caches for the cores (R58), latest first. -/
  ptes : List TlbEntry := []
deriving DecidableEq, Repr, Inhabited

/-- A part of an inbound write (R332): its route (0 to 3 a die, 4 within the IOD), its address and bytes, the BAR0 offset of a register write or of
one through the queue-table alias (R330), and the 32-byte blocks that the host staging has lost (Table 160, code 10). -/
structure WritePart where
  route : Nat := 0
  pa : Nat := 0
  bytes : List Byte := []
  reg : Option Nat := none
  poison : List Nat := []
  /-- Stamp of its release. -/
  released : Option Nat := none
  acked : Bool := false
deriving DecidableEq, Repr, Inhabited

/-- An inbound posted write (R333). -/
structure InWrite where
  id : Nat := 0
  fn : Nat := 0
  requester : Option Nat := none
  relaxed : Bool := false
  poisoned : Bool := false
  parts : List WritePart := []
deriving DecidableEq, Repr, Inhabited

/-- A completion returned to the host for an inbound request: requester, bytes, poisoned, unsupported. -/
structure Completion where
  fn : Nat := 0
  requester : Nat := 0
  bytes : List Byte := []
  poisoned : Bool := false
  unsupported : Bool := false
deriving DecidableEq, Repr, Inhabited

/-- A write in the posted order towards the host (R335): an access, or an MSI-X message of a function and vector. -/
inductive Posted where
  | access (id : Nat)
  | msix (fn vec : Nat)
deriving DecidableEq, Repr, Inhabited

/-- An error reported through AER (Table 165): the function, the kind (0 unsupported request, 1 poisoned TLP received, 2 IDE, 3 completion timeout,
4 surprise down, 5 a completion with the status that follows), and the request that the header log shows. -/
structure AerRecord where
  fn : Nat := 0
  kind : Nat := 0
  status : Nat := 0
  header : Option HostReq := none
deriving DecidableEq, Repr, Inhabited

/-- The host port (R327 to R335, R415). -/
structure HostPort where
  up : Bool := false
  inWrites : List InWrite := []
  completions : List Completion := []
  /-- Outbound posted order (R335), up to what a flush read has shown to be performed. -/
  posted : List Posted := []
  /-- MSI-X table bytes: key fn * 2^15 + offset; unlisted: 0. -/
  msixTable : List (Nat × Byte) := []
  /-- Pending bits: key fn * 2048 + vector; unlisted: clear. -/
  pba : List (Nat × Bool) := []
  /-- MSI-X messages sent, oldest first: function and vector. -/
  msix : List (Nat × Nat) := []
  /-- IDE stream keys by function, and the streams that are Insecure. -/
  ideKeys : List (Nat × BitVec 256) := []
  insecure : List (Nat × Bool) := []
  aer : List AerRecord := []
deriving DecidableEq, Repr, Inhabited

/-! ### Platform -/

/-- A soft error log record (Table 161). -/
structure LogRecord where
  location : Nat := 0
  time : Nat := 0
  structure_ : Nat := 0
  unit : Nat := 0
  core : Nat := 511
  kind : Nat := 0
  part : Option Nat := none
deriving DecidableEq, Repr, Inhabited

/-- Boot, management and power state (20). -/
structure Platform where
  bootStatus : Nat := 0
  m0 : BitVec 384 := 0
  m1 : BitVec 384 := 0
  m2 : BitVec 384 := 0
  akeyPriv : BitVec 384 := 0
  akeyPub : BitVec 768 := 0
  /-- Device configuration record in flash (Table 180), and the values in use since the last warm reset. -/
  flash : BitVec 512 := 0
  device : Nat := 0
  carve : Nat := 0
  /-- Trust table: three digests per index; unlisted: no entry. -/
  trust : List (Nat × Option (BitVec 384 × BitVec 384 × BitVec 384)) := []
  busy : Bool := false
  rejected : Bool := false
  result : Nat := 0
  pending : Option (Nat × DWord) := none
  /-- The pending command has begun what it must wait for (R370). -/
  begun : Bool := false
  pwrLimit : Nat := 3200
  pwrNow : Nat := 0
  /-- In µJ. -/
  energy : Nat := 0
  clkNow : Nat := 1900
  cap : BitVec 2 := 0
  belowMs : Nat := 0
  /-- The cycle of the last clock change, and the µs since warm reset then (R376). -/
  clkSince : Nat := 0
  microsAt : Nat := 0
deriving DecidableEq, Repr, Inhabited

/-- Wear and health state (26), and the soft error counters and log (22 R400). -/
structure Health where
  status : BitVec 4 := 0
  threshold : Nat := 180
  /-- Hourly samples, newest first, each of 17 units. -/
  history : List (List MonitorReading) := []
  /-- Fenced cores; unlisted: in service. -/
  fenced : List (Nat × Bool) := []
  /-- Counters by unit * 3 + kind (corrected, uncorrected, poison consumed); unlisted: zero. -/
  counters : List (Nat × Nat) := []
  log : List LogRecord := []
  logged : Nat := 0
  /-- Uncorrectable events of codes 0 to 5, and STATE_LOST events, as core and time in µs (R432). -/
  coreErrors : List (Nat × Nat) := []
  coreLost : List (Nat × Nat) := []
deriving DecidableEq, Repr, Inhabited

/-- What happens next, when it is not left to the model's own scheduler: an event, or the next word of a unit, which is its next
instruction while it holds its pipe, or the clause header that it has reached (log 1). -/
inductive Move where
  | event (i : Instr)
  | issue (u : UnitRef)
deriving DecidableEq, Repr, Inhabited

/-- The machine. -/
structure State where
  /-- The group, the team and the unit in issue. -/
  grp : Group := {}
  team : Team := {}
  cur : MUnit := {}
  /-- Every other group and team. -/
  groups : List Group := []
  teams : List Team := []
  cores : List (Nat × Core) := []
  mem : Memory := {}
  alloc : Alloc := {}
  flights : List Flight := []
  parts : List (Nat × Partition) := []
  iod : Iod := {}
  port : HostPort := {}
  plat : Platform := {}
  health : Health := {}
  /-- Arithmetic-clock cycles since warm reset ($clock). -/
  cycle : Nat := 0
  /-- The model's issue stamp, its free-value counter and its schedule (logs 1 and 4). -/
  serial : Nat := 0
  free : Nat := 0
  agenda : List Move := []
deriving DecidableEq, Repr, Inhabited

/-- Why the model stops with a fault. Every fault of the spec has a described effect and is a next state, so this names only what
the spec leaves without any effect. -/
inductive Fault where
  /-- Raised by no meaning: the spec describes the effect of every fault of the hardware. Safe. -/
  | none
deriving DecidableEq, Repr, Inhabited

/-- Why the model gives no meaning. -/
inductive Refusal where
  /-- Raised by an arm of Dispatch whose instruction has no meaning yet. Safe. -/
  | notModelled (mnemonic : String)
deriving DecidableEq, Repr, Inhabited

/-- The device configuration record of a module that leaves manufacture (R368): magic, version 1, device 0, carve 0, 3,200 W. -/
def defaultConfig : BitVec 512 := BitVec.ofNat 512 (0x43464744 + 1 * 2 ^ 32 + 3200 * 2 ^ 96)

/-- The pilot's group of core 0 in slot 16 (log 7): its lanes and budget are the model's choice. -/
def pilotGroup : Group :=
  { key := ⟨0, 0⟩, slot := 16, lanes := 32, budget := 256 }

/-- The pilot's unit: it has reached the header at pc 0 (log 7). -/
def pilotUnit : MUnit := { id := 0, mask := BitVec.ofNat 1024 0xFFFFFFFF }

/-- The machine right after power-good, before the first step of the boot order (R367). -/
def State.reset : State :=
  { grp := pilotGroup, team := {}, cur := pilotUnit, plat := { bootStatus := 1, flash := defaultConfig } }

end Sys2Proof.Machine
end

