-- ==== Sys2Proof/Machine/Access.lean ====
section
/-! DEFINITION. Machine/Access.lean: reading and writing the parts of the state: units, groups, teams, cores, partitions,
registers, masks and guards. -/

namespace Sys2Proof.Machine

/-- The outcome of one step of this machine. -/
abbrev Out := Host.Outcome State Fault Refusal

/-! ### Cores and partitions -/

def State.core (s : State) (c : Nat) : Core := sget {} s.cores c
def State.setCore (s : State) (c : Nat) (k : Core) : State := { s with cores := sset {} s.cores c k }
def State.modCore (s : State) (c : Nat) (f : Core → Core) : State := s.setCore c (f (s.core c))
def State.part (s : State) (p : Nat) : Partition := sget {} s.parts p
def State.setPart (s : State) (p : Nat) (k : Partition) : State := { s with parts := sset {} s.parts p k }
def State.modPart (s : State) (p : Nat) (f : Partition → Partition) : State := s.setPart p (f (s.part p))
def Core.ctx (c : Core) (n : Nat) : MContext := sget {} c.mctx n
def Core.setCtx (c : Core) (n : Nat) (k : MContext) : Core := { c with mctx := sset {} c.mctx n k }
def Core.hq (c : Core) (n : Nat) : HwQueue := sget {} c.hqs n
def Core.setHq (c : Core) (n : Nat) (k : HwQueue) : Core := { c with hqs := sset {} c.hqs n k }
/-- The die of a core (R11). -/
def dieOfCore (c : Nat) : Nat := c / 64
/-- The partition of the team in issue. -/
def State.myPart (s : State) : Partition := s.part s.team.part

/-! ### Units, groups and teams by name -/

def insUnit (u : MUnit) : List MUnit → List MUnit
  | [] => [u]
  | v :: us => if u.id < v.id then u :: v :: us else v :: insUnit u us

/-- All live units of the group in issue. -/
def State.units (s : State) : List MUnit := if s.cur.st = .ended then s.grp.units else insUnit s.cur s.grp.units

/-- The group in issue with its unit put back. -/
def State.whole (s : State) : Group := { s.grp with units := s.units }

def State.unitRef (s : State) : UnitRef := ⟨s.grp.key, s.cur.id⟩

/-- The group of a key, whichever home it has. -/
def State.group? (s : State) (k : GKey) : Option Group :=
  if s.grp.key = k then some s.whole else s.groups.find? fun g => g.key = k

/-- The team of a stream, whichever home it has. -/
def State.team? (s : State) (n : Nat) : Option Team :=
  if s.team.stream = n then some s.team else s.teams.find? fun t => t.stream = n

/-- Every team that has been admitted, those retired included until their bundle retires. -/
def State.allTeams (s : State) : List Team := if s.team.stream = 0 then s.teams else s.team :: s.teams

/-- Every group, those of the pilots included. -/
def State.allGroups (s : State) : List Group := if s.grp.st = .free then s.groups else s.whole :: s.groups

/-- Updates the group of a key; the unit in issue takes part as one of its units. -/
def State.modGroup (s : State) (k : GKey) (f : Group → Group) : State :=
  if s.grp.key = k then
    let g := f s.whole
    match g.units.find? fun u => u.id = s.cur.id with
    | some u => { s with grp := { g with units := g.units.filter fun v => decide (v.id ≠ u.id) }, cur := u }
    | none => { s with grp := g, cur := { s.cur with st := .ended } }
  else { s with groups := s.groups.map fun g => if g.key = k then f g else g }

/-- Updates the team of a stream. -/
def State.modTeam (s : State) (n : Nat) (f : Team → Team) : State :=
  if s.team.stream = n then { s with team := f s.team }
  else { s with teams := s.teams.map fun t => if t.stream = n then f t else t }

def modUnitIn (us : List MUnit) (n : Nat) (f : MUnit → MUnit) : List MUnit := us.map fun u => if u.id = n then f u else u

/-- Updates one unit, whichever home it has. -/
def State.modUnit (s : State) (r : UnitRef) (f : MUnit → MUnit) : State :=
  if s.grp.key = r.group ∧ s.cur.id = r.unit then { s with cur := f s.cur }
  else if s.grp.key = r.group then { s with grp := { s.grp with units := modUnitIn s.grp.units r.unit f } }
  else { s with groups := s.groups.map fun g => if g.key = r.group then { g with units := modUnitIn g.units r.unit f } else g }

/-- Makes a unit the unit in issue; `none` when there is no such unit. The group that was in issue goes behind the others. -/
def State.select (s : State) (r : UnitRef) : Option State :=
  if s.grp.key = r.group then
    if s.cur.id = r.unit then some s
    else match s.grp.units.find? fun u => u.id = r.unit with
      | some u => some { s with cur := u, grp := { s.grp with units := s.units.filter fun v => decide (v.id ≠ r.unit) } }
      | none => none
  else match s.groups.find? fun g => g.key = r.group with
    | none => none
    | some g => match g.units.find? fun u => u.id = r.unit with
      | none => none
      | some u =>
        let rest := s.groups.filter fun h => decide (h.key ≠ r.group)
        let t := s.team? r.group.stream
        let teams := if s.team.stream = r.group.stream then s.teams
          else (if s.team.stream = 0 then s.teams else s.team :: s.teams).filter fun x => decide (x.stream ≠ r.group.stream)
        some { s with grp := { g with units := g.units.filter fun v => decide (v.id ≠ r.unit) }, cur := u,
                      groups := if s.grp.st = .free then rest else rest ++ [s.whole],
                      team := t.getD {}, teams := teams }

/-- Puts the group, the team and the unit in issue back among the others: no unit is in issue until the next is selected. -/
def State.vacate (s : State) : State :=
  if s.grp.st = .free then s
  else { s with groups := s.groups ++ [s.whole], teams := s.allTeams, grp := { st := .free, key := ⟨0, 2 ^ 20⟩ }, team := {},
                cur := { st := .ended } }

/-- A unit, whichever home it has. -/
def State.unit? (s : State) (r : UnitRef) : Option MUnit :=
  match s.group? r.group with
  | some g => g.units.find? fun u => u.id = r.unit
  | none => none

/-- Does a team in this state hold its core's resources? -/
def TState.resident : TState → Bool
  | .admitted | .saving | .retiring => true
  | .saved | .retired => false

/-! ### Masks and lanes -/

/-- Mask word w of a mask (R23). -/
def maskWord (m : Mask) (w : Nat) : Nat := field m.toNat (32 * w + 31) (32 * w)

/-- The summary word of a mask (R23). -/
def summary (m : Mask) : Nat := ((List.range 32).map fun w => if maskWord m w = 0 then 0 else 2 ^ w).sum

/-- passes() of R41: nonzero mask words. -/
def passes (m : Mask) : Nat := popCount (summary m) 32

/-- The lanes of a mask, ascending (active_ascending of R41). -/
def lanesOf (m : Mask) : List Nat := onesFrom m.toNat 0 1024

def maskOfList (ls : List Nat) : Mask := ls.foldl (fun m l => m ||| BitVec.ofNat 1024 (2 ^ l)) 0

/-- All lanes of a group of `n` lanes. -/
def fullMask (n : Nat) : Mask := BitVec.ofNat 1024 (2 ^ n - 1)

/-- lane_active of R41. -/
def State.laneActive (s : State) (l : Nat) : Bool := decide (l < s.grp.lanes) && s.cur.mask.toNat.testBit l

/-! ### Registers of the group in issue -/

/-- Does a unit's chain hold a gate entry? `fuel` bounds the 16 entries (R33). -/
def chainHas (stack : List (Nat × StackEntry)) (kind : EKind) : Nat → Option Nat → Bool
  | 0, _ => false
  | _, none => false
  | n + 1, some i =>
    let e := sget {} stack i
    if e.kind = kind then true else chainHas stack kind n e.link

/-- Entries of a kind in a chain. -/
def chainCount (stack : List (Nat × StackEntry)) (kind : EKind) : Nat → Option Nat → Nat
  | 0, _ => 0
  | _, none => 0
  | n + 1, some i =>
    let e := sget {} stack i
    (if e.kind = kind then 1 else 0) + chainCount stack kind n e.link

/-- The innermost gate entry of a chain. -/
def innerGate (stack : List (Nat × StackEntry)) : Nat → Option Nat → Option Nat
  | 0, _ => none
  | _, none => none
  | n + 1, some i =>
    let e := sget {} stack i
    if e.kind = .gate then some i else innerGate stack n e.link

def State.inGate (s : State) : Bool := chainHas s.grp.stack .gate 16 s.cur.top
def State.gateDepth (s : State) : Nat := chainCount s.grp.stack .gate 16 s.cur.top

/-- Fields of a gate table entry (Table 37). -/
def gePc (e : BitVec 128) : Nat := field e.toNat 56 0
def geVargs (e : BitVec 128) : Nat := field e.toNat 69 62 + 256 * field e.toNat 57 57
def geVret (e : BitVec 128) : Nat := field e.toNat 77 70 + 256 * field e.toNat 58 58
def geSargs (e : BitVec 128) : Nat := field e.toNat 85 78
def geSret (e : BitVec 128) : Nat := field e.toNat 93 86
def geSpBase (e : BitVec 128) : Nat := field e.toNat 101 94
def geSpSize (e : BitVec 128) : Nat := field e.toNat 110 102
def geCb (e : BitVec 128) : Nat := 8 * (field e.toNat 115 111 + 1)
def geDomain (e : BitVec 128) : Nat := field e.toNat 119 116
def geNest (e : BitVec 128) : Bool := bitOf e.toNat 125
def geContain (e : BitVec 128) : Bool := bitOf e.toNat 126
def geValid (e : BitVec 128) : Bool := bitOf e.toNat 127

/-- The gate frame of the innermost call that the unit in issue is in; frames of the group stand innermost first (R139). -/
def State.frame? (s : State) : Option GateFrame :=
  if s.inGate then s.grp.frames[s.grp.frames.length - s.gateDepth]? else none

/-- The domain of the unit in issue: the domain register, or, for a unit outside the innermost call of its group, the domain that the next
call's frame keeps (R138, R141). -/
def State.dom (s : State) : Nat :=
  match s.grp.frames[s.grp.frames.length - 1 - s.gateDepth]? with
  | some f => if s.gateDepth < s.grp.frames.length then f.domain else s.grp.sys.domain
  | none => s.grp.sys.domain

/-- The register budget in force: cb inside a call (R140), else the role's. -/
def State.budget (s : State) : Nat :=
  match s.frame? with
  | some f => geCb f.entry
  | none => s.grp.budget

/-- The main-file key of register `r` of lane `l`: callee registers are the top cb of the caller's budget (R140). -/
def State.vkey (s : State) (l r : Nat) : Nat := l * 256 + (s.grp.budget - s.budget) + r

def State.vreg (s : State) (l r : Nat) : PWord := sget {} s.grp.r.v (s.vkey l r)
def State.v (s : State) (l r : Nat) : Nat := (s.vreg l r).val.toNat
def State.vpair (s : State) (l r : Nat) : Nat := s.v l r + 2 ^ 32 * s.v l (r + 1)
def State.sreg (s : State) (n : Nat) : PWord := sget {} s.grp.r.s n
def State.sr (s : State) (n : Nat) : Nat := (s.sreg n).val.toNat
def State.spair (s : State) (n : Nat) : Nat := s.sr n + 2 ^ 32 * s.sr (n + 1)
def State.preg (s : State) (l : Nat) : BitVec 48 := sget 0 s.grp.r.p l
def State.p (s : State) (l n : Nat) : Bool := (s.preg l).toNat.testBit n
def State.q (s : State) (n : Nat) : Bool := s.grp.r.q.toNat.testBit n
def State.xr (s : State) (n : Nat) : Nat := (sget (0 : Word) s.grp.r.x n).toNat

def setBit {w : Nat} (x : BitVec w) (n : Nat) (b : Bool) : BitVec w :=
  if b then x ||| BitVec.ofNat w (2 ^ n) else x &&& ~~~ BitVec.ofNat w (2 ^ n)

def State.modRegs (s : State) (f : Regs → Regs) : State := { s with grp := { s.grp with r := f s.grp.r } }
def State.setS (s : State) (n : Nat) (x : PWord) : State := s.modRegs fun r => { r with s := sset {} r.s n x }
def State.setSw (s : State) (n : Nat) (x : Nat) : State := s.setS n ⟨BitVec.ofNat 32 x, false⟩
def State.setSpair (s : State) (n : Nat) (x : Nat) : State := (s.setSw n (x % 2 ^ 32)).setSw (n + 1) (x / 2 ^ 32)
def State.setQ (s : State) (n : Nat) (b : Bool) : State := s.modRegs fun r => { r with q := setBit r.q n b }
def State.setP (s : State) (l n : Nat) (b : Bool) : State := s.modRegs fun r => { r with p := sset 0 r.p l (setBit (sget 0 r.p l) n b) }
def State.setX (s : State) (n : Nat) (x : Word) : State := s.modRegs fun r => { r with x := sset 0 r.x n x }

/-- A write to a register of a resident region marks it dirty and keeps the main-file value beneath (R225, R226, log 13). -/
def Region.write (g : Region) (key reg : Nat) (old : PWord) : Region :=
  if g.resident && g.regs.contains reg then
    { g with dirty := if g.dirty.contains reg then g.dirty else reg :: g.dirty,
             main := if (sget none g.main key).isSome then g.main else sset none g.main key (some old) }
  else g

/-- One more write, of the register of a key. -/
def VWrites.note (w : VWrites) (key : Nat) : VWrites := { w with count := w.count + 1, last := sset 0 w.last key (w.count + 1) }
/-- One more write, of `n` registers from `r` on in every lane. -/
def VWrites.noteSpan (w : VWrites) (r n : Nat) : VWrites :=
  { w with count := w.count + 1, spans := (r, n, w.count + 1) :: w.spans.filter fun x => decide (x.1 ≠ r ∨ x.2.1 ≠ n) }
/-- Has the register of a key been written since the write of a number? -/
def VWrites.since (w : VWrites) (key at_ : Nat) : Bool :=
  decide (at_ < sget 0 w.last key) || w.spans.any fun x => decide (x.1 ≤ key % 256 ∧ key % 256 < x.1 + x.2.1 ∧ at_ < x.2.2)

/-- Writes register `r` of lane `l` for the unit in issue, where the register lies (R227). -/
def State.setV (s : State) (l r : Nat) (x : PWord) : State :=
  let k := s.vkey l r
  let reg := k % 256
  let cur := match s.cur.region with
    | some g => { s.cur with region := some (g.write k reg (sget {} s.grp.r.v k)) }
    | none => s.cur
  { s with grp := { s.grp with r := { s.grp.r with v := sset {} s.grp.r.v k x, vw := s.grp.r.vw.note k } }, cur := cur }

def State.setVw (s : State) (l r : Nat) (x : Nat) : State := s.setV l r ⟨BitVec.ofNat 32 x, false⟩

/-- lane_read of R41: zero from an inactive, exited or out-of-range lane. -/
def State.laneRead (s : State) (l r : Nat) : PWord := if s.laneActive l then s.vreg l r else {}

/-! ### Guards -/

/-- Guard of a lane-set instruction on one lane (Table 53, R186). -/
def State.guardL (s : State) (gp : BitVec 6) (gn : Bool) (l : Nat) : Bool :=
  if gp = 63 then !gn else xor (s.p l gp.toNat) gn

/-- Guard of a uniform instruction. -/
def State.guardU (s : State) (gp : BitVec 6) (gn : Bool) : Bool :=
  if gp = 63 then !gn else xor (s.q gp.toNat) gn

/-- lane_exec of R41, as the ascending list of executing lanes. -/
def State.execLanes (s : State) (gp : BitVec 6) (gn : Bool) : List Nat :=
  (lanesOf s.cur.mask).filter fun l => decide (l < s.grp.lanes) && s.guardL gp gn l

/-! ### Layout slots (Table 16) -/

def lyRank (y : BitVec 512) : Nat := field y.toNat 66 64
def lySpace (y : BitVec 512) : Nat := field y.toNat 69 67
def lyEsize (y : BitVec 512) : Nat := field y.toNat 72 70
def lyOob (y : BitVec 512) : Bool := bitOf y.toNat 73
def lyPermMode (y : BitVec 512) : Nat := field y.toNat 76 75
def lyPermShift (y : BitVec 512) : Nat := field y.toNat 79 77
def lyDest (y : BitVec 512) : Nat := field y.toNat 89 80
def lySegment (y : BitVec 512) : Nat := field y.toNat 95 90
def lyBase (y : BitVec 512) : Nat := field y.toNat 63 0
def lyExt (y : BitVec 512) (i : Nat) : Nat := field y.toNat (159 + 32 * i) (128 + 32 * i)
def lyStride (y : BitVec 512) (i : Nat) : Int := signedOf (field y.toNat (327 + 40 * i) (288 + 40 * i)) 40

/-- Is a record well-formed (R50)? -/
def lyWellFormed (y : BitVec 512) : Bool :=
  let n := y.toNat
  field n 511 488 == 0 && field n 127 96 == 0 && 1 ≤ lyRank y && lyRank y ≤ 5 && lySpace y ≤ 4 && lyEsize y ≤ 4 &&
  (lySpace y != 0 || (lyPermMode y ≤ 2 && (lyPermMode y == 0 || lyPermShift y ≤ 6))) &&
  ((List.range (lyRank y)).all fun i => decide (1 ≤ lyExt y i)) &&
  (if lySpace y = 1 ∨ lySpace y = 4 then lyBase y < 2 ^ 57 else if lySpace y = 3 then lyBase y < 2 ^ 40 else lyBase y < 2 ^ 32) &&
  lyBase y % 2 ^ lyEsize y == 0

/-- The layout table that the group in issue names: the callee's inside a call, else the team's (R144). -/
def State.table (s : State) : List (Nat × BitVec 512) :=
  match s.frame? with
  | some f => f.slots
  | none => s.team.slots
def State.slot (s : State) (n : Nat) : BitVec 512 := sget 0 s.table n

/-! ### Domain descriptors (Table 36) -/

def Partition.domain (p : Partition) (d : Nat) : BitVec 512 := sget 0 p.domains d
def domValid (d : BitVec 512) : Bool := bitOf d.toNat 0
def domRoot (d : BitVec 512) : Nat := field d.toNat 184 128
def domBank (d : BitVec 512) : Nat := field d.toNat 248 192
def domWinBase (d : BitVec 512) : Nat := field d.toNat 127 96
def domWinSize (d : BitVec 512) : Nat := field d.toNat 95 64
def domChmask (d : BitVec 512) : Nat := field d.toNat 63 48
def domGate (d : BitVec 512) (n : Nat) : Bool := bitOf d.toNat (256 + n)
/-- The descriptor that governs the accesses of the group in issue (R136). -/
def State.myDomain (s : State) : BitVec 512 := s.myPart.domain s.dom
def State.chanAllowed (s : State) (c : Nat) : Bool := (domChmask s.myDomain).testBit c

end Sys2Proof.Machine
end

