-- ==== Sys2Proof/Machine/Mem.lean ====
section
/-! DEFINITION. Machine/Mem.lean: the memories as bytes, placement of physical addresses (01 R16), page walks (03 R56 to R59),
translation registers (R55), scratchpad addresses (R61 to R63) and the register window (R67, R68). -/

namespace Sys2Proof.Machine

/-! ### Bytes -/

/-- `n` bytes from `addr`, as a number, little-endian (R5). -/
def readBytes (m : List (Nat × Byte)) (addr : Nat) : Nat → Nat
  | 0 => 0
  | n + 1 => (sget 0 m addr).toNat + 256 * readBytes m (addr + 1) n

/-- Writes the low `n` bytes of a number from `addr`. -/
def writeBytes (m : List (Nat × Byte)) (addr : Nat) (x : Nat) : Nat → List (Nat × Byte)
  | 0 => m
  | n + 1 => writeBytes (sset 0 m addr (BitVec.ofNat 8 x)) (addr + 1) (x / 256) n

/-- The canonical form of the memories: keys strictly rising, nothing listed that reads as an unlisted key. -/
def Memory.wf (m : Memory) : Bool :=
  scanon 0 m.dram && scanon false m.dramPoison && scanon 0 m.spad && scanon false m.full && scanon false m.spadPoison && scanon {} m.log.last &&
  scanon 0 m.host && scanon 0 m.pilot

/-- The blocks of `size` bytes that an access of `n` bytes at `addr` touches. -/
def blocksOf (size addr n : Nat) : List Nat :=
  if n = 0 then [] else (List.range ((addr + n - 1) / size + 1 - addr / size)).map fun i => addr / size + i

/-- Does an access touch a poisoned block? -/
def poisonedAt (m : List (Nat × Bool)) (size addr n : Nat) : Bool := (blocksOf size addr n).any fun b => sget false m b

/-- Poison of the blocks after a write (R399): a poisoned write poisons them; a clean one clears those it covers whole and leaves
the others as they were. -/
def poisonAfter (m : List (Nat × Bool)) (size addr n : Nat) (poison : Bool) : List (Nat × Bool) :=
  (blocksOf size addr n).foldl (fun m b =>
    if poison then sset false m b true
    else if addr ≤ b * size ∧ (b + 1) * size ≤ addr + n then sset false m b false else m) m

def Memory.readDram (m : Memory) (pa n : Nat) : Nat := readBytes m.dram pa n
def Memory.dramBad (m : Memory) (pa n : Nat) : Bool := poisonedAt m.dramPoison 32 pa n
def Memory.writeDram (m : Memory) (pa n x : Nat) (poison : Bool) : Memory :=
  { m with dram := writeBytes m.dram pa x n, dramPoison := poisonAfter m.dramPoison 32 pa n poison }
/-- Writes zeros, clean, over `n` bytes of device DRAM at `pa`, both multiples of 32. -/
def Memory.zeroDram (m : Memory) (pa n : Nat) : Memory :=
  { m with dram := m.dram.filter fun e => decide (e.1 < pa) || decide (pa + n ≤ e.1),
           dramPoison := m.dramPoison.filter fun e => decide (e.1 < pa / 32) || decide ((pa + n) / 32 ≤ e.1) }
def Memory.readHost (m : Memory) (a n : Nat) : Nat := readBytes m.host a n
def Memory.writeHost (m : Memory) (a n x : Nat) : Memory := { m with host := writeBytes m.host a x n }

/-- Key of a byte of a scratchpad slice, and of its granule. -/
def spadKey (core off : Nat) : Nat := core * 2 ^ 22 + off
def granKey (core off : Nat) : Nat := core * 2 ^ 18 + off / 16
def Memory.readSpad (m : Memory) (core off n : Nat) : Nat := readBytes m.spad (spadKey core off) n
def Memory.spadBad (m : Memory) (core off n : Nat) : Bool := poisonedAt m.spadPoison 16 (spadKey core off) n
/-- One more write, of `n` bytes from a key on, which is no plain store of a unit. -/
def SpadLog.note (w : SpadLog) (key n : Nat) : SpadLog :=
  { count := w.count + 1, last := (List.range n).foldl (fun m i => sset {} m (key + i) { stamp := w.count + 1 }) w.last }
/-- The write of `n` bytes from a key on was a plain store of a unit. -/
def SpadLog.notePlain (w : SpadLog) (key n : Nat) (u : UnitRef) : SpadLog :=
  { w with last := (List.range n).foldl (fun m i => sset {} m (key + i) { sget {} m (key + i) with plain := some u }) w.last }
/-- A store of a unit has set the granules of `n` bytes from a key on full: its plain stores there happen before it (R65, R98). -/
def SpadLog.noteFull (w : SpadLog) (key n : Nat) (u : UnitRef) : SpadLog :=
  { w with last := (blocksOf 16 key n).foldl (fun m g => (List.range 16).foldl (fun m i =>
      let x := sget {} m (g * 16 + i)
      if x.plain = some u then sset {} m (g * 16 + i) { x with plain := none } else m) m) w.last }
def Memory.writeSpad (m : Memory) (core off n x : Nat) (poison : Bool) : Memory :=
  { m with spad := writeBytes m.spad (spadKey core off) x n,
           spadPoison := poisonAfter m.spadPoison 16 (spadKey core off) n poison, log := m.log.note (spadKey core off) n }
/-- Writes the 32 bytes of a barrier object. -/
def Memory.writeBar (m : Memory) (core off x : Nat) : Memory :=
  { m with spad := writeBytes m.spad (spadKey core off) x 32, log := m.log.note (spadKey core off) 32 }
def Memory.isFull (m : Memory) (core off : Nat) : Bool := sget false m.full (granKey core off)
/-- Sets or clears the full bit of every granule that `n` bytes at `off` touch. -/
def Memory.setFull (m : Memory) (core off n : Nat) (b : Bool) : Memory :=
  { m with full := (blocksOf 16 (spadKey core off) n).foldl (fun f g => sset false f g b) m.full }

/-! ### Placement (R16) -/

/-- Die of a device physical address, and whether the address is backed under carve `c` (in GiB). -/
def dieOfPa (pa : Nat) : Nat := if pa.testBit 40 then (pa % 2 ^ 40 / 2048) % 4 else field pa 39 38
def backed (c pa : Nat) : Bool :=
  if pa ≥ 2 ^ 41 then false
  else if pa.testBit 40 then decide (pa % 2 ^ 40 < 4 * c * 2 ^ 30)
  else decide (field pa 37 0 < (192 - c) * 2 ^ 30)
/-- place_local of R16: pile and pile address of a local offset. -/
def placeLocal (d l : Nat) : Nat × Nat := (d * 3 + (l / 2048) % 3, (l / 2048) / 3 * 2048 + l % 2048)
/-- The pile and pile address of a device physical address under carve `c`. -/
def placeOf (c pa : Nat) : Nat × Nat :=
  if pa.testBit 40 then
    let o := pa % 2 ^ 40
    let g := o / 2048
    placeLocal (g % 4) ((192 - c) * 2 ^ 30 + g / 4 * 2048 + o % 2048)
  else placeLocal (field pa 39 38) (field pa 37 0)

/-! ### Page tables (R56, R57) -/

def pteValid (e : Nat) : Bool := e.testBit 63
def pteLeaf (e : Nat) : Bool := e.testBit 62
def pteWritable (e : Nat) : Bool := e.testBit 61
def ptePinned (e : Nat) : Bool := e.testBit 60
def pteTarget (e : Nat) : Nat := field e 59 58
def pteL1 (e : Nat) : Bool := e.testBit 57
def pteAddr (e : Nat) : Nat := field e 56 0

/-- Index of a virtual address at a level, and the page size of a leaf there (Table 17). -/
def vaIndex (va level : Nat) : Nat :=
  match level with
  | 0 => field va 56 48
  | 1 => field va 47 39
  | 2 => field va 38 30
  | 3 => field va 29 21
  | _ => field va 20 16
def pageSize (level : Nat) : Nat := if level = 2 then 2 ^ 30 else if level = 3 then 2 ^ 21 else 2 ^ 16
/-- Alignment of the table that a non-leaf entry at `level` names. -/
def nextTableAlign (level : Nat) : Nat := if level = 3 then 256 else 4096

/-- The result of a walk: a leaf with the page it maps, or the code of Table 158 with its level. -/
inductive Walk where
  | leaf (pte va size : Nat)
  | fail (code level : Nat)
deriving DecidableEq, Repr, Inhabited

def cXlateMiss : Nat := 0x0100
def cXlateBad : Nat := 0x0101
def cXlatePoison : Nat := 0x0102
def cUnbacked : Nat := 0x0103

/-- A page walk from a table at `level`; the walker reads entries and never writes them (R57). -/
def walkFrom (m : Memory) (va : Nat) : Nat → Nat → Nat → Walk
  | 0, _, level => .fail cXlateBad level
  | fuel + 1, table, level =>
    let a := table + 8 * vaIndex va level
    if m.dramBad a 8 then .fail cXlatePoison level
    else
      let e := m.readDram a 8
      if !pteValid e then .fail cXlateMiss level
      else if pteLeaf e then
        if level < 2 then .fail cXlateBad level
        else if pteTarget e ≥ 2 ∨ pteAddr e % pageSize level ≠ 0 ∨ (pteTarget e = 0 ∧ pteAddr e ≥ 2 ^ 41) then .fail cXlateBad level
        else if !ptePinned e then .fail cXlateMiss level
        else .leaf e (va / pageSize level * pageSize level) (pageSize level)
      else if level = 4 then .fail cXlateBad level
      else if pteAddr e % nextTableAlign level ≠ 0 then .fail cXlateBad level
      else walkFrom m va fuel (pteAddr e) (level + 1)

/-- A walk of a domain's tables. -/
def walk (m : Memory) (root va : Nat) : Walk := walkFrom m va 5 root 0

/-- A physical destination: device DRAM or the host bus (R435). -/
structure Phys where
  target : Nat := 0
  addr : Nat := 0
  writable : Bool := false
  l1 : Bool := false
deriving DecidableEq, Repr, Inhabited

/-- The place of a physical destination. -/
def Phys.place (p : Phys) : Place := if p.target = 0 then .dram p.addr else .host p.addr

/-- A code of Table 158 or Table 152 with its detail. -/
structure Code where
  code : Nat
  detail : Nat
deriving DecidableEq, Repr, Inhabited

def xlateDetail (va level : Nat) : Nat := va % 2 ^ 57 + level * 2 ^ 57

/-- The destination of a virtual address through a leaf; a device address outside the backed ranges is UNBACKED (R17). -/
def physOf (carve pte va base : Nat) : Except Code Phys :=
  let a := pteAddr pte + (va - base)
  if pteTarget pte = 0 ∧ !backed carve a then .error ⟨cUnbacked, a % 2 ^ 41⟩
  else .ok { target := pteTarget pte, addr := a, writable := pteWritable pte, l1 := pteL1 pte }

/-- A walk of the tables of a domain of a partition. A descriptor with valid = 0 names no domain, so nothing is mapped there (R135); nor is
anything above the 57 bits of a virtual address. -/
def State.walkIn (s : State) (part domain va : Nat) : Walk :=
  let d := (s.part part).domain domain
  if domValid d && decide (va < 2 ^ 57) then walk s.mem (domRoot d) va else .fail cXlateMiss 0

/-- Translation by a full walk, as fetches, engines and the IOD do it. -/
def State.translate (s : State) (part domain va : Nat) : Except Code Phys :=
  match s.walkIn part domain va with
  | .fail c level => .error ⟨c, xlateDetail va level⟩
  | .leaf e base _ => physOf s.plat.carve e va base

/-- Does a TLB entry map an address of a domain of a partition (R58)? -/
def TlbEntry.covers (e : TlbEntry) (part domain va : Nat) : Bool :=
  e.part == part && e.domain == domain && decide (e.va ≤ va) && decide (va < e.va + e.size)

/-- The entry that covers an address, in the TLB of a pipe or in the core's (R58). -/
def State.tlbHit (s : State) (core pipe part domain va : Nat) : Option TlbEntry :=
  (sget [] (s.core core).pipeTlb pipe ++ (s.core core).tlb).find? fun e => e.covers part domain va

/-- A TLB of a given size with an entry put first. -/
def tlbPut (size : Nat) (es : List TlbEntry) (e : TlbEntry) : List TlbEntry := (e :: es.filter fun x => decide (x ≠ e)).take size

/-- Applies a filter to the TLBs of a core. -/
def Core.keepTlb (c : Core) (keep : TlbEntry → Bool) : Core :=
  { c with tlb := c.tlb.filter keep, pipeTlb := (c.pipeTlb.map fun e => (e.1, e.2.filter keep)).filter fun e => decide (e.2 ≠ []) }

/-- Bytes at a physical destination. -/
def Memory.readPhys (m : Memory) (p : Phys) (n : Nat) : Nat := if p.target = 0 then m.readDram p.addr n else m.readHost p.addr n
def Memory.physBad (m : Memory) (p : Phys) (n : Nat) : Bool := p.target = 0 && m.dramBad p.addr n
def Memory.writePhys (m : Memory) (p : Phys) (n x : Nat) : Memory :=
  if p.target = 0 then m.writeDram p.addr n x false else m.writeHost p.addr n x

/-- Reads `n` bytes of a domain's virtual memory; no access crosses the pages it must not. -/
def State.readVirt (s : State) (part domain va n : Nat) : Except Code (Nat × Bool) :=
  match s.translate part domain va with
  | .error c => .error c
  | .ok p => .ok (s.mem.readPhys p n, s.mem.physBad p n)

/-- Writes `n` bytes of a domain's virtual memory where the page allows it; elsewhere nothing is written. -/
def State.writeVirt (s : State) (part domain va n x : Nat) : State :=
  match s.translate part domain va with
  | .error _ => s
  | .ok p => { s with mem := s.mem.writePhys p n x }

/-! ### Translation registers (R55, R223) -/

/-- The translation register of a layout record; a base on no valid, pinned leaf gives limit 0, without a fault (R223). -/
def State.deriveReg (s : State) (part domain : Nat) (y : BitVec 512) : XReg :=
  if lySpace y = 1 ∨ lySpace y = 4 then
    match s.walkIn part domain (lyBase y) with
    | .leaf e base size =>
      { frame := pteAddr e + (lyBase y - base), limit := size - (lyBase y - base), target := pteTarget e,
        writable := pteWritable e, l1 := pteL1 e }
    | .fail _ _ => {}
  else {}

/-- All translation registers of a group, under a table and a domain. -/
def State.deriveAll (s : State) (part domain : Nat) (table : List (Nat × BitVec 512)) : List (Nat × XReg) :=
  (List.range 32).foldl (fun m n => sset {} m n (s.deriveReg part domain (sget 0 table n))) []

/-- The layout table of a group: its callee's inside a call, else the team's. -/
def Group.table (g : Group) (t : Team) : List (Nat × BitVec 512) :=
  match g.frames with
  | f :: _ => f.slots
  | [] => t.slots

/-- Derives every translation register of a group again (R55). -/
def State.rederive (s : State) (t : Team) (g : Group) : Group :=
  { g with xlate := s.deriveAll t.part g.sys.domain (g.table t) }

/-- Layout bank of a domain: 32 records, each loaded by R50, or left empty. -/
def State.loadBank (s : State) (part domain addr : Nat) : List (Nat × BitVec 512) :=
  (List.range 32).foldl (fun m n =>
    match s.readVirt part domain (addr + 64 * n) 64 with
    | .ok (x, false) =>
      let y := BitVec.ofNat 512 x
      if lyWellFormed y then sset 0 m n y else m
    | _ => m) []

/-! ### Coordinates and scratchpad addresses -/

/-- layout_offset of R52: the signed byte offset, or the first coordinate outside its extent with its dimension. -/
def layoutOffset (y : BitVec 512) (cs : List Nat) : Except (Nat × Nat) Int :=
  let rec go (i : Nat) : List Nat → Int → Except (Nat × Nat) Int
    | [], acc => .ok (acc * 2 ^ lyEsize y)
    | c :: rest, acc => if c ≥ lyExt y i then .error (c, i) else go (i + 1) rest (acc + c * lyStride y i)
  go 0 (cs.take (lyRank y)) 0

/-- The bank permutation of R63 on the unpermuted offset `a`. -/
def permute (y : BitVec 512) (a : Nat) : Nat :=
  let sh := 10 + lyPermShift y
  let b0 := field a 9 4
  let k := field a (sh + 5) sh
  let b := if lyPermMode y = 1 then Nat.xor b0 k else if lyPermMode y = 2 then (b0 + k) % 64 else b0
  a / 1024 * 1024 + b * 16 + a % 16

/-- Where a scratchpad address lands (R61, R62, R144): core, start of the allocation in its slice and offset, or the reason of
Table 159. `memberOk` leaves out form 0b01 (inside a gate call, reason 6). -/
structure SpadEnv where
  core : Nat
  base : Nat
  size : Nat
  /-- Window of the innermost gate entry, in bytes from the allocation start, inside a call. -/
  window : Option (Nat × Nat)
  /-- Members of the cluster by rank: core, base, size. -/
  members : List (Nat × Nat × Nat × Nat)
  clusterSize : Nat
  winBase : Nat
  winSize : Nat
  /-- The team itself, and the members of its cluster by rank. -/
  own : Nat := 0
  streams : List (Nat × Nat) := []

/-- The place of a 32-bit scratchpad address: (core, allocation base, offset within it), or a reason of Table 159. The access
covers `w` bytes. -/
def spadPlace (v : SpadEnv) (a w : Nat) : Except Nat (Nat × Nat × Nat) :=
  let form := field a 31 30
  let off := field a 21 0
  match form with
  | 0 =>
    if field a 29 22 ≠ 0 then .error 1
    else match v.window with
      | some (wb, ws) => if off + w ≤ ws then .ok (v.core, v.base + wb, off) else .error 6
      | none => if off + w ≤ v.size then .ok (v.core, v.base, off) else .error 2
  | 1 =>
    if field a 29 25 ≠ 0 then .error 1
    else if v.window.isSome then .error 6
    else
      let r := field a 24 22
      if r ≥ v.clusterSize then .error 3
      else match v.members.find? fun m => m.1 = r with
        | none => .error 4
        | some (_, c, b, size) => if off + w ≤ size then .ok (c, b, off) else .error 3
  | 2 =>
    let x := a % 2 ^ 30
    if v.winSize ≠ 0 ∧ v.winBase % 2 ^ 30 ≤ x ∧ x + w ≤ v.winBase % 2 ^ 30 + v.winSize then .ok (field a 29 22, 0, off) else .error 5
  | _ => .error 1

/-- The core that a scratchpad address names, if it names one (R267). -/
def spadCore (v : SpadEnv) (a : Nat) : Option Nat :=
  match field a 31 30 with
  | 0 => if field a 29 22 = 0 then some v.core else none
  | 1 => if field a 29 25 ≠ 0 then none else (v.members.find? fun m => m.1 = field a 24 22).map fun m => m.2.1
  | 2 => some (field a 29 22)
  | _ => none

/-- The team in whose allocation a scratchpad address names a place: none for an absolute address, which follows no team (R62). -/
def spadVia (v : SpadEnv) (a : Nat) : Option Nat :=
  match field a 31 30 with
  | 0 => some v.own
  | 1 => (v.streams.find? fun m => m.1 = field a 24 22).map fun m => m.2
  | _ => none

/-- The resident members of the cluster of a team. -/
def State.clusterTeams (s : State) (t : Team) : List Team :=
  s.allTeams.filter fun u => u.grid = t.grid ∧ u.part = t.part ∧ u.cluster = t.cluster ∧ u.st.resident

/-- Members of the cluster of a team: rank, core, allocation base and size of those resident. -/
def State.clusterMembers (s : State) (t : Team) : List (Nat × Nat × Nat × Nat) :=
  (s.clusterTeams t).map fun u => (u.rank, u.core, u.base, u.size)

/-- The scratchpad environment of a team and domain, with the gate window when one is in force. -/
def State.spadEnv (s : State) (t : Team) (domain : Nat) (window : Option (Nat × Nat)) : SpadEnv :=
  let d := (s.part t.part).domain domain
  { core := t.core, base := t.base, size := t.size, window := window, members := s.clusterMembers t, clusterSize := t.clusterSize,
    winBase := domWinBase d, winSize := domWinSize d, own := t.stream, streams := (s.clusterTeams t).map fun u => (u.rank, u.stream) }

/-- The gate window of the unit in issue (R144). -/
def State.gateWindow (s : State) : Option (Nat × Nat) :=
  match s.frame? with
  | some f => some (16384 * geSpBase f.entry, 16384 * geSpSize f.entry)
  | none => none
def State.myEnv (s : State) : SpadEnv := s.spadEnv s.team s.dom s.gateWindow

/-! ### The register window (R67, R68) -/

/-- The group resident in a core's slot. A group that is being saved stands there until its image is complete, and one that has ended until its team
has retired (Table 13, R125). -/
def State.groupAt (s : State) (core slot : Nat) : Option Group :=
  s.allGroups.find? fun g => g.core = core ∧ g.slot = slot ∧ g.st ≠ .free

def winCore (a : Nat) : Nat := field a 31 24
def winSlot (a : Nat) : Nat := field a 23 20
def winLane (a : Nat) : Nat := field a 19 10
def winReg (a : Nat) : Nat := field a 9 2

/-- Main-file value of a register: what lies beneath a resident region, else the register map (log 13). -/
def Group.mainFile (g : Group) (key : Nat) : PWord :=
  match g.units.findSome? fun u => match u.region with
    | some r => if r.resident then sget none r.main key else none
    | none => none with
  | some x => x
  | none => sget {} g.r.v key

/-- Writes the main file: beneath a resident region that names the register, else the register map. -/
def Group.setMain (g0 : Group) (key : Nat) (x : PWord) : Group :=
  let g := { g0 with r := { g0.r with vw := g0.r.vw.note key } }
  let covers (u : MUnit) : Bool := match u.region with
    | some r => r.resident && r.regs.contains (key % 256) && r.lanes.toNat.testBit (key / 256)
    | none => false
  if g.units.any covers then
    { g with units := g.units.map fun u => if covers u then
        match u.region with
        | some r => { u with region := some { r with main := sset none r.main key (some x) } }
        | none => u
      else u }
  else { g with r := { g.r with v := sset {} g.r.v key x } }

/-- One 32-bit register of the window; absent registers read zero (R68). -/
def State.windowReg (s : State) (a : Nat) : PWord :=
  match s.groupAt (winCore a) (winSlot a) with
  | none => {}
  | some g => if winLane a < g.lanes ∧ winReg a < g.budget then g.mainFile (winLane a * 256 + winReg a) else {}

/-- Writes one 32-bit register of the window; a write to an absent register writes nothing. -/
def State.setWindowReg (s : State) (a : Nat) (x : PWord) : State :=
  match s.groupAt (winCore a) (winSlot a) with
  | none => s
  | some g =>
    if winLane a < g.lanes ∧ winReg a < g.budget then s.modGroup g.key fun g => g.setMain (winLane a * 256 + winReg a) x else s

/-- `n` bytes of the window from address `a`; a byte access stays inside a register, wider ones cover whole registers. -/
def State.readWindow (s : State) (a n : Nat) : Nat × Bool :=
  if n < 4 then
    let r := s.windowReg a
    ((r.val.toNat / 2 ^ (8 * (a % 4))) % 2 ^ (8 * n), r.poison)
  else
    (List.range (n / 4)).foldr (fun i acc => let r := s.windowReg (a + 4 * i); (r.val.toNat + 2 ^ 32 * acc.1, r.poison || acc.2)) (0, false)

def State.writeWindow (s : State) (a n x : Nat) (poison : Bool) : State :=
  if n < 4 then
    let r := s.windowReg a
    let lo := 8 * (a % 4)
    s.setWindowReg a ⟨BitVec.ofNat 32 (setField r.val.toNat (lo + 8 * n - 1) lo x), poison || r.poison⟩
  else
    (List.range (n / 4)).foldl (fun s i => s.setWindowReg (a + 4 * i) ⟨BitVec.ofNat 32 (x / 2 ^ (32 * i)), poison⟩) s

end Sys2Proof.Machine
end

