-- ==== Sys2Proof/Machine/Ops.lean ====
section
/-! DEFINITION. Machine/Ops.lean: the shared operations of every meaning: issuing and completing an instruction, parking, ending a run,
taking a trap and returning from it (10 R212, R213; 21 R385), the contained return of a gate callee (06 R143), and raising the
halt line (21 R389, R390). -/

namespace Sys2Proof.Machine

/-! ### Fault codes (Tables 152 and 158) -/

def cFormatDivergence : Nat := 0x0001
def cIllegal : Nat := 0x0010
def cNotHeader : Nat := 0x0011
def cBadTarget : Nat := 0x0012
def cPrivileged : Nat := 0x0013
def cCalleeTrap : Nat := 0x0014
def cRegBudget : Nat := 0x0020
def cIndexBound : Nat := 0x0021
def cStackFull : Nat := 0x0030
def cUnitLimit : Nat := 0x0031
def cNoTrapEntry : Nat := 0x0032
def cNoHandler : Nat := 0x0033
def cExitInGate : Nat := 0x0034
def cGateInvalid : Nat := 0x0040
def cGateDenied : Nat := 0x0041
def cGateDepth : Nat := 0x0042
def cGateEntryBad : Nat := 0x0043
def cGateNoGate : Nat := 0x0044
def cGateForbidden : Nat := 0x0045
def cLayoutBad : Nat := 0x0050
def cChcfgBad : Nat := 0x0051
def cMatrixFormat : Nat := 0x0060
def cMatrixTile : Nat := 0x0061
def cMatrixDesc : Nat := 0x0062
def cMatrixNoContext : Nat := 0x0063
def cMatrixJoin : Nat := 0x0064
def cMatrixOperand : Nat := 0x0065
def cMatrixCommand : Nat := 0x0066
def cPoison : Nat := 0x0070
def cEnqFault : Nat := 0x0080
def cTaskPc : Nat := 0x0081
def cAddrRange : Nat := 0x0104
def cOutOfExtent : Nat := 0x0105
def cMisaligned : Nat := 0x0106
def cNotWritable : Nat := 0x0107
def cSpaceDenied : Nat := 0x0108
def cScratchBound : Nat := 0x0110
def cWindowDomain : Nat := 0x0111
def cChannelDenied : Nat := 0x0112
def cNoReplySlot : Nat := 0x0113
def cQueueNotClaimed : Nat := 0x0114
def cBarrierBad : Nat := 0x0120
def cBarrierOverrun : Nat := 0x0121
def cKickBad : Nat := 0x0122
def cWaitExpired : Nat := 0x0130
def cStateLost : Nat := 0x0140

/-- The codes that halt even inside a contained call (H* of R393), and those that only halt (H of Table 152). -/
def haltsAlways (c : Nat) : Bool :=
  c == cXlateMiss || c == cXlateBad || c == cXlatePoison || c == cUnbacked || c == cStateLost || c == cNoHandler

/-- The first condition that holds, in the order given (R380). -/
def firstCode : List (Option Code) → Option Code
  | [] => none
  | some c :: _ => some c
  | none :: cs => firstCode cs

/-- A check: the code when the condition fails. -/
def need (ok : Bool) (code detail : Nat) : Option Code := if ok then none else some ⟨code, detail⟩

/-! ### Fetching (R438) -/

/-- Is a word a clause header (R190)? -/
def isHeaderWord (w : Nat) : Bool := field w 31 25 == 0x40

/-- The 4-byte word at a PC, under the group's domain; the pilot's text is the image of slot 16 (log 7). -/
def State.fetchWord (s : State) (pc : Nat) : Except Code (Nat × Bool) :=
  if s.grp.slot = 16 then .ok (readBytes s.mem.pilot pc 4, false)
  else s.readVirt s.team.part s.dom (pc % 2 ^ 57) 4

/-- The bytes of `n` words from a PC, with the address of a poisoned word if there is one. -/
def State.fetchWords (s : State) (pc : Nat) : Nat → Except Code (List Byte × Option Nat)
  | 0 => .ok ([], none)
  | n + 1 => match s.fetchWord pc with
    | .error c => .error c
    | .ok (w, bad) => match s.fetchWords (pc + 4) n with
      | .error c => .error c
      | .ok (bs, p) => .ok (bytesOf w 4 ++ bs, if bad then some pc else p)

/-- Words of the instruction that begins with word `w` (R194), without a repeated instruction. An illegal region head, with n of 17 to 31, counts
as its one word: the model's choice (log 49). -/
def wordsOf (w : Nat) : Nat :=
  if field w 30 25 = 0x3F then 2
  else if bitOf w 31 && field w 30 25 = 0x2D then (if field w 24 20 ≤ 16 then 1 + ceilDiv (field w 24 20) 4 else 1)
  else 1

/-! ### Issue and completion -/

/-- The pipe stalls: no state of the program changes, time passes (R265). -/
def State.stall (s : State) : State := { s with cycle := s.cycle + 1 }

/-- Draws a fresh free value of `w` bits (log 4). -/
def State.drawFree (s : State) (w : Nat) : Nat × State := (Config.freeValue s.free % 2 ^ w, { s with free := s.free + 1 })

/-- Does a gate call run that the unit is not in (R38)? -/
def Group.holds (g : Group) (u : MUnit) : Bool := decide (chainCount g.stack .gate 16 u.top < g.frames.length)

/-- The gate frames of the calls that a unit is in, innermost first: all of them unless a call holds it. -/
def Group.ownFrames (g : Group) (u : MUnit) : List GateFrame := g.frames.drop (g.frames.length - chainCount g.stack .gate 16 u.top)

/-- The state of a unit that may go on: Held while a gate call runs that it is not in (R38), Loading while its region is evicted (R226), else
Ready. -/
def Group.readyAs (g : Group) (u : MUnit) : UState :=
  if g.holds u then .held
  else match u.region with
    | some r => if r.resident then .ready else .loading
    | none => .ready
def State.readyState (s : State) : UState := s.grp.readyAs s.cur

/-- A program counter has the 57 bits of a virtual address (Table 10, R56; log 18). -/
def pcCut (a : DWord) : DWord := (a.setWidth 57).setWidth 64

/-- The unit after one instruction of `size` bytes (R177, R205, R207); it is no longer at the entry of a trap handler. -/
def MUnit.advance (u : MUnit) (size : Nat) : MUnit :=
  match u.run.rep with
  | some r =>
    if r.k < r.args.cnt.toNat then { u with entered := false, run := { u.run with rep := some { r with k := r.k + 1 } } }
    else { u with entered := false, pc := pcCut (u.pc + BitVec.ofNat 64 size), run := { u.run with rep := none, left := u.run.left - 1 } }
  | none => { u with entered := false, pc := pcCut (u.pc + BitVec.ofNat 64 size), run := { u.run with left := u.run.left - 1 } }

/-- A unit whose run has ended leaves the Issuing state at the next header (R205). -/
def MUnit.settle (u : MUnit) (now : Nat) : MUnit :=
  if u.run.left = 0 ∧ u.st = .issuing then { u with st := .ready, since := now } else u

/-- The instruction of the unit in issue completes: it occupied its pipe for `cost` cycles (R25, R203). -/
def State.advance (s : State) (size cost : Nat) : State :=
  { s with cur := (s.cur.advance size).settle (s.cycle + cost), cycle := s.cycle + cost }

/-- A uniform instruction completes in one cycle. -/
def State.doneU (s : State) (x : Args) : State := s.advance x.bytes 1

/-- A lane instruction completes after its passes at the given interval, and the stalls of R227 in `extra`. -/
def State.doneL (s : State) (x : Args) (interval : Nat) : State := s.advance x.bytes (passes s.cur.mask * interval)

/-- A PC holds a byte address whose bits [1:0] are zero (R177). -/
def pcOf (a : DWord) : DWord := pcCut (a >>> 2 <<< 2)

/-- The unit goes to a new address, where a run begins (R39). -/
def MUnit.goTo (u : MUnit) (pc : DWord) : MUnit := { u with pc := pcOf pc, run := { u.run with left := 0, rep := none }, entered := false }

/-- A transfer of control: the run ends and the unit reaches the header at `pc` (R209). -/
def State.jump (s : State) (pc : DWord) (cost : Nat) : State :=
  { s with cur := (s.cur.goTo pc).settle (s.cycle + cost), cycle := s.cycle + cost }

/-- The address after an instruction of `size` bytes (R177). -/
def State.next (s : State) (size : Nat) : DWord := pcCut (s.cur.pc + BitVec.ofNat 64 size)

/-- The next issue stamp, taken by every instruction that makes accesses or waits for earlier ones. -/
def State.stamp (s : State) : State := { s with serial := s.serial + 1 }

/-- Parks the unit in issue with its instruction; `lanes` are the lanes still to do (R266), `src` what their sources held. -/
def State.park (s : State) (why : ParkWhy) (i : Instr) (serial : Nat) (lanes : Mask) (aux : Nat) (y : BitVec 512)
    (src : List (Nat × PWord) := []) : State :=
  { s with cur := { s.cur with st := .parked { why := why, instr := i, serial := serial, lanes := lanes, since := s.cycle,
                                               aux := aux, rec_ := y, src := src } } }

/-- Changes the parked instruction of the unit in issue. -/
def State.modParked (s : State) (f : Parked → Parked) : State :=
  match s.cur.st with
  | .parked p => { s with cur := { s.cur with st := .parked (f p) } }
  | _ => s

/-- What the unit in issue is parked on, if it is parked for a given reason. -/
def State.parkedOn (s : State) (why : ParkWhy) : Option Parked :=
  match s.cur.st with
  | .parked p => if p.why = why then some p else none
  | _ => none

/-- The parking condition is met: the unit becomes Ready, or Held (R47, R145). -/
def State.unpark (s : State) : State := { s with cur := { s.cur with st := s.readyState, since := s.cycle } }

/-- The parked instruction of `size` bytes is complete: the unit goes on behind it (R205). -/
def State.wake (s : State) (size : Nat) : State :=
  let t := s.unpark
  { t with cur := t.cur.advance size }

/-! ### Regions (R226) -/

/-- Write-back: where a register of the region is not dirty, the main file's value is the one seen from then on; dirty registers keep
the region's value (log 13). -/
def writeBack (r : Regs) (g : Region) : Regs :=
  { r with v := g.main.foldl (fun m e => match e.2 with
      | some x => if g.dirty.contains (e.1 % 256) then m else sset {} m e.1 x
      | none => m) r.v }

/-- Releases the region of the unit in issue (R226). -/
def State.releaseRegion (s : State) : State :=
  match s.cur.region with
  | some g => if g.resident then { s with grp := { s.grp with r := writeBack s.grp.r g }, cur := { s.cur with region := none } }
              else { s with cur := { s.cur with region := none } }
  | none => s

/-! ### The reconvergence stack -/

def State.entry (s : State) (i : Nat) : StackEntry := sget {} s.grp.stack i
def State.setEntry (s : State) (i : Nat) (e : StackEntry) : State := { s with grp := { s.grp with stack := sset {} s.grp.stack i e } }
def State.freeEntry (s : State) (i : Nat) : State := s.setEntry i {}

/-- The lowest free stack entry. -/
def freeIndex (stack : List (Nat × StackEntry)) : Option Nat := (List.range 16).find? fun i => (sget {} stack i).kind = .none

/-- The entries of a chain from `top` down to, and without, entry `stop`. -/
def chainAbove (stack : List (Nat × StackEntry)) (stop : Nat) : Nat → Option Nat → List Nat
  | 0, _ => []
  | _, none => []
  | n + 1, some i => if i = stop then [] else i :: chainAbove stack stop n (sget {} stack i).link

/-- Does a chain hold entry `i`? -/
def chainHolds (stack : List (Nat × StackEntry)) (i : Nat) : Nat → Option Nat → Bool
  | 0, _ => false
  | _, none => false
  | n + 1, some j => if i = j then true else chainHolds stack i n (sget {} stack j).link

/-! ### The return of a gate call (R142) and the contained fault (R143) -/

/-- Registers of a caller after a call returns: the window zeroed, the v and s results in place, the frame's uniform state back, the
predicates zero, and q15 telling how the call ended. `off` is the caller's register 0 in the main file. -/
def restoreRegs (r : Regs) (f : GateFrame) (off lanes : Nat) (vres : Nat → Nat → PWord) (sres : Nat → PWord) (q15 : Bool) : Regs :=
  let cb := geCb f.entry
  let lo := off + f.budget - cb
  let v0 := r.v.filter fun e => decide (e.1 % 256 < lo) || decide (e.1 % 256 ≥ off + f.budget)
  let v1 := (List.range lanes).foldl (fun m l => (List.range (geVret f.entry)).foldl (fun m k => sset {} m (l * 256 + off + k) (vres l k)) m) v0
  let s1 := (List.range (geSret f.entry)).foldl (fun m k => sset {} m k (sres k)) f.s
  { r with v := v1, vw := (r.vw.noteSpan lo cb).noteSpan off (geVret f.entry), p := [], s := s1, q := setBit f.q 15 q15, x := f.x, fbits := f.fbits }

/-- R142 from "restore" on, for the unit in issue, whose top entry is the gate entry `e`. -/
def State.gateReturn (s : State) (f : GateFrame) (e : StackEntry) (ei : Nat) (vres : Nat → Nat → PWord) (sres : Nat → PWord)
    (q15 : Bool) : State :=
  let off := s.grp.budget - f.budget
  let r := restoreRegs s.grp.r f off s.grp.lanes vres sres q15
  let frames := match s.grp.frames.tail with
    | [] => []
    | o :: rest => { o with slots := s.loadBank s.team.part f.domain (domBank (s.myPart.domain f.domain)) } :: rest
  let cur := { (s.cur.goTo (e.rpc.getD 0)) with mask := e.mask, top := e.link }
  let g0 := { s.grp with r := r, frames := frames, sys := { s.grp.sys with domain := f.domain }, stack := sset {} s.grp.stack ei {} }
  let g1 := s.rederive s.team g0
  let g2 := { g1 with units := g1.units.map fun u => if u.st = .held then { u with st := g1.readyAs u, since := s.cycle } else u }
  { s with grp := g2, cur := cur }

/-- A contained callee fault, as one step (R143, R387): callee units other than the owner end, entries above the gate entry are
freed, and the owner returns with zero results, q15 = 1 and the code in $gate.status. -/
def State.contained (s : State) (gi : Nat) (status : Nat) : State :=
  let e := s.entry gi
  match s.frame? with
  | none => s
  | some f =>
    let stack := s.grp.stack
    let inCall (u : MUnit) : Bool := chainHolds stack gi 16 u.top
    let above := (s.units.map fun u => if inCall u then chainAbove stack gi 16 u.top else []).flatten
    let stack1 := above.foldl (fun m i => sset {} m i {}) stack
    let regs := s.units.foldl (fun r u => match u.region with
      | some g => if inCall u && g.resident then writeBack r g else r
      | none => r) s.grp.r
    match s.units.find? fun u => u.id = e.owner with
    | none => s
    | some o =>
      let others := s.units.filter fun u => decide (u.id ≠ e.owner) && !inCall u
      let t := { s with grp := { s.grp with stack := stack1, units := others, r := regs, frames := s.grp.frames.drop (s.grp.frames.length - s.gateDepth) },
                        cur := { o with region := none, st := .ready, since := s.cycle } }
      let t1 := t.gateReturn f e gi (fun _ _ => {}) (fun _ => {}) true
      { t1 with grp := { t1.grp with sys := { t1.grp.sys with gateStatus := BitVec.ofNat 32 status } },
                cur := t1.cur }

/-! ### The halt line (R389, R390) -/

/-- Domain 0 address of byte `off` of the halt area: the start of the save pool (R390). -/
def Partition.haltAddr (p : Partition) (off : Nat) : Nat := p.wbase + 2 ^ p.k - p.pool + off

/-- Writes a record of the halt area, 32 bytes at a time. -/
def State.writeHalt (s : State) (part off bytes x : Nat) : State :=
  (List.range (bytes / 32)).foldl (fun s i => s.writeVirt part 0 ((s.part part).haltAddr (off + 32 * i)) 32 (x / 2 ^ (256 * i) % 2 ^ 256)) s

/-- The halt summary (Table 156). -/
def haltSummary (h : Halt) : Nat :=
  h.state + h.code * 2 ^ 32 + h.engine * 2 ^ 52 + h.core * 2 ^ 56 + h.originators * 2 ^ 64 + h.seq % 2 ^ 32 * 2 ^ 96

/-- A unit that has entered a trap handler and issued nothing there stops as Ready at the handler's address (R386). -/
def MUnit.unenter (u : MUnit) (now : Nat) : MUnit :=
  match u.st with
  | .parked _ | .ended => u
  | _ => if u.entered then { u with st := .ready, since := now, pc := if u.run.left = 0 then u.pc else u.run.start, run := {}, entered := false } else u

/-- Does a stream name a team of a partition? -/
def State.streamIn (s : State) (stream part : Nat) : Bool := stream != 0 && (s.team? stream).any fun t => t.part == part

/-- The saving of a team stops and its image is discarded (R389). -/
def Team.dropImage (t : Team) (part : Nat) : Team := if t.st = .saving ∧ t.part = part then { t with image := none } else t

/-- What the rise of a partition's halt line does at once: units at the entry of a trap handler stop there (R386), and the images of Saving teams
are discarded, their bytes of the save pool given back (R389). -/
def State.lineRises (s : State) (part : Nat) : State :=
  let stop (k : GKey) (u : MUnit) : MUnit := if s.streamIn k.stream part then u.unenter s.cycle else u
  let bytes := ((s.allTeams.filter fun t => decide (t.st = .saving ∧ t.part = part)).map fun t => (t.image.map fun im => im.bytes).getD 0).sum
  let u : State := { s with cur := stop s.grp.key s.cur, grp := { s.grp with units := s.grp.units.map (stop s.grp.key) },
                            groups := s.groups.map fun g => { g with units := g.units.map (stop g.key) },
                            team := s.team.dropImage part, teams := s.teams.map fun t => t.dropImage part }
  u.modPart part fun p => { p with poolUsed := p.poolUsed - bytes }

/-- A halting fault of an engine of a core raises the partition's halt line; the engine is recorded as an originator. -/
def State.raiseLine (s : State) (part core engine code detail pc : Nat) : State :=
  let p := s.part part
  let h := p.halt
  let h1 := if h.state = 0 then { state := 1, seq := h.seq + 1 : Halt } else h
  let p1 := { p with halt := h1, grids := p.grids.map fun g => { g with reserved := [], floor := [] } }
  let s1 := (s.setPart part p1).modCore core fun c =>
    { c with origin := if c.origin.any fun o => o.1 = engine then c.origin else c.origin ++ [(engine, (code, detail % 2 ^ 64, pc))],
             stopped := if h.state = 0 then [] else c.stopped }
  s1.writeHalt part 0 64 (haltSummary h1)

/-- The halt of a partition by a fault of an engine (R389): the line rises, unless it is high already, and the engine is recorded. -/
def State.halt (s : State) (part core engine code detail pc : Nat) : State :=
  (if (s.part part).halt.state = 0 then s.lineRises part else s).raiseLine part core engine code detail pc

/-- An engine of a core serves the team of a stream (R390). -/
def State.serve (s : State) (core engine stream : Nat) : State :=
  let number := match s.team? stream with
    | some t => if stream = 0 then 0 else t.number
    | none => 0
  s.modCore core fun c => { c with served := sset (0, 0) c.served engine (stream, number) }

/-- Counts a consumed poisoned value per die (R400). -/
def State.countPoison (s : State) (core : Nat) : State :=
  let k := dieOfCore core * 3 + 2
  { s with health := { s.health with counters := sset 0 s.health.counters k (sget 0 s.health.counters k + 1) } }

/-- The pilot in issue ends, and slot 16 issues nothing until it is restarted (R215). -/
def State.stopPilot (s : State) : State :=
  { s with cur := { s.cur with st := .ended }, grp := { s.grp with st := .ended, units := [] } }.modCore s.grp.core fun c => { c with pilot := false }

/-- A fault of the instruction in issue: contained by the innermost gate entry that says so, else halting (R379, R387). `status` is
what $gate.status receives. The pilot of slot 16 belongs to no partition, so a fault there stops it as HALT does (log 7). -/
def State.raiseAs (s : State) (c : Code) (status : Nat) : State :=
  let s0 := if c.code = cPoison then s.countPoison s.grp.core else s
  if s0.grp.slot = 16 then s0.stopPilot
  else
    let contain : Option Nat :=
      if haltsAlways c.code then none
      else match innerGate s0.grp.stack 16 s0.cur.top, s0.frame? with
        | some gi, some f => if geContain f.entry then some gi else none
        | _, _ => none
    match contain with
    | some gi => s0.contained gi status
    | none => s0.halt s0.team.part s0.grp.core s0.grp.pipe c.code c.detail s0.cur.pc.toNat

/-- The common case: $gate.status receives the code. -/
def State.raise (s : State) (c : Code) : State := s.raiseAs c c.code

/-- The outcome of an instruction: it stalls, or it faults by the first code of its checks, or it has its effect. -/
def outcome (s : State) (stall : Bool) (fault : Option Code) (effect : State) : Out :=
  .next (if stall then s.stall else match fault with
    | some c => s.raise c
    | none => effect)

/-! ### Taking a trap and returning from it (R212, R213, R385) -/

/-- Pushes a trap entry on the chain of the unit in issue and enters the handler at $trap.vec, releasing the region; the unit stays Issuing
(Table 14), at the handler's entry (R386). `resume` is the address that TRET returns to, `cost` the cycles of the trapping instruction. -/
def State.enterTrap (s : State) (i cause : Nat) (resume : DWord) (cost : Nat) : State :=
  let t := s.releaseRegion
  let e : StackEntry := { kind := .trap, rpc := some resume, mask := t.cur.mask, outstanding := 0, owner := t.cur.id, link := t.cur.top }
  let sys := { t.grp.sys with trapCause := BitVec.ofNat 32 cause, trapPc := s.cur.pc }
  { t with grp := { t.grp with sys := sys, stack := sset {} t.grp.stack i e },
           cur := { t.cur.goTo t.grp.sys.trapVec with top := some i, entered := true }, cycle := t.cycle + cost }

/-- POISON of a fetched word (R438). -/
def poisonWord (pc : Nat) : Code := ⟨cPoison, 5 + pc % 2 ^ 56 * 2 ^ 8⟩

/-- A fault of the word at a PC that the unit goes to: the stop record holds that PC (R438). -/
def State.raiseAt (s : State) (pc : DWord) (c : Code) : State := { s with cur := { s.cur with pc := pc } }.raise c

/-- Is a 64-bit value the address of a word (R177, R209)? -/
def isPc (a : Nat) : Bool := decide (a < 2 ^ 57) && a % 4 == 0

/-- Delivery of a trap to the unit in issue (R385): STACK_FULL, then NO_HANDLER for a vector that is zero or no PC, then the fetch's code and
POISON at the vector, then NO_HANDLER for a word that is no header, then the entry. -/
def State.deliver (s : State) (cause : Nat) (resume : DWord) (cost : Nat) : State :=
  let vec := s.grp.sys.trapVec
  match freeIndex s.grp.stack with
  | none => s.raise ⟨cStackFull, 2⟩
  | some i =>
    if vec = 0 ∨ !isPc vec.toNat then s.raise ⟨cNoHandler, cause⟩
    else match s.fetchWord vec.toNat with
      | .error c => s.raiseAt vec c
      | .ok (w, bad) =>
        if bad then s.raiseAt vec (poisonWord vec.toNat)
        else if isHeaderWord w then s.enterTrap i cause resume cost
        else s.raise ⟨cNoHandler, cause⟩

/-- TRET: pops a trap entry and resumes where it says (R213), in its one cycle (R203). -/
def State.trapReturn (s : State) (i : Nat) : State :=
  let t := s.releaseRegion
  let e := t.entry i
  let u := { t.cur with mask := e.mask, top := e.link }
  { t with cur := (u.goTo (e.rpc.getD 0)).settle (t.cycle + 1), grp := { t.grp with stack := sset {} t.grp.stack i {} }, cycle := t.cycle + 1 }

/-! ### Pending registers (R265) -/

/-- Is one of some main-file registers of some lanes of a group the destination of an access still in flight? -/
def State.pendingIn (s : State) (k : GKey) (lanes : Mask) (regs : List Nat) : Bool :=
  s.flights.any fun f => f.who.group = k && lanes.toNat.testBit f.lane && !f.returned && (match f.dst with
    | some d => regs.any fun r => decide (d ≤ r) && decide (r < d + f.nregs)
    | none => false)

/-- Is a register that the unit in issue names pending in one of its lanes? -/
def State.pendingV (s : State) (regs : List Nat) : Bool :=
  s.pendingIn s.grp.key s.cur.mask (regs.map fun r => s.grp.budget - s.budget + r)

/-- Would the release of a region write back a pending register? -/
def State.releaseWaits (s : State) (k : GKey) (u : MUnit) : Bool :=
  match u.region with
  | some g => g.resident && s.pendingIn k g.lanes g.dirty
  | none => false

/-- An instruction that releases the region of the unit in issue waits in the pipe. -/
def State.waitsRelease (s : State) : Bool := s.releaseWaits s.grp.key s.cur

/-- Is a register in a region of the unit that is still loading (R225)? -/
def State.loadingV (s : State) (regs : List Nat) : Bool :=
  match s.cur.region with
  | some g => g.loading && regs.any fun r => g.regs.contains (s.grp.budget - s.budget + r)
  | none => false

/-- An instruction naming one of these registers waits in the pipe. -/
def State.waitsV (s : State) (regs : List Nat) : Bool := s.pendingV regs || s.loadingV regs

/-! ### Checks shared by instructions -/

/-- REG_BUDGET for the first of the named v-registers, in the order d, a, b, c, that is at or above the budget; which of several the detail names
is the model's choice (R231, log 19). -/
def State.budgetCheck (s : State) (regs : List Nat) : Option Code :=
  match regs.find? fun r => decide (r ≥ s.budget) with
  | some r => some ⟨cRegBudget, r % 256 + (s.budget - 1) * 256⟩
  | none => none

/-- POISON of a v-register read in the executing lanes (R384). -/
def State.poisonV (s : State) (lanes regs : List Nat) : Option Code :=
  match regs.find? fun r => lanes.any fun l => (s.vreg l r).poison with
  | some r => some ⟨cPoison, r * 2 ^ 8⟩
  | none => none

/-- POISON of an s-register. -/
def State.poisonS (s : State) (regs : List Nat) : Option Code :=
  match regs.find? fun r => (s.sreg r).poison with
  | some r => some ⟨cPoison, 1 + r * 2 ^ 8⟩
  | none => none

/-- GATE_FORBIDDEN (R144): the first word of the instruction is the detail. -/
def State.forbidden (s : State) (w : Nat) : Option Code := need (!s.inGate) cGateForbidden w

/-- The first word of an instruction. -/
def firstWord (i : Instr) : Nat := natOfBytes ((encode i).take 4)

/-- A uniform instruction: nothing under a false guard, else the first fault of its checks, else its effect. -/
def uniformOp (s : State) (x : Args) (faults : List (Option Code)) (effect : State → State) : Out :=
  if s.guardU x.gp x.gn then outcome s false (firstCode faults) ((effect s).doneU x) else .next (s.doneU x)

end Sys2Proof.Machine
end

