-- ==== Sys2Proof/Machine/Issue.lean ====
section
/-! DEFINITION. Machine/Issue.lean: what the machine does next: fetching the clause header or the instruction that a unit has reached
(02 R39, 09 R190 to R195, 21 R438), and the order in which the model's own scheduler tries the events when nothing is named (log 1). -/

namespace Sys2Proof.Machine

/-- What a step comes to: an instruction or event to execute in a state, a state, or nothing. -/
inductive Plan where
  | run (i : Instr) (s : State)
  | rest (s : State)
  | nothing

/-- May the unit in issue issue: a live group, of an admitted team, in a partition whose halt line is low (R389, R392)? The pilot of
slot 16 keeps running. -/
def State.mayIssue (s : State) : Bool :=
  s.grp.st == .live && (s.grp.slot == 16 || (s.team.st == .admitted && s.myPart.halt.state == 0))

/-- ILLEGAL_INSTRUCTION with the words found (Table 152). -/
def illegalWords (bs : List Byte) : Code := ⟨cIllegal, natOfBytes (bs.take 8)⟩

/-- The unit reaches a header: the fetch's code, POISON, NOT_A_HEADER, ILLEGAL_INSTRUCTION, or the header (R205, R438). -/
def State.header (s : State) : Plan :=
  let pc := s.cur.pc.toNat
  match s.fetchWord pc with
  | .error c => .rest (s.raise c)
  | .ok (w, bad) =>
    if bad then .rest (s.raise (poisonWord pc))
    else if !isHeaderWord w then .rest (s.raise ⟨cNotHeader, w⟩)
    else match decode (bytesOf w 4) with
      | .ok i => .run i s
      | .error _ => .rest (s.raise (illegalWords (bytesOf w 4)))

/-- The instruction at an address: its bytes, then what they decode to. A clean first word that is illegal by itself comes before the words behind it
(R202, R380). -/
def State.fetchInstr (s : State) (pc : Nat) : Except Code (List Byte × Instr) :=
  match s.fetchWord pc with
  | .error c => .error c
  | .ok (w, bad0) =>
    if !bad0 && firstWordIllegal w then .error (illegalWords (match s.fetchWords pc (wordsOf w) with
      | .ok (bs, _) => bs
      | .error _ => bytesOf w 4))
    else match s.fetchWords pc (wordsOf w) with
    | .error c => .error c
    | .ok (bs, bad) => match bad with
      | some p => .error (poisonWord p)
      | none => match decode bs with
        | .ok i => .ok (bs, i)
        | .error _ => .error (illegalWords bs)

/-- Does a clean word at an address name an instruction that REP must not repeat (R192)? -/
def State.notRepeatable (s : State) (pc : Nat) : Bool :=
  match s.fetchWord pc with
  | .ok (w, false) => wordNotRepeatable w
  | _ => false

/-- The instruction that the unit in issue issues now: the next of its run, or the repetition that is due (R191, R194, R195, R207). -/
def State.instruction (s : State) : Plan :=
  let pc := s.cur.pc.toNat
  match s.fetchInstr pc with
  | .error c => .rest (s.raise c)
  | .ok (bs, i) =>
    match s.cur.run.rep with
    | some r => .run (i.stepped r.args r.k) s
    | none =>
      match i with
      | .clh _ => .rest (s.raise (illegalWords bs))
      | .rep r =>
        if s.notRepeatable (pc + 4) then .rest (s.raise (illegalWords bs))
        else match s.fetchInstr (pc + 4) with
          | .error c => .rest (s.raiseAt (s.next 4) c)
          | .ok (_, j) => if repAllowed r j then .run i s else .rest (s.raise (illegalWords bs))
      | _ => if i.endsRun && s.cur.run.left != 1 then .rest (s.raise (illegalWords bs)) else .run i s

/-- The next word of the unit in issue: its next instruction while it holds its pipe, or the header that it has reached, which a unit that has
entered a trap handler reaches with its pipe (Table 14). -/
def State.nextWord (s : State) : Plan :=
  if !s.mayIssue then .nothing
  else match s.cur.st with
    | .ready => if s.cur.run.left = 0 then s.header else .nothing
    | .issuing => if s.cur.run.left = 0 then s.header else s.instruction
    | _ => .nothing

/-- What a named move comes to. -/
def State.plan (s : State) : Move → Plan
  | .event i => if i.isWord then .nothing else .run i s
  | .issue u => match s.select u with
    | some t => t.nextWord
    | none => .nothing

/-! ### The fetch of a run (R438) -/

/-- Words of the instruction at an address; a repeat word counts with the instruction that it repeats (R194). -/
def State.extent (s : State) (pc : Nat) : Except Code Nat :=
  match s.fetchWord pc with
  | .error c => .error c
  | .ok (w, _) =>
    if field w 31 25 = 0x41 then
      match s.fetchWord (pc + 4) with
      | .error c => .error c
      | .ok (v, _) => .ok (1 + wordsOf v)
    else .ok (wordsOf w)

/-- The translation code of the first of the `n` instructions from `pc` that cannot be fetched. -/
def State.runFault (s : State) (pc : Nat) : Nat → Option Code
  | 0 => none
  | n + 1 => match s.extent pc with
    | .error c => some c
    | .ok k => match s.fetchWords pc k with
      | .error c => some c
      | .ok _ => s.runFault (pc + 4 * k) n

/-- The run at whose header the unit in issue stands is fetched whole as it begins; a word that cannot be fetched faults at the new run. -/
def State.beginRun (s : State) (go : State) : State :=
  match s.runFault s.cur.pc.toNat s.cur.run.left with
  | some c => s.raiseAt s.cur.run.start c
  | none => go

end Sys2Proof.Machine
end

