-- ==== Sys2Proof/Machine/Flags.lean ====
section
/-! DEFINITION. Machine/Flags.lean: the condition codes and the integer results that set them (09 Table 64; 10 Table 70; 11 Table 76), and
the completion flags f0 to f11 with their pending counts (10 R206). -/

namespace Sys2Proof.Machine

/-- The signed reading of a 32-bit value. -/
def s32 (a : Nat) : Int := signedOf a 32

/-- A condition of Table 64 on two 32-bit values: codes 0 to 5 compare two's-complement values, 6 and 7 unsigned ones (R199). -/
def condInt (code a b : Nat) : Bool :=
  match code with
  | 0 => s32 a == s32 b
  | 1 => s32 a != s32 b
  | 2 => decide (s32 a < s32 b)
  | 3 => decide (s32 a ≤ s32 b)
  | 4 => decide (s32 a > s32 b)
  | 5 => decide (s32 a ≥ s32 b)
  | 6 => decide (a < b)
  | _ => decide (a ≥ b)

/-- An operation of QOP on two predicates (Table 64). -/
def condPred (code : Nat) (a b : Bool) : Bool :=
  match code with
  | 0 => a && b
  | 1 => a || b
  | 2 => xor a b
  | 3 => a && !b
  | 4 => a || !b
  | 5 => !a
  | _ => a

/-- An exact signed result, wrapping or saturating to 32 bits. -/
def intResult (sat : Bool) (wrapped signed : Int) (n : Nat) : Nat := if sat then wrapU (satS signed n) n else wrapU wrapped n

/-- Shift and bit-field results of Table 70. -/
def shl32 (a b : Nat) : Nat := if b ≥ 32 then 0 else a * 2 ^ b % 2 ^ 32
def shr32 (a b : Nat) : Nat := if b ≥ 32 then 0 else a / 2 ^ b
def sra32 (a b : Nat) : Nat := wrapU (s32 a / (2 ^ min b 31 : Int)) 32
def rot32 (a b : Nat) : Nat := (a * 2 ^ (b % 32) + a / 2 ^ (32 - b % 32)) % 2 ^ 32
/-- Position and width of the bit field that B names, cut at bit 31. -/
def bfPos (b : Nat) : Nat := field b 4 0
def bfLen (b : Nat) : Nat := min (min (field b 13 8) 32) (32 - bfPos b)
def bfe32 (a b : Nat) : Nat := a / 2 ^ bfPos b % 2 ^ bfLen b
def bfi32 (a b c : Nat) : Nat :=
  let m := (2 ^ bfLen b - 1) * 2 ^ bfPos b
  (c &&& (2 ^ 32 - 1 - m)) ||| (a % 2 ^ bfLen b * 2 ^ bfPos b)
def smin32 (a b : Nat) : Nat := if s32 a ≤ s32 b then a else b
def smax32 (a b : Nat) : Nat := if s32 a ≥ s32 b then a else b
def mulh32 (a b : Nat) : Nat := wrapU (s32 a * s32 b / 2 ^ 32) 32

/-! ### Completion flags -/

/-- Does the header of the unit's run declare flag `n` (R206)? -/
def MUnit.declares (u : MUnit) (n : Nat) : Bool := u.run.seta.toNat = n || u.run.setb.toNat = n

/-- The flag that an instruction counts, when it names one that its run declares. -/
def State.countedFlag (s : State) (n : Nat) : Option Nat := if n ≤ 11 ∧ s.cur.declares n then some n else none

/-- Issue of a flag-setting operation: its bit clears and its count rises (R206). -/
def Regs.flagIssue (r : Regs) (f : Option Nat) : Regs :=
  match f with
  | some n => { r with fbits := setBit r.fbits n false, fcnt := sset 0 r.fcnt n (sget 0 r.fcnt n + 1) }
  | none => r

/-- Completion of a flag's operation: its count falls, and at zero its bit is set. -/
def Regs.flagDone (r : Regs) (f : Option Nat) : Regs :=
  match f with
  | some n =>
    let k := sget 0 r.fcnt n - 1
    { r with fcnt := sset 0 r.fcnt n k, fbits := if k = 0 then setBit r.fbits n true else r.fbits }
  | none => r

def State.flagIssue (s : State) (f : Option Nat) : State := s.modRegs fun r => r.flagIssue f
/-- Are the counts of all flags in a wait mask zero (R206)? -/
def Regs.waitMet (r : Regs) (mask : BitVec 12) : Bool :=
  (List.range 12).all fun n => !mask.toNat.testBit n || sget 0 r.fcnt n == 0

/-- Units of a group whose header's wait is now met become Ready, Loading or Held (Table 14). -/
def Group.awaken (g : Group) (now : Nat) : Group :=
  { g with units := g.units.map fun u => if u.st = .waiting ∧ g.r.waitMet u.run.wait then { u with st := g.readyAs u, since := now } else u }

/-- Completion of a flag's operation for a group. -/
def State.flagDone (s : State) (k : GKey) (f : Option Nat) : State :=
  match f with
  | some _ => s.modGroup k fun g => { g with r := g.r.flagDone f }.awaken s.cycle
  | none => s

end Sys2Proof.Machine
end

