-- ==== Sys2Proof/Machine/Channel.lean ====
section
/-! DEFINITION. Machine/Channel.lean: accesses in flight (04 R78 to R93): where they go, channel state entries and windows (R82, R84, R89),
JOIN marks (R86), what counts as performed at a scope (R85), request entries and reply slots (R88), and completion of flags (R268). -/

namespace Sys2Proof.Machine

/-! ### Kinds and places -/

/-- Does the access change memory? -/
def FKind.writes : FKind → Bool
  | .store | .stfe | .atom _ | .cas | .red _ => true
  | _ => false
/-- Does the access return data? -/
def FKind.returns : FKind → Bool
  | .load | .ldfeKeep | .ldfeClr | .atom _ | .cas => true
  | _ => false

/-- Does the access leave for the host as a non-posted request, which its completion performs (R263, R335)? -/
def FKind.nonPosted : FKind → Bool
  | .red _ => true
  | k => k.returns

/-- Destination die identifier (Table 25). -/
def State.dieId (s : State) (p : Place) : Nat :=
  let dev := s.plat.device * 5
  match p with
  | .spad c _ => dev + dieOfCore c
  | .reg a => dev + dieOfCore (winCore a)
  | .dram pa => dev + dieOfPa pa
  | .host _ => dev + 4
  | .fabric d _ _ => d * 5 + 4

/-- Is a place the core's own slice or register window (R80)? -/
def Place.onCore (core : Nat) : Place → Bool
  | .spad c _ => c == core
  | .reg a => winCore a == core
  | _ => false

/-- The space of a place as a number, its container, and its byte address there. -/
def Place.coords : Place → Nat × Nat × Nat
  | .spad c o => (0, c, o)
  | .dram pa => (1, 0, pa)
  | .reg a => (2, 0, a)
  | .fabric d g o => (3, d * 64 + g, o)
  | .host a => (4, 0, a)

/-- Do two accesses touch a common 16-byte granule (R78)? -/
def sharesGranule (p : Place) (w : Nat) (q : Place) (v : Nat) : Bool :=
  let (a, b, x) := p.coords
  let (c, d, y) := q.coords
  a == c && b == d && decide (x / 16 ≤ (y + v - 1) / 16) && decide (y / 16 ≤ (x + w - 1) / 16)

/-- Is an access of the group in issue, of stamp `before`, held behind an unacknowledged earlier off-core store or atomic of the group (R78)? -/
def State.heldBySame (s : State) (p : Place) (w before : Nat) : Bool :=
  s.flights.any fun f => f.who.group = s.grp.key && f.copy.isNone && f.kind.writes && f.remote && decide (f.done < 2) &&
    decide (f.serial < before) && sharesGranule f.place f.width p w

/-- Has the group in issue an access to a place that is not yet performed? A later load of the same granule may not overtake it at the L1 (R78). -/
def State.unperformedAt (s : State) (p : Place) (w : Nat) : Bool :=
  s.flights.any fun f => f.who.group = s.grp.key && f.copy.isNone && !f.performed && sharesGranule f.place f.width p w

/-- The aligned block of `size` bytes that a place lies in: its space, its container and its number. -/
def Place.block (p : Place) (size : Nat) : Nat × Nat × Nat := (p.coords.1, p.coords.2.1, p.coords.2.2 / size)

/-! ### Channel state entries (R89) -/

def chanFind (es : List ChanEntry) (k : ChanKey) : Option ChanEntry := es.find? fun e => e.key = k
def chanPut (es : List ChanEntry) (e : ChanEntry) : List ChanEntry :=
  if es.any fun x => x.key = e.key then es.map fun x => if x.key = e.key then e else x else es ++ [e]

/-- The entry that a new key may displace: the least recently used one with nothing unacknowledged. -/
def chanVictim (es : List ChanEntry) : Option ChanEntry :=
  (es.filter fun e => decide (e.unacked = 0)).foldl (fun b e => match b with
    | none => some e
    | some x => if e.lru < x.lru then some e else some x) none

/-- The table with an entry for a key, created or displacing another when needed; none while it is full. -/
def chanOpen (es : List ChanEntry) (k : ChanKey) : Option (List ChanEntry) :=
  if es.any fun x => x.key = k then some es
  else if es.length < 4096 then some (es ++ [{ key := k }])
  else match chanVictim es with
    | some v => some ((es.filter fun x => decide (x.key ≠ v.key)) ++ [{ key := k }])
    | none => none

/-- Do the unacknowledged packets of a key and `queued` more take all 64 places of its window (R84)? -/
def State.windowFull (s : State) (core : Nat) (k : ChanKey) (queued : Nat) : Bool :=
  decide (64 ≤ ((chanFind (s.core core).chans k).map fun e => e.unacked).getD 0 + queued)

/-- A sequence number for the next packet of a key (R84), or why there is none. -/
def State.takeSeq (s : State) (core : Nat) (k : ChanKey) : Except ParkWhy (Nat × State) :=
  match chanOpen (s.core core).chans k with
  | none => .error .channelTable
  | some es => match chanFind es k with
    | none => .error .channelTable
    | some e =>
      if e.unacked ≥ 64 then .error .window
      else
        let e1 := { e with nextSeq := (e.nextSeq + 1) % 65536, unacked := e.unacked + 1, lru := s.serial }
        .ok (e.nextSeq, s.modCore core fun c => { c with chans := chanPut es e1 })

/-- Distance of a sequence number behind the entry's acknowledged one. -/
def seqDist (e : ChanEntry) (seq : Nat) : Nat := (seq + 65536 - e.ackSeq) % 65536

/-! ### Requests, reply slots and request entries (R88) -/

/-- The requests of a team that hold a reply slot of a channel. -/
def State.slotRequests (s : State) (stream chan : Nat) : List Nat :=
  ((s.flights.filter fun f => f.who.group.stream = stream && f.chan = some chan && !f.returned && f.request.isSome).map fun f =>
    f.request.getD 0).dedup
def State.inUse (s : State) (stream chan : Nat) : Nat := (s.slotRequests stream chan).length

/-- The lowest reply slot of a channel of a team that a request can take: fewer are in use than reserved, the slot is free, and it has not returned
in this cycle (R88, R353, R354). -/
def State.freeSlot (s : State) (t : Team) (chan : Nat) : Option Nat :=
  let n := sget 0 t.reserved chan
  let busy (i : Nat) : Bool := s.flights.any fun f => f.who.group.stream = t.stream && f.chan = some chan && !f.returned && f.slot = some i
  if s.inUse t.stream chan ≥ n then none
  else (List.range n).find? fun i => !busy i && decide (sget 0 t.slotFrom (chan * 2 ^ 10 + i) ≤ s.cycle)

/-- The rtag of a request with a reply slot: its core, and the request entry that serves as the slot (Table 117, R354). -/
def Team.rtagAt (t : Team) (core chan slot : Nat) : Nat := core * 8192 + ((sget [] t.entries chan)[slot]?).getD 0

/-- Units parked on an LDFE on a core: each holds a request entry while it waits (R271). -/
def State.ldfeWaiters (s : State) (core : Nat) : Nat :=
  ((s.allGroups.filter fun g => decide (g.core = core)).map fun g => (g.units.filter fun u => match u.st with
    | .parked p => p.why == .ldfe
    | _ => false).length).sum

/-- Request entries of a core (Table 3). -/
def requestEntries : Nat := 8192

/-- Request entries of a core that accesses without a reply slot hold, waiting LDFEs among them. -/
def State.plainHeld (s : State) (core : Nat) : Nat :=
  (s.flights.filter fun f => f.core = core && f.request.isNone && !f.half).length + s.ldfeWaiters core

/-- Entries that the resident teams of a core keep as reply slots: of each channel those reserved, or those still in use where they are more. -/
def State.slotsKept (s : State) (core : Nat) : Nat :=
  ((s.allTeams.filter fun t => decide (t.core = core) && t.st.resident).map fun t =>
    ((List.range 16).map fun c => max (sget 0 t.reserved c) (s.inUse t.stream c)).sum).sum

/-- Free request entries of a core for accesses without a reply slot. -/
def State.entriesFree (s : State) (core : Nat) : Nat := requestEntries - s.slotsKept core - s.plainHeld core

/-- Requests of a core that are outstanding: those in a reply slot, and the accesses without one. -/
def State.requestsHeld (s : State) (core : Nat) : Nat :=
  s.plainHeld core +
    ((s.flights.filter fun f => f.core = core && f.request.isSome && !f.returned).map fun f => f.request.getD 0).dedup.length

/-- Has a core as many requests outstanding as it has entries (Table 3)? -/
def State.requestsFull (s : State) (core : Nat) : Bool := decide (requestEntries ≤ s.requestsHeld core)

/-! ### What has been performed (R85, R86) -/

/-- Column of Table 26 that a scope needs. -/
def scopeCol (scope : Nat) : Nat := if scope ≤ 3 then 1 else if scope = 4 then 2 else 3

/-- The channel that an instruction's off-core accesses name (R267). -/
def instrChan : Instr → Option Nat
  | .st x | .stfe x | .ldr x | .atom x | .cas x | .red x => some x.chan
  | _ => none

/-- Is some access that named a channel of the mask before stamp `before` not yet performed at column `col`? Accesses in flight, copy
requests with bytes to move, and lanes of a parked instruction count. `only` restricts to one group. -/
def State.outstanding (s : State) (stream : Nat) (mask before col : Nat) (only : Option GKey) : Bool :=
  let groupOk (g : GKey) : Bool := match only with
    | some k => g = k
    | none => true
  (s.flights.any fun f => f.who.group.stream = stream && groupOk f.who.group && decide (f.serial < before) && decide (f.done < col) &&
    (match f.chan with
     | some c => mask.testBit c
     | none => false)) ||
  (match s.team? stream with
   | some t => (s.core t.core).copies.any fun r => r.stream = stream && groupOk r.who.group && decide (r.serial < before) &&
       mask.testBit r.chan && (decide (r.moved < r.bytes) || r.resolved.isNone)
   | none => false) ||
  (s.allGroups.any fun g => g.key.stream = stream && groupOk g.key && g.units.any fun u => match u.st with
    | .parked p => decide (p.serial < before) && decide (p.lanes ≠ 0) && (match instrChan p.instr with
      | some c => mask.testBit c
      | none => false)
    | _ => false)

/-- Are a pending JOIN's marks all met (R86)? -/
def State.joinMet (s : State) (stream : Nat) (j : Join) : Bool := !s.outstanding stream j.mask.toNat j.serial 2 none

/-- The pending JOINs of a channel of a team, oldest first. -/
def State.pendingJoins (s : State) (stream chan : Nat) : List Join :=
  match s.team? stream with
  | some t => t.joins.filter fun j => j.chan = chan && !s.joinMet stream j
  | none => []

/-- Is an access of stamp `serial` on a channel held by a JOIN? -/
def State.joinHeld (s : State) (stream chan serial : Nat) : Bool :=
  (s.pendingJoins stream chan).any fun j => decide (j.serial < serial)

/-- Earlier loads of a unit have returned and its earlier on-core accesses have been performed (R91, R93). -/
def State.localDone (s : State) (u : UnitRef) (before : Nat) : Bool :=
  !(s.flights.any fun f => f.who = u && f.copy.isNone && decide (f.serial < before) &&
    ((f.kind.returns && !f.returned) || (!f.remote && !f.performed)))

/-- Everything issued on the team's channels before the stamp is performed at a scope; at group scope the group's own only. -/
def State.channelsDone (s : State) (g : GKey) (scope before : Nat) : Bool :=
  !s.outstanding g.stream 0xFFFF before (scopeCol scope) (if scope = 0 then some g else none)

/-- The accesses of a key that are still held at the source, without a sequence number, and come no later than a stamp (R86, R105). Those that
come later never hold an earlier one back, such as a segment of a copy kicked before them. -/
def State.queuedUpTo (s : State) (k : ChanKey) (serial : Nat) : List Flight :=
  s.flights.filter fun f => f.key = some k && f.seq.isNone && decide (f.serial ≤ serial)

/-- Is an access of a key queued behind others that are held at the source? -/
def State.queuedKey (s : State) (k : ChanKey) (serial : Nat) : Bool := s.queuedUpTo k serial != []

/-- Packets that the accesses queued before a stamp will make: one a request, and one each of the others. -/
def State.queuedPackets (s : State) (k : ChanKey) (serial : Nat) : Nat :=
  let q := s.queuedUpTo k serial
  (q.filter fun f => f.request.isNone).length + ((q.filterMap fun f => f.request).dedup).length

/-- Has the unit in issue no on-core access that is still to be performed (R80)? -/
def State.quietCore (s : State) : Bool :=
  !(s.flights.any fun f => f.who = s.unitRef && f.copy.isNone && !f.remote && !f.performed)

/-- The conditions of R91 for a release of a lane that goes to `key` (none when it stays on the core): accesses of its own channel to its own
die are not waited for. -/
def State.releaseMet (s : State) (u : UnitRef) (scope before : Nat) (key : Option ChanKey) : Bool :=
  s.localDone u before &&
  match key with
  | none => s.channelsDone u.group scope before
  | some k =>
    let rest := { s with flights := s.flights.filter fun f => decide (f.key ≠ some k) }
    !rest.outstanding u.group.stream 0xFFFF before (scopeCol scope) (if scope = 0 then some u.group else none)

/-! ### Completion -/

/-- Has a flagged access done what Table 95 asks? -/
def Flight.flagMet (f : Flight) : Bool := if f.kind.returns then f.returned else decide (f.done ≥ 1)

/-- Is an access over: nothing more can happen to it? -/
def Flight.over (f : Flight) : Bool := decide (f.done ≥ 3) && (!f.kind.returns || f.returned)

/-- A flag's operation completes when every access of its instruction has done what Table 95 asks and no lane is left to issue. -/
def State.settleFlag (s : State) (g : GKey) (serial n : Nat) : State :=
  let mine (f : Flight) : Bool := f.who.group = g && f.serial = serial && f.flag = some n && f.copy.isNone
  let waiting := s.flights.any fun f => mine f && !f.flagMet
  let parked := match s.group? g with
    | some gr => gr.units.any fun u => match u.st with
      | .parked p => p.serial = serial && p.why != .acquire
      | _ => false
    | none => false
  if waiting || parked then s
  else
    let t := s.flagDone g (some n)
    { t with flights := t.flights.map fun f => if mine f then { f with flag := none } else f }

/-- Drops the accesses that are over. -/
def State.sweep (s : State) : State := { s with flights := s.flights.filter fun f => !f.over }

def State.modFlight (s : State) (id : Nat) (f : Flight → Flight) : State :=
  { s with flights := s.flights.map fun x => if x.id = id then f x else x }
def State.flight? (s : State) (id : Nat) : Option Flight := s.flights.find? fun f => f.id = id

/-- Settles the flags of a list of accesses, each instruction's once. -/
def State.settleAll (s : State) (fs : List Flight) : State :=
  ((fs.filterMap fun f => f.flag.bind fun n => if f.copy.isNone then some (f.who.group, f.serial, n) else none).dedup).foldl
    (fun t e => t.settleFlag e.1 e.2.1 e.2.2) s

/-- Adds an access, under a new identifier. -/
def State.addFlight (s : State) (f : Flight) : State :=
  { s with flights := s.flights ++ [{ f with id := s.serial + 1 }], serial := s.serial + 1 }

/-- Adds the access of a lane; one of 16 bytes to the host is two of 8 bytes, unordered between them (R76). -/
def State.addAccess (s : State) (f : Flight) : State :=
  match f.place with
  | .host a =>
    if f.width = 16 then
      let lo := { f with width := 8, data := f.data % 2 ^ 64, nregs := min f.nregs 2 }
      let hi := { f with width := 8, data := f.data / 2 ^ 64, nregs := f.nregs - 2, place := .host (a + 8), va := f.va.map fun v => v + 8,
                         dst := f.dst.map fun d => d + 2, half := true }
      (s.addFlight lo).addFlight hi
    else s.addFlight f
  | _ => s.addFlight f

/-! ### The L1 (R69, R79) -/

/-- Lines that the L1 holds: 512 KiB. -/
def l1Lines : Nat := 4096

/-- Line key of a place that the L1 may hold: device lines by address, host lines above 2^60. -/
def lineKey : Place → Option Nat
  | .dram pa => some (pa / 128 * 128)
  | .host a => some (a / 128 * 128 + 2 ^ 60)
  | _ => none

/-- The line of a core that holds a place. -/
def State.l1Line (s : State) (core : Nat) (p : Place) : Option L1Line :=
  match lineKey p with
  | some k => (s.core core).l1.find? fun e => e.key = k
  | none => none

/-- What a line holds at a place: `w` bytes as a number, and whether they are poisoned. -/
def L1Line.read (e : L1Line) (p : Place) (w : Nat) : Nat × Bool :=
  let o := p.coords.2.2 % 128
  (natOfBytes ((e.bytes.drop o).take w), (blocksOf 32 o w).any fun b => e.bad.contains b)

/-- Bytes of the memory behind the L1. -/
def Memory.behind (m : Memory) (p : Place) (n : Nat) : Nat :=
  match p with
  | .dram pa => m.readDram pa n
  | .host a => m.readHost a n
  | _ => 0

/-- The line of a place as its memory holds it. -/
def Memory.line (m : Memory) (p : Place) (k : Nat) : L1Line :=
  match p with
  | .dram _ => { key := k, bytes := bytesOf (m.readDram k 128) 128, bad := (List.range 4).filter fun b => m.dramBad (k + 32 * b) 32 }
  | _ => { key := k, bytes := bytesOf (m.readHost (k - 2 ^ 60) 128) 128 }

/-- Fills the line of a place; a full L1 replaces the line that was filled first (log 24). -/
def State.l1Fill (s : State) (core : Nat) (p : Place) : State :=
  match lineKey p with
  | none => s
  | some k => s.modCore core fun c =>
    let rest := c.l1.filter fun e => decide (e.key ≠ k)
    { c with l1 := rest.drop (rest.length + 1 - l1Lines) ++ [s.mem.line p k] }

/-- A line after a store of its own core has been performed: the stored bytes are those of memory now, the others stand. -/
def L1Line.store (e : L1Line) (p : Place) (w x : Nat) (poison : Bool) : L1Line :=
  let o := p.coords.2.2 % 128
  let cover (b : Nat) : Bool := decide (o ≤ 32 * b) && decide (32 * b + 32 ≤ o + w)
  { e with bytes := e.bytes.take o ++ bytesOf x w ++ e.bytes.drop (o + w),
           bad := if poison then (e.bad ++ blocksOf 32 o w).dedup else e.bad.filter fun b => !cover b }

/-- A store writes through and updates the line of its own core when present (R69). -/
def State.l1Update (s : State) (core : Nat) (p : Place) (w : Nat) (poison : Bool) : State :=
  s.modCore core fun c => { c with l1 := c.l1.map fun e => if some e.key = lineKey p then e.store p w (s.mem.behind p w) poison else e }

/-- Drops the line of a place, or every line. -/
def State.l1Drop (s : State) (core : Nat) (p : Place) : State :=
  match lineKey p with
  | some k => s.modCore core fun c => { c with l1 := c.l1.filter fun e => decide (e.key ≠ k) }
  | none => s
def State.l1DropAll (s : State) (core : Nat) : State := s.modCore core fun c => { c with l1 := [] }

end Sys2Proof.Machine
end

