-- ==== Sys2Proof/Machine/Float.lean ====
section
/-! DEFINITION. Machine/Float.lean: the floating-point formats, rounding, arithmetic and conversions of 07_number_formats (R148 to R156), and
the dot products of R161 and R162. -/

namespace Sys2Proof.Machine

/-- A floating-point format (Table 39): exponent and fraction widths, and whether it has infinities. -/
structure Fmt where
  ew : Nat
  mw : Nat
  hasInf : Bool := true
deriving DecidableEq, Repr, Inhabited

def fE4M3 : Fmt := { ew := 4, mw := 3, hasInf := false }
def fE5M2 : Fmt := { ew := 5, mw := 2 }
def fF16 : Fmt := { ew := 5, mw := 10 }
def fBF16 : Fmt := { ew := 8, mw := 7 }
def fF32 : Fmt := { ew := 8, mw := 23 }
def fF64 : Fmt := { ew := 11, mw := 52 }

def Fmt.bias (f : Fmt) : Nat := 2 ^ (f.ew - 1) - 1
def Fmt.width (f : Fmt) : Nat := 1 + f.ew + f.mw
def Fmt.emin (f : Fmt) : Int := 1 - f.bias
/-- Magnitude encodings of infinity, the largest finite value and the canonical NaN (Table 40). -/
def Fmt.infBits (f : Fmt) : Nat := (2 ^ f.ew - 1) * 2 ^ f.mw
def Fmt.maxBits (f : Fmt) : Nat := if f.hasInf then f.infBits - 1 else f.infBits + 2 ^ f.mw - 2
def Fmt.nan (f : Fmt) : Nat := if f.hasInf then f.infBits + 2 ^ (f.mw - 1) else f.infBits + 2 ^ f.mw - 1
def Fmt.sign (f : Fmt) (neg : Bool) : Nat := if neg then 2 ^ (f.width - 1) else 0

/-- A value: a NaN, an infinity, or (-1)^neg × m × 2^e, where `sticky` says that the exact magnitude lies strictly between m and
m + 1 units of 2^e. -/
inductive FVal where
  | nan
  | inf (neg : Bool)
  | fin (neg : Bool) (m : Nat) (e : Int) (sticky : Bool)
deriving DecidableEq, Repr, Inhabited

/-- The value of an encoding (R149). -/
def unpack (f : Fmt) (x : Nat) : FVal :=
  let neg := bitOf x (f.width - 1)
  let ex := field x (f.width - 2) f.mw
  let fr := x % 2 ^ f.mw
  if ex = 2 ^ f.ew - 1 then
    if f.hasInf then (if fr = 0 then .inf neg else .nan)
    else if fr = 2 ^ f.mw - 1 then .nan
    else .fin neg (2 ^ f.mw + fr) ((ex : Int) - f.bias - f.mw) false
  else if ex = 0 then .fin neg fr (f.emin - f.mw) false
  else .fin neg (2 ^ f.mw + fr) ((ex : Int) - f.bias - f.mw) false

/-- Multiples of a unit nearest to a magnitude: `lo` units and the rest, as below, at or above half, and zero or not, to the
rounded multiple in mode `rm` (R152). -/
def roundUnits (lo : Nat) (cmpHalf : Ordering) (exact : Bool) (rm : Nat) (neg : Bool) : Nat :=
  if exact then lo
  else match rm with
    | 0 => match cmpHalf with
      | .lt => lo
      | .gt => lo + 1
      | .eq => if lo % 2 = 0 then lo else lo + 1
    | 1 => lo
    | 2 => if neg then lo else lo + 1
    | _ => if neg then lo + 1 else lo

/-- A magnitude m × 2^e (plus a sticky rest) in units of 2^q, rounded. -/
def roundTo (m : Nat) (e : Int) (sticky : Bool) (q : Int) (rm : Nat) (neg : Bool) : Nat :=
  if q ≤ e then roundUnits (m * 2 ^ (e - q).toNat) .lt (!sticky) rm neg
  else
    let sh := (q - e).toNat
    let rest := m % 2 ^ sh
    let half := 2 ^ (sh - 1)
    let c : Ordering := if rest < half then .lt else if rest = half ∧ !sticky then .eq else .gt
    roundUnits (m / 2 ^ sh) c (rest == 0 && !sticky) rm neg

/-- round_fp of R153. -/
def roundFp (f : Fmt) (rm : Nat) (sat : Bool) (x : FVal) : Nat :=
  match x with
  | .nan => f.nan
  | .inf neg => f.sign neg + (if sat then f.maxBits else if f.hasInf then f.infBits else f.nan)
  | .fin neg m e sticky =>
    if m = 0 ∧ !sticky then f.sign neg
    else
      let q := max ((Nat.log2 m : Int) + e) f.emin - f.mw
      let y := roundTo m e sticky q rm neg
      let ex := q + f.bias + f.mw
      let bits := (ex.toNat - 1) * 2 ^ f.mw + y
      if bits > f.maxBits then
        f.sign neg + (if sat then f.maxBits
          else if !f.hasInf then f.nan
          else if rm = 1 ∨ (rm = 2 ∧ neg) ∨ (rm = 3 ∧ !neg) then f.maxBits else f.infBits)
      else f.sign neg + bits

/-! ### Arithmetic (R241, Table 78) -/

def FVal.isZero : FVal → Bool
  | .fin _ m _ s => m == 0 && !s
  | _ => false
def FVal.neg? : FVal → Bool
  | .nan => false
  | .inf n => n
  | .fin n _ _ _ => n
/-- An exact signed multiple of 2^e as a value; `zneg` signs a zero. -/
def ofSigned (s : Int) (e : Int) (zneg : Bool) : FVal := if s = 0 then .fin zneg 0 0 false else .fin (decide (s < 0)) s.natAbs e false
/-- m × 2^e as a multiple of 2^e0, with its sign, for e0 at most e. -/
def alignTo (neg : Bool) (m : Nat) (e e0 : Int) : Int := (if neg then -1 else 1) * (m * 2 ^ (e - e0).toNat : Int)

/-- a + b, with the sign of a zero sum by R152. -/
def FVal.add (rm : Nat) : FVal → FVal → FVal
  | .nan, _ | _, .nan => .nan
  | .inf a, .inf b => if a = b then .inf a else .nan
  | .inf a, .fin .. => .inf a
  | .fin .., .inf b => .inf b
  | .fin n1 m1 e1 _, .fin n2 m2 e2 _ =>
    let e := min e1 e2
    let zneg := if m1 = 0 ∧ m2 = 0 ∧ n1 = n2 then n1 else decide (rm = 3)
    ofSigned (alignTo n1 m1 e1 e + alignTo n2 m2 e2 e) e zneg
/-- a × b. -/
def FVal.mul : FVal → FVal → FVal
  | .nan, _ | _, .nan => .nan
  | .inf a, .inf b => .inf (xor a b)
  | .inf a, .fin b m _ _ => if m = 0 then .nan else .inf (xor a b)
  | .fin a m _ _, .inf b => if m = 0 then .nan else .inf (xor a b)
  | .fin a m1 e1 _, .fin b m2 e2 _ => .fin (xor a b) (m1 * m2) (e1 + e2) false
def FVal.negate : FVal → FVal
  | .nan => .nan
  | .inf a => .inf (!a)
  | .fin a m e s => .fin (!a) m e s
/-- a ÷ b, to 80 bits of quotient and a sticky rest. -/
def FVal.div : FVal → FVal → FVal
  | .nan, _ | _, .nan => .nan
  | .inf _, .inf _ => .nan
  | .inf a, .fin b _ _ _ => .inf (xor a b)
  | .fin a _ _ _, .inf b => .fin (xor a b) 0 0 false
  | .fin a m1 e1 _, .fin b m2 e2 _ =>
    if m2 = 0 then (if m1 = 0 then .nan else .inf (xor a b))
    else
      let k := 80 + Nat.log2 m2
      .fin (xor a b) (m1 * 2 ^ k / m2) (e1 - e2 - k) (decide (m1 * 2 ^ k % m2 ≠ 0))
/-- √a, to at least 80 bits and a sticky rest. -/
def FVal.sqrt : FVal → FVal
  | .nan => .nan
  | .inf neg => if neg then .nan else .inf false
  | .fin neg m e _ =>
    if m = 0 then .fin neg 0 0 false
    else if neg then .nan
    else
      let odd := e % 2 ≠ 0
      let n := (if odd then 2 * m else m) * 2 ^ 160
      let r := Nat.sqrt n
      .fin false r ((if odd then e - 1 else e) / 2 - 80) (decide (r * r ≠ n))

/-- The sign modifiers on an encoding (Table 75): .ABS, then .NEG. -/
def signMods (f : Fmt) (neg abs : Bool) (x : Nat) : Nat :=
  let y := if abs then x % 2 ^ (f.width - 1) else x
  if neg then (if bitOf y (f.width - 1) then y - 2 ^ (f.width - 1) else y + 2 ^ (f.width - 1)) else y

/-- A rounded sum, product and fused product-sum of encodings of one format. -/
def addF (f : Fmt) (rm : Nat) (sat : Bool) (a b : Nat) : Nat := roundFp f rm sat ((unpack f a).add rm (unpack f b))
def subF (f : Fmt) (rm : Nat) (sat : Bool) (a b : Nat) : Nat := roundFp f rm sat ((unpack f a).add rm (unpack f b).negate)
def mulF (f : Fmt) (rm : Nat) (sat : Bool) (a b : Nat) : Nat := roundFp f rm sat ((unpack f a).mul (unpack f b))
def divF (f : Fmt) (rm : Nat) (sat : Bool) (a b : Nat) : Nat := roundFp f rm sat ((unpack f a).div (unpack f b))
def fmaF (f : Fmt) (rm : Nat) (sat : Bool) (a b c : Nat) : Nat := roundFp f rm sat (((unpack f a).mul (unpack f b)).add rm (unpack f c))

/-- Order key of an encoding that is no NaN, with -0 below +0 (R242). -/
def orderKey (f : Fmt) (x : Nat) : Int := if bitOf x (f.width - 1) then -(x % 2 ^ (f.width - 1) : Int) - 1 else x
def isNan (f : Fmt) (x : Nat) : Bool := unpack f x == .nan
/-- FMIN and FMAX (R242). -/
def minF (f : Fmt) (a b : Nat) : Nat :=
  if isNan f a then (if isNan f b then f.nan else b) else if isNan f b then a else if orderKey f b < orderKey f a then b else a
def maxF (f : Fmt) (a b : Nat) : Nat :=
  if isNan f a then (if isNan f b then f.nan else b) else if isNan f b then a else if orderKey f b > orderKey f a then b else a
/-- The binary32 conditions of Table 64; -0 equals +0, and a NaN meets .NE and .UN only (R243). -/
def condFloat (code a b : Nat) : Bool :=
  let un := isNan fF32 a || isNan fF32 b
  let k (x : Nat) : Int := if x % 2 ^ 31 = 0 then 0 else orderKey fF32 x
  match code with
  | 0 => !un && k a == k b
  | 1 => un || k a != k b
  | 2 => !un && decide (k a < k b)
  | 3 => !un && decide (k a ≤ k b)
  | 4 => !un && decide (k a > k b)
  | 5 => !un && decide (k a ≥ k b)
  | 6 => un
  | _ => !un

/-- round_int of R154 on a finite magnitude with its sign. -/
def roundInt (neg : Bool) (m : Nat) (e : Int) (rm : Nat) : Int :=
  let y := roundTo m e false 0 rm neg
  if neg then -(y : Int) else y

/-! ### Conversions (R155, R156, R246 to R249) -/

/-- A format code of Table 82: an integer format (width, signed) or a float format. -/
inductive NumFmt where
  | int (n : Nat) (signed : Bool)
  | flt (f : Fmt)
deriving DecidableEq, Repr, Inhabited

def numFmt (code : Nat) : NumFmt :=
  match code with
  | 0 => .int 4 true
  | 1 => .int 4 false
  | 2 => .int 8 true
  | 3 => .int 8 false
  | 4 => .int 16 true
  | 5 => .int 32 true
  | 6 => .flt fE4M3
  | 7 => .flt fE5M2
  | 8 => .flt fF16
  | 9 => .flt fBF16
  | 10 => .flt fF32
  | _ => .flt fF64
def NumFmt.width : NumFmt → Nat
  | .int n _ => n
  | .flt f => f.width

/-- An exact integer as the bits of an integer format: clamped, or wrapped (R155, R156). -/
def toIntFmt (n : Nat) (signed wrap : Bool) (x : Int) : Nat :=
  if wrap then wrapU x n else wrapU (if signed then satS x n else satU x n) n

/-- The value of an integer encoding. -/
def ofIntFmt (n : Nat) (signed : Bool) (x : Nat) : Int := if signed then signedOf x n else ((x % 2 ^ n : Nat) : Int)

/-- One conversion (Table 42): `ns` is the .NS qualifier. -/
def convert (src dst : NumFmt) (rm : Nat) (ns : Bool) (x : Nat) : Nat :=
  let narrow := dst.width ≤ 8
  match src, dst with
  | .int n s, .int k t => if src = dst then x % 2 ^ n else toIntFmt k t (ns && narrow) (ofIntFmt n s x)
  | .int n s, .flt f => roundFp f rm (narrow && !ns) (ofSigned (ofIntFmt n s x) 0 false)
  | .flt f, .int k t =>
    match unpack f (x % 2 ^ f.width) with
    | .nan => 0
    | .inf neg => toIntFmt k t false (if neg then -(2 ^ 64) else 2 ^ 64)
    | .fin neg m e _ => toIntFmt k t (ns && narrow) (roundInt neg m e rm)
  | .flt f, .flt g =>
    if src = dst then (if isNan f (x % 2 ^ f.width) then f.nan else x % 2 ^ f.width)
    else roundFp g rm (narrow && !ns) (unpack f (x % 2 ^ f.width))

/-- An element of a packed register as UNPK writes it: an integer extended, a float as its exact binary32 value (R249). -/
def unpackElem (code i a : Nat) : Nat :=
  let f := numFmt code
  let e := a / 2 ^ (i * f.width) % 2 ^ f.width
  match f with
  | .int n s => wrapU (ofIntFmt n s e) 32
  | .flt g => roundFp fF32 0 false (unpack g e)

/-! ### Dot products (R161, R162) -/

/-- Element i of width w of a register. -/
def elem (x w i : Nat) : Nat := x / 2 ^ (w * i) % 2 ^ w

/-- The exact integer dot product of `n` elements (R161, R251). -/
def intDot (w n : Nat) (sa sb : Bool) (a b : Nat) : Int :=
  ((List.range n).map fun i => ofIntFmt w sa (elem a w i) * ofIntFmt w sb (elem b w i)).sum

/-- Exact products are held over 2^300, which holds every product of 16-bit and 8-bit formats. -/
def exactScale : Nat := 300
def FVal.exact : FVal → Int
  | .fin neg m e _ => alignTo neg m e (-exactScale)
  | _ => 0

/-- The exponent of a nonzero exact number over 2^300: floor(log2 |x|). -/
def exactLog (m : Nat) : Int := (Nat.log2 m : Int) - exactScale

/-- Is binary32 encoding `r` a finite value within the bound of R162 of the exact sum? -/
def dotBound (r : Nat) (total : Int) (mag : Nat) : Bool :=
  match unpack fF32 r with
  | .fin neg m e _ =>
    if mag = 0 then m == 0
    else
      let bexp := max (exactLog mag - 24) (-150)
      let err := (alignTo neg m e (-exactScale) - total).natAbs
      decide (err ≤ 2 ^ (bexp + exactScale).toNat)
  | _ => false

/-- One step of a floating-point dot product (R162): products as values, binary32 addend `c`. Within the bound the encoding is the free
value `choice`; outside it the correctly rounded sum stands in, which always meets the bound. -/
def dotStep (choice : Word → List Int → Nat) (products : List FVal) (c : Nat) : Nat :=
  let cv := unpack fF32 c
  let terms := cv :: products
  let hasInf (neg : Bool) : Bool := terms.any fun t => t == .inf neg
  if terms.any (· == .nan) || (hasInf true && hasInf false) then fF32.nan
  else if hasInf true then fF32.sign true + fF32.infBits
  else if hasInf false then fF32.infBits
  else
    let ps := products.map FVal.exact
    let total := cv.exact + ps.sum
    let mag := (cv.exact :: ps).foldl (fun n x => n + x.natAbs) 0
    let rne := roundFp fF32 0 false (ofSigned total (-exactScale) false)
    if rne % 2 ^ 31 = fF32.infBits then rne
    else
      let r := choice (BitVec.ofNat 32 c) ps
      if dotBound r total mag then r else rne

/-- The products of packed elements of two formats. -/
def elemProducts (fa fb : Fmt) (n a b : Nat) : List FVal :=
  (List.range n).map fun i => (unpack fa (elem a fa.width i)).mul (unpack fb (elem b fb.width i))

end Sys2Proof.Machine
end

