-- ==== Sys2Proof/Machine/Apply.lean ====
section
/-! DEFINITION. Machine/Apply.lean: applying one access at its place (04 R78; 12 R269 to R276): reads and writes of each space with poison
(22 R399) and full/empty bits (03 R65), and the atomic operations of Table 94. -/

namespace Sys2Proof.Machine

/-- The bytes at a place, and whether they are poisoned. Fabric places are reached through the IOD. -/
def State.readPlace (s : State) (p : Place) (w : Nat) : Nat × Bool :=
  match p with
  | .spad c o => (s.mem.readSpad c o w, s.mem.spadBad c o w)
  | .dram pa => (s.mem.readDram pa w, s.mem.dramBad pa w)
  | .host a => if s.port.up then (s.mem.readHost a w, false) else (Config.freeValue s.free % 2 ^ (8 * w), true)
  | .reg a => s.readWindow a w
  | .fabric _ _ _ => (0, false)

/-- Writes bytes at a place; `full` sets the granules of a scratchpad place full (R65). -/
def State.writePlace (s : State) (p : Place) (w x : Nat) (poison full : Bool) : State :=
  match p with
  | .spad c o =>
    let m := s.mem.writeSpad c o w x poison
    { s with mem := if full then m.setFull c o w true else m }
  | .dram pa => { s with mem := s.mem.writeDram pa w x poison }
  | .host a => { s with mem := s.mem.writeHost a w x }
  | .reg a => s.writeWindow a w x poison
  | .fabric _ _ _ => s

/-- op(old, v) of Table 94 on `w` bytes. -/
def atomOp (op w old v : Nat) : Nat :=
  let n := 8 * w
  let f := if w = 8 then fF64 else fF32
  match op with
  | 0 => (old + v) % 2 ^ n
  | 1 => if signedOf old n ≤ signedOf v n then old else v
  | 2 => if signedOf old n ≥ signedOf v n then old else v
  | 3 => min old v
  | 4 => max old v
  | 5 => Nat.land old v
  | 6 => Nat.lor old v
  | 7 => Nat.xor old v
  | 8 => addF f 0 false old v
  | 9 => minF f old v
  | 10 => maxF f old v
  | _ => v

/-- What an access leaves at its place, given what stands there; none when it writes nothing. -/
def FKind.newValue (k : FKind) (w old data cmp : Nat) : Option Nat :=
  match k with
  | .store | .stfe => some data
  | .atom op | .red op => some (atomOp op w old data)
  | .cas => if old = cmp then some data else none
  | _ => none

/-- What a load delivers: the bytes, extended to 32 bits for a sub-word width (Table 90). -/
def loadValue (signExt : Bool) (w old : Nat) : Nat := if signExt then wrapU (signedOf old (8 * w)) 32 else old

/-- The allocation of the matrix stream that a request belongs to, if it has one: start and size. -/
def State.copyAlloc (s : State) (r : CopyReq) : Nat × Nat :=
  match r.bundle with
  | some (b, sub) => match (s.part r.part).bundles.find? fun x => x.id = b with
    | some x => match x.streams.find? fun m => m.sub = sub with
      | some m => (m.base, m.size)
      | none => (0, 0)
    | none => (0, 0)
  | none => (0, 0)

/-- The scratchpad environment of a request: its team's; for a bundle the domain's window, and the allocation of its matrix stream. -/
def State.copyEnv (s : State) (r : CopyReq) : SpadEnv :=
  match r.bundle, s.team? r.stream with
  | none, some t => s.spadEnv t r.domain none
  | _, _ =>
    let d := (s.part r.part).domain r.domain
    let (b, n) := s.copyAlloc r
    { core := r.core, base := b, size := n, window := none, members := [], clusterSize := 0, winBase := domWinBase d, winSize := domWinSize d }

/-- The key of the barrier object that a request counts on. -/
def State.barAt (s : State) (r : CopyReq) : Option Nat :=
  r.bar.bind fun a => match spadPlace (s.copyEnv r) a 32 with
    | .ok (c, b, off) => some (spadKey c (b + off))
    | .error _ => none

/-- Does the arrival of a BARA of stamp `serial`, of a unit, wait for an access (R91, R99)? -/
def Flight.beforeArrival (f : Flight) (u : UnitRef) (serial : Nat) : Bool :=
  decide (f.serial < serial) && ((f.who == u && !f.remote) || (f.who.group.stream == u.group.stream && f.chan.isSome))

/-- Do the segments of a copy request wait for an access (R100)? -/
def Flight.beforeCopy (f : Flight) (r : CopyReq) : Bool :=
  f.who == r.who && f.copy.isNone && !f.remote && decide (f.serial < r.serial)

/-- Is an update of the barrier object at a place on its way that does not wait for the access: a BARA that is parked for its arrival, or a copy
request that counts there (R72)? -/
def State.barUpdatePending (s : State) (f : Flight) (core off : Nat) : Bool :=
  (s.allGroups.any fun g => g.units.any fun u => match u.st with
    | .parked p => p.why == .bara && p.aux == spadKey core off && !f.beforeArrival ⟨g.key, u.id⟩ p.serial
    | _ => false) ||
  s.cores.any fun c => c.2.copies.any fun r => s.barAt r == some (spadKey core off) && !f.beforeCopy r

/-- What an ordinary store leaves of a barrier object whose updates it races with: every field a free value (R72). -/
def State.raceBar (s : State) (f : Flight) : State :=
  match f.place with
  | .spad c o =>
    let off := o / 32 * 32
    if (f.kind == .store || f.kind == .stfe) && (f.races || s.barUpdatePending f c off) then
      let (v, t) := s.drawFree 129
      { t with mem := t.mem.writeBar c off (setField (t.mem.readSpad c off 32) 128 0 v) }
    else s
  | _ => s

/-- Marks the stores in flight to a barrier object: it has been updated before them (R72). -/
def State.markRaces (s : State) (core off : Nat) : State :=
  let hit (f : Flight) : Bool := (f.kind == .store || f.kind == .stfe) && !f.performed && sharesGranule f.place f.width (.spad core off) 32
  { s with flights := s.flights.map fun f => if hit f then { f with races := true } else f }

/-- Notes whose store a scratchpad write was: a plain store of a unit, or one that sets granules full (R65, R101, R321). -/
def State.noteStore (s : State) (f : Flight) (full : Bool) : State :=
  match f.place with
  | .spad c o =>
    if !f.kind.writes || f.copy.isSome then s
    else
      let k := spadKey c o
      { s with mem := { s.mem with log := if full then s.mem.log.noteFull k f.width f.who else s.mem.log.notePlain k f.width f.who } }
  | _ => s

/-- Performs an access at its place in one step, and records what it returns. A read-modify-write of poisoned bytes leaves them poisoned.
A write arriving from another core, and STFE, set granules full. An ordinary store that races with updates of a barrier object leaves its fields
free (R72). -/
def State.applyAccess (s : State) (f : Flight) : State × Flight :=
  let (old, bad) := s.readPlace f.place f.width
  let full := f.kind.writes && (f.remote || f.kind == .stfe)
  let keepsBad := match f.kind with
    | .atom _ | .red _ | .cas => bad
    | _ => false
  let s1 := match f.kind.newValue f.width old f.data f.cmp with
    | some x => s.writePlace f.place f.width x (f.poison || keepsBad) full
    | none => if full then s.writePlace f.place f.width old bad full else s
  ((s1.noteStore f full).raceBar f, { f with performed := true, result := loadValue f.signExt f.width old, rpoison := bad })

end Sys2Proof.Machine
end

