-- ==== Sys2Proof/Machine/Operands.lean ====
section
/-! DEFINITION. Machine/Operands.lean: the operand forms of the lane set (09 R184 to R188; 11 R230 to R234): direct, indexed and
cross-lane sources, third sources, and the shape that every lane instruction has. -/

namespace Sys2Proof.Machine

/-- The third source register: c in the long format, d in the short one (Table 54). -/
def third (x : Args) : Nat := if x.long then x.c.toNat else x.d.toNat

/-- Index register of an indexed operand (Table 57). -/
def indexReg (x : Args) : Nat := field x.c.toNat 2 0

/-- Register that an indexed operand names: xk + o, exact (R233). -/
def State.indexed (s : State) (x : Args) (o : Nat) : Nat := s.xr (indexReg x) + o

/-- Lane number of a cross-lane source (R234). -/
def State.crossLane (s : State) (x : Args) : Nat :=
  if bitOf x.c.toNat 7 then field x.c.toNat 6 0 else s.sr (field x.c.toNat 6 0)

/-- Source A of lane `l` as delivered (Table 57). -/
def State.srcA (s : State) (x : Args) (l : Nat) : PWord :=
  match x.xmode with
  | 1 => s.vreg l (s.indexed x x.a.toNat)
  | 3 => s.laneRead (s.crossLane x) x.a.toNat
  | _ => s.vreg l x.a.toNat

/-- Source B of lane `l` as delivered. -/
def State.srcB (s : State) (x : Args) (l : Nat) : PWord :=
  match x.xmode with
  | 2 => s.vreg l (s.indexed x x.b.toNat)
  | _ => s.vreg l x.b.toNat

/-- Source C of lane `l`. -/
def State.srcC (s : State) (x : Args) (l : Nat) : PWord := s.vreg l (third x)

def State.a (s : State) (x : Args) (l : Nat) : Nat := (s.srcA x l).val.toNat
def State.b (s : State) (x : Args) (l : Nat) : Nat := (s.srcB x l).val.toNat
def State.c (s : State) (x : Args) (l : Nat) : Nat := (s.srcC x l).val.toNat

/-- INDEX_BOUND of an indexed operand (R233). -/
def State.indexCheck (s : State) (n : Nat) : Option Code :=
  need (n < s.budget) cIndexBound (min n 0xFFFFFFFF + (s.budget - 1) * 2 ^ 32)

/-- INDEX_BOUND of whichever operand is indexed. -/
def State.xmodeCheck (s : State) (x : Args) : Option Code :=
  match x.xmode with
  | 1 => s.indexCheck (s.indexed x x.a.toNat)
  | 2 => s.indexCheck (s.indexed x x.b.toNat)
  | _ => none

/-- Registers that source A names: itself, the indexed one, or the named lane's. -/
def State.regsA (s : State) (x : Args) : List Nat := if x.xmode = 1 then [s.indexed x x.a.toNat] else [x.a.toNat]
def State.regsB (s : State) (x : Args) : List Nat := if x.xmode = 2 then [s.indexed x x.b.toNat] else [x.b.toNat]

/-- Registers named directly by the fields d, a and b, which must meet the budget (R231). -/
def directDAB (x : Args) : List Nat :=
  [x.d.toNat] ++ (if x.xmode = 1 then [] else [x.a.toNat]) ++ (if x.xmode = 2 then [] else [x.b.toNat])
def directDA (x : Args) : List Nat := [x.d.toNat] ++ (if x.xmode = 1 then [] else [x.a.toNat])

/-- POISON of source A or B as delivered to the executing lanes (R384). -/
def State.poisonA (s : State) (x : Args) (lanes : List Nat) : Option Code :=
  firstCode [
    if lanes.any fun l => (s.srcA x l).poison then some ⟨cPoison, (if x.xmode = 1 then s.indexed x x.a.toNat else x.a.toNat) * 2 ^ 8⟩ else none,
    if x.xmode = 3 ∧ !bitOf x.c.toNat 7 ∧ lanes ≠ [] then s.poisonS [field x.c.toNat 6 0] else none]
def State.poisonB (s : State) (x : Args) (lanes : List Nat) : Option Code :=
  if lanes.any fun l => (s.srcB x l).poison then some ⟨cPoison, (if x.xmode = 2 then s.indexed x x.b.toNat else x.b.toNat) * 2 ^ 8⟩ else none

/-- Distinct v-registers outside the resident region: 4 cycles each before every pass (R227). -/
def State.outside (s : State) (regs : List Nat) : Nat :=
  (regs.dedup.filter fun r => match s.cur.region with
    | some g => !(g.resident && g.regs.contains (s.grp.budget - s.budget + r))
    | none => true).length

/-- The shape of a lane instruction: it stalls on registers in flight, faults by the first of its checks, or takes its effect in its
executing lanes and completes after its passes (R230). `named` are the registers it names directly, `used` those it reads or writes. -/
def laneRun (s : State) (x : Args) (interval : Nat) (named used : List Nat) (faults : List (Option Code)) (effect : State) : Out :=
  outcome s (s.waitsV used) (firstCode (s.budgetCheck named :: faults))
    (effect.advance x.bytes (passes s.cur.mask * (interval + 4 * s.outside used)))

/-- The executing lanes of an instruction. -/
def State.lanesFor (s : State) (x : Args) : List Nat := s.execLanes x.gp x.gn

/-- Writes v_d of every lane of a list; the values are those of the state before (R230: reads before writes). -/
def State.writeLanes (s : State) (lanes : List Nat) (d : Nat) (val : Nat → Nat) : State :=
  lanes.foldl (fun t l => t.setVw l d (val l)) s

/-- Writes a v-pair of every lane. -/
def State.writePairs (s : State) (lanes : List Nat) (d : Nat) (val : Nat → Nat) : State :=
  lanes.foldl (fun t l => (t.setVw l d (val l % 2 ^ 32)).setVw l (d + 1) (val l / 2 ^ 32)) s

/-- Writes a lane predicate of every lane. -/
def State.writePreds (s : State) (lanes : List Nat) (n : Nat) (val : Nat → Bool) : State :=
  lanes.foldl (fun t l => t.setP l n (val l)) s

/-- v_d := f(A) per executing lane. -/
def lane1 (s : State) (x : Args) (f : Nat → Nat) : Out :=
  let ls := s.lanesFor x
  laneRun s x 1 (directDA x) ([x.d.toNat] ++ s.regsA x) [s.xmodeCheck x, s.poisonA x ls]
    (s.writeLanes ls x.d.toNat fun l => f (s.a x l))

/-- v_d := f(A, B) per executing lane. -/
def lane2 (s : State) (x : Args) (f : Nat → Nat → Nat) : Out :=
  let ls := s.lanesFor x
  laneRun s x 1 (directDAB x) ([x.d.toNat] ++ s.regsA x ++ s.regsB x) [s.xmodeCheck x, s.poisonA x ls, s.poisonB x ls]
    (s.writeLanes ls x.d.toNat fun l => f (s.a x l) (s.b x l))

/-- v_d := f(A, B, C) per executing lane, with the third source of R231. -/
def lane3 (s : State) (x : Args) (f : Nat → Nat → Nat → Nat) : Out :=
  let ls := s.lanesFor x
  let regs := [x.d.toNat, x.a.toNat, x.b.toNat, third x]
  laneRun s x 1 regs regs [s.poisonV ls [x.a.toNat, x.b.toNat, third x]]
    (s.writeLanes ls x.d.toNat fun l => f (s.a x l) (s.b x l) (s.c x l))

/-- p_d := f(A, B) per executing lane. -/
def laneCmp (s : State) (x : Args) (f : Nat → Nat → Bool) : Out :=
  let ls := s.lanesFor x
  let named := (if x.xmode = 1 then [] else [x.a.toNat]) ++ (if x.xmode = 2 then [] else [x.b.toNat])
  laneRun s x 1 named (s.regsA x ++ s.regsB x) [s.xmodeCheck x, s.poisonA x ls, s.poisonB x ls]
    (s.writePreds ls x.d.toNat fun l => f (s.a x l) (s.b x l))

end Sys2Proof.Machine
end

