-- ==== Sys2Proof/Machine/Return.lean ====
section
/-! DEFINITION. Machine/Return.lean: what a unit sees when the data of an access comes back: registers, reply slot, flag and acquire (04 R88, R92;
12 R265, R268). -/

namespace Sys2Proof.Machine

/-- Has every access of an instruction returned its data? -/
def State.allReturned (s : State) (g : GKey) (serial : Nat) : Bool :=
  !(s.flights.any fun f => f.who.group = g && f.serial = serial && f.kind.returns && !f.returned)

/-- An acquire drops the core's device and host lines when its scope is team or wider (R92). -/
def State.acquired (s : State) (scope : Nat) : State := if scope ≥ 1 then s.l1DropAll s.grp.core else s

/-- Data reaches a register of the main file by its key, or the region that covers it (R227, R265). -/
def Group.land (g : Group) (key : Nat) (x : PWord) : Group :=
  let old := sget {} g.r.v key
  let one (r : Region) : Region := if r.lanes.toNat.testBit (key / 256) then r.write key (key % 256) old else r
  { g with r := { g.r with v := sset {} g.r.v key x, vw := g.r.vw.note key }, units := g.units.map fun u => { u with region := u.region.map one } }

/-- Data of `n` registers from `d` on reaches a lane of a group. -/
def State.landBlock (s : State) (k : GKey) (l d n x : Nat) (poison : Bool) : State :=
  s.modGroup k fun g => (List.range n).foldl (fun g i => g.land (l * 256 + d + i) ⟨BitVec.ofNat 32 (x / 2 ^ (32 * i)), poison⟩) g

/-- A reply slot returns with the last data of its request; from the next cycle on it can be taken again (R88, R353). -/
def State.slotReturns (s : State) (f : Flight) : State :=
  match f.request, f.slot, f.chan with
  | some r, some i, some c =>
    if (s.flights.any fun g => decide (g.request = some r) && !g.returned) then s
    else s.modTeam f.who.group.stream fun t => { t with slotFrom := sset 0 t.slotFrom (c * 2 ^ 10 + i) (s.cycle + 1) }
  | _, _, _ => s

/-- The acquire of a unit has returned: the L1 drop, and the unit goes on (R92). -/
def State.acquireDone (s : State) (u : UnitRef) (serial scope : Nat) : State :=
  match s.select u with
  | none => s
  | some t =>
    match t.parkedOn .acquire with
    | some p =>
      if p.serial = serial ∧ t.allReturned u.group serial then (t.acquired scope).wake p.instr.size else s
    | none => s

/-- Can the data of an access be delivered: is its team where it issued it, and not being saved (R105)? -/
def State.here (s : State) (f : Flight) : Bool :=
  match s.team? f.who.group.stream with
  | some t => t.st == .admitted || t.st == .retiring
  | none => true

/-- The data of an access that has been performed reaches its registers; its slot returns, its flag completes, its acquire ends (R88, R92, R265). -/
def State.dataReturns (s : State) (f : Flight) : State :=
  let t := match f.dst with
    | some d => s.landBlock f.who.group f.lane d f.nregs f.result f.rpoison
    | none => s
  let t1 := (t.modFlight f.id fun x => { x with returned := true, done := if x.chan.isNone then 3 else x.done }).slotReturns f
  let t2 := match f.flag with
    | some n => t1.settleFlag f.who.group f.serial n
    | none => t1
  let t3 := match f.acq with
    | some scope => t2.acquireDone f.who f.serial scope
    | none => t2
  t3.sweep

end Sys2Proof.Machine
end

