-- ==== Sys2Proof/Machine/Peers.lean ====
section
/-! DEFINITION. Machine/Peers.lean: peer devices and their loss (14 R343 to R348; 22 R401, R402; 23 R412). -/

namespace Sys2Proof.Machine

def State.peer (s : State) (d : Nat) : Peer := sget {} s.iod.peers d
def State.modPeer (s : State) (d : Nat) (f : Peer → Peer) : State := { s with iod := { s.iod with peers := sset {} s.iod.peers d (f (s.peer d)) } }

/-- Fields of a peer table entry (Table 120). -/
def peValid (e : BitVec 128) : Bool := bitOf e.toNat 127
def peEncl (e : BitVec 128) : Bool := bitOf e.toNat 126
def peGmac (e : BitVec 128) (vc : Nat) : Bool := bitOf e.toNat 126 && decide (vc ≤ 35) && bitOf e.toNat (88 + vc)
def peSeg (e : BitVec 128) (seg : Nat) : Bool := bitOf e.toNat seg

/-- Is a key held with a device? -/
def State.keyed (s : State) (d : Nat) : Bool := decide ((s.peer d).epoch ≠ 0)

/-- Is another device lost: declared so, or, with no key held, beyond any handshake (R412)? -/
def State.isLost (s : State) (d : Nat) : Bool :=
  decide (d ≠ s.plat.device) && ((s.peer d).lost || (!s.keyed d && !peValid (s.peer d).entry))

/-- The device of a fabric place that is lost (R401). -/
def State.lostDev (s : State) (p : Place) : Bool :=
  match p with
  | .fabric d _ _ => s.isLost d
  | _ => false

/-- Does an access go to a device? -/
def Flight.toDev (d : Nat) (f : Flight) : Bool :=
  match f.place with
  | .fabric e _ _ => d == e
  | _ => false

/-- Does a key lead to a device? -/
def keyToDev (d : Nat) (k : ChanKey) : Bool := k.die / 5 == d

/-- The uncertain bits that the loss of a device sets for a team (R401): channels with unacknowledged packets to it, and those of stores still held. -/
def State.lossBits (s : State) (d : Nat) (t : Team) : List Nat :=
  let entries := (s.cores.flatMap fun c => c.2.chans) ++ (match t.image with
    | some im => im.chans
    | none => [])
  ((entries.filter fun e => keyToDev d e.key && e.key.stream == t.stream && decide (e.unacked ≠ 0)).map fun e => e.key.chan) ++
  (s.flights.filter fun f => f.toDev d && f.who.group.stream == t.stream && f.seq.isNone && f.kind.writes).filterMap fun f => f.chan

/-- A team after the loss of a device: the uncertain bits set, the entries in its save area dropped. -/
def State.teamAfterLoss (s : State) (d : Nat) (t : Team) : Team :=
  { t with uncertain := (s.lossBits d t).foldl (fun u c => setBit u c true) t.uncertain,
           image := t.image.map fun im => { im with chans := im.chans.filter fun e => !keyToDev d e.key } }

/-- Completes an access with its destination words poisoned: what stands under the poison is a free value (R399, R407). -/
def State.poisonFlight (s : State) (id : Nat) : State :=
  let (v, t) := s.drawFree 128
  t.modFlight id fun f => { f with performed := true, result := v % 2 ^ (8 * f.width), rpoison := true }

/-- The loss of a device (R401), in one step: entries are dropped and uncertain bits set, loads complete poisoned, with their slots and flags, stores
are over, the device's packets and keys go. What a team that is saved has asked for waits for its restore, as all its data does (R105). -/
def State.declareLost (s : State) (d : Nat) : State :=
  let hit := s.flights.filter fun f => f.toDev d && !f.performed
  let cores := s.cores.map fun (c : Nat × Core) => (c.1, { c.2 with chans := c.2.chans.filter fun e => !keyToDev d e.key })
  let s1 := { s with team := s.teamAfterLoss d s.team, teams := s.teams.map (s.teamAfterLoss d), cores := cores }
  let s2 := s1.modPeer d fun p => { p with lost := true, epoch := 0, prevValid := false, kx := .idle, kxEarly := [], kxPart := [], kxIn := [] }
  let s3 := { s2 with iod := { s2.iod with out := s2.iod.out.filter fun o => decide (o.dest ≠ d), acks := s2.iod.acks.filter fun a => !keyToDev d a.1,
                                           inbox := s2.iod.inbox.filter fun m => decide (m.1 ≠ d) } }
  let s4 := (hit.filter fun f => f.kind.returns).foldl (fun (t : State) f => t.poisonFlight f.id) s3
  let gone (f : Flight) : Flight := if f.toDev d then { f with performed := true, done := 3 } else f
  let s5 := ({ s4 with flights := s4.flights.map gone }.settleAll hit).sweep
  (s5.flights.filter fun f => f.toDev d && f.kind.returns && !f.returned && s5.here f).foldl (fun (t : State) f => t.dataReturns f) s5

/-- The loss that an access to a device with no key and no handshake declares at its issue (R412). -/
def State.noteLoss (s : State) (p : Place) : State :=
  match p with
  | .fabric d _ _ => if (s.peer d).lost then s else s.declareLost d
  | _ => s

end Sys2Proof.Machine
end

