-- ==== Sys2Proof/Machine/LaneMem.lean ====
section
/-! DEFINITION. Machine/LaneMem.lean: the MEM family (12 R258 to R279; 22 R393 to R395): addresses, checks, issue lane by lane, parking and
resumption. -/

namespace Sys2Proof.Machine

/-! ### Members (Tables 88 and 90) -/

/-- A MEM member as issued: sub-opcode, access width, order (1 acquire, 2 release, 3 both), kind, registers of the data block and of the
destination, and whether a sub-word load extends the sign. -/
structure MemOp where
  sub : Nat
  w : Nat
  order : Nat
  kind : FKind
  block : Nat
  nret : Nat
  signExt : Bool := false
deriving DecidableEq, Repr, Inhabited

def widthBytes (code : Nat) : Nat :=
  match code with
  | 0 | 1 => 1
  | 2 | 3 => 2
  | 4 => 4
  | 5 => 8
  | _ => 16

def memOp : Instr → Option (MemOp × Args)
  | .ld x => some (⟨0, widthBytes x.width, x.order32, .load, widthRegs x.width, widthRegs x.width, x.width == 1 || x.width == 3⟩, x)
  | .st x => some (⟨1, widthBytes x.width, x.order32, .store, widthRegs x.width, 0, false⟩, x)
  | .ldfe x => some (⟨2, widthBytes x.width, 0, if bitOf x.q.toNat 0 then .ldfeClr else .ldfeKeep, widthRegs x.width, widthRegs x.width,
                      x.width == 1 || x.width == 3⟩, x)
  | .stfe x => some (⟨3, widthBytes x.width, x.order32, .stfe, widthRegs x.width, 0, false⟩, x)
  | .ldr x => some (⟨4, widthBytes x.width, 0, .load, widthRegs x.width, widthRegs x.width, x.width == 1 || x.width == 3⟩, x)
  | .atom x => some (⟨5, 4 * atomRegs x, x.order54, .atom (field x.q.toNat 3 0), atomRegs x, atomRegs x, false⟩, x)
  | .cas x => some (⟨6, widthBytes x.width, x.order32, .cas, 2 * widthRegs x.width, widthRegs x.width, false⟩, x)
  | .red x => some (⟨7, 4 * atomRegs x, x.order54, .red (field x.q.toNat 3 0), atomRegs x, 0, false⟩, x)
  | _ => none

def MemOp.acquires (o : MemOp) : Bool := o.order == 1 || o.order == 3
def MemOp.releases (o : MemOp) : Bool := o.order == 2 || o.order == 3
/-- Members that name a channel for their off-core accesses (R267). -/
def MemOp.channel (o : MemOp) : Bool := o.sub != 0 && o.sub != 2
/-- Cycles per pass (R265). -/
def MemOp.interval (o : MemOp) : Nat := if o.w = 16 ∨ (o.sub = 6 ∧ o.w = 8) then 2 else 1

/-- Table 93, by destination column: 0 scratchpad, 1 device, 2 register, 3 fabric, 4 host. -/
def memberAllowed (o : MemOp) (col : Nat) : Bool :=
  match col with
  | 0 => true
  | 1 => o.sub != 2 && o.sub != 3
  | 2 => o.sub == 0 || o.sub == 1 || o.sub == 4
  | 3 => o.sub != 0 && o.sub != 2 && o.sub != 3
  | _ => match o.kind with
    | .atom op => op == 0 || op == 11
    | .cas => o.w != 16
    | .red op => op == 0
    | _ => o.sub != 2 && o.sub != 3

/-! ### Addresses (R264) -/

/-- What a lane's coordinates give: out of extent under oob = 1, out of extent under oob = 0, or the exact sum base + offset. -/
inductive LaneAddr where
  | oob
  | outside (c dim : Nat)
  | at_ (a : Int)
deriving DecidableEq, Repr, Inhabited

/-- The sources of an instruction: what a lane's register held when it issued (R264). -/
abbrev LaneRead := Nat → Nat → PWord

/-- The address of a lane whose coordinates stand in registers from `first` on. -/
def laneAddrOf (rd : LaneRead) (y : BitVec 512) (first l : Nat) : LaneAddr :=
  match layoutOffset y ((List.range (lyRank y)).map fun i => (rd l (first + i)).val.toNat) with
  | .error (c, i) => if lyOob y then .oob else .outside c i
  | .ok off => .at_ ((lyBase y : Int) + off)

def State.laneAddr (s : State) (y : BitVec 512) (first l : Nat) : LaneAddr := laneAddrOf s.vreg y first l

/-- The sources of a parked instruction. -/
def Parked.read (p : Parked) : LaneRead := fun l r => ((p.src.find? fun e => e.1 = l * 256 + r).map fun e => e.2).getD {}

/-- What the named registers of some lanes held. -/
def capture (rd : LaneRead) (lanes regs : List Nat) : List (Nat × PWord) := lanes.flatMap fun l => regs.map fun r => (l * 256 + r, rd l r)

/-- A destination: nothing (out of extent), a place with its leaf's rights, or a translation that needs a walk. -/
inductive Target where
  | nothing
  | found (p : Place) (writable l1 : Bool)
  | miss
deriving DecidableEq, Repr, Inhabited

def physTarget (p : Phys) : Target := .found p.place p.writable p.l1

/-- Translation of a virtual address at issue (R55, R58): the slot's translation register, then the TLBs. -/
def State.lookup (s : State) (slot : Nat) (base : Nat) (va : Nat) : Except Code Target :=
  let r := sget ({} : XReg) s.grp.xlate slot
  if base ≤ va ∧ va < base + r.limit then
    let a := r.frame + (va - base)
    if r.target = 0 ∧ !backed s.plat.carve a then .error ⟨cUnbacked, a % 2 ^ 41⟩
    else .ok (physTarget { target := r.target, addr := a, writable := r.writable, l1 := r.l1 })
  else match s.tlbHit s.grp.core s.grp.pipe s.team.part s.dom va with
    | some e => match physOf s.plat.carve e.leaf.toNat va e.va with
      | .ok p => .ok (physTarget p)
      | .error c => .error c
    | none => .ok .miss

/-- The leaf that a walk for the core finds: the entry that the IOD caches, else the tables' (R58, R59). -/
def State.coreWalk (s : State) (part domain va : Nat) : Walk :=
  match s.iod.ptes.find? fun e => e.covers part domain va with
  | some e => .leaf e.leaf.toNat e.va e.size
  | none => s.walkIn part domain va

/-- Translation by a walk for the core, as a resumed instruction does it (R59). -/
def State.walked (s : State) (va : Nat) : Except Code Target :=
  match s.coreWalk s.team.part s.dom va with
  | .fail c level => .error ⟨c, xlateDetail va level⟩
  | .leaf e base _ => match physOf s.plat.carve e va base with
    | .ok p => .ok (physTarget p)
    | .error c => .error c

/-- The destination of a lane's address through a well-checked record. -/
def State.resolve (s : State) (y : BitVec 512) (slot w : Nat) (resumed : Bool) : LaneAddr → Except Code Target
  | .oob | .outside _ _ => .ok .nothing
  | .at_ a =>
    let n := a.toNat
    match lySpace y with
    | 0 => match spadPlace s.myEnv n w with
      | .ok (c, b, off) => .ok (.found (.spad c (b + permute y off)) true false)
      | .error r => .error ⟨cScratchBound, n % 2 ^ 32 + r * 2 ^ 32⟩
    | 2 => .ok (.found (.reg n) true false)
    | 3 => .ok (.found (.fabric (lyDest y) (lySegment y) n) true false)
    | _ => if resumed then s.walked n else s.lookup slot (lyBase y) n

/-! ### Checks at issue (R267, R393 to R395) -/

def inRange32 (a : Int) : Bool := decide (0 ≤ a) && decide (a < 2 ^ 32)

/-- Does a lane's access leave the issuing core (R267)? -/
def State.leaves (s : State) (y : BitVec 512) (a : LaneAddr) : Bool :=
  match a with
  | .oob => false
  | .outside _ _ => lySpace y == 1 || lySpace y == 3 || lySpace y == 4
  | .at_ x =>
    match lySpace y with
    | 0 => inRange32 x && (match spadCore s.myEnv x.toNat with
      | some c => c != s.grp.core
      | none => false)
    | 2 => inRange32 x && winCore x.toNat != s.grp.core
    | _ => true

def checkSpace (o : MemOp) (y : BitVec 512) : Option Code :=
  let sp := lySpace y
  let ok := if sp = 1 ∨ sp = 4 then memberAllowed o 1 || memberAllowed o 4 else memberAllowed o sp
  need ok cSpaceDenied (sp + o.sub * 8)

def checkExtent (slot : Nat) : LaneAddr → Option Code
  | .outside c i => some ⟨cOutOfExtent, c + i * 2 ^ 32 + slot * 2 ^ 35⟩
  | _ => none

def checkAligned (w : Nat) : LaneAddr → Option Code
  | .at_ a => need (a % w == 0) cMisaligned (wrapU a 57 + w * 2 ^ 57)
  | _ => none

def checkRange (y : BitVec 512) : LaneAddr → Option Code
  | .at_ a =>
    match lySpace y with
    | 0 | 2 => need (inRange32 a) cAddrRange (wrapU a 57 + 2 ^ 62)
    | 3 => need (decide (0 ≤ a) && decide (a < 2 ^ 40)) cAddrRange (wrapU a 57 + 2 ^ 63)
    | _ => need (decide (0 ≤ a) && decide (a < 2 ^ 57)) cAddrRange (wrapU a 57)
  | _ => none

/-- SCRATCH_BOUND or WINDOW_DOMAIN (Table 159; R68, R136). -/
def State.checkBound (s : State) (y : BitVec 512) (w : Nat) : LaneAddr → Option Code
  | .at_ a =>
    let n := a.toNat
    match lySpace y with
    | 0 => match spadPlace s.myEnv n w with
      | .ok _ => none
      | .error r => some ⟨cScratchBound, n % 2 ^ 32 + r * 2 ^ 32⟩
    | 2 => match s.groupAt (winCore n) (winSlot n) with
      | some g =>
        let part := match s.team? g.key.stream with
          | some t => t.part
          | none => s.team.part
        need (g.sys.domain == s.grp.sys.domain && part == s.team.part) cWindowDomain n
      | none => none
    | _ => none
  | _ => none

/-- The team in whose allocation a lane's scratchpad address names a place (R62). -/
def State.viaOf (s : State) (y : BitVec 512) : LaneAddr → Option Nat
  | .at_ a => if lySpace y = 0 then spadVia s.myEnv a.toNat else none
  | _ => none

/-- The virtual address of a lane in device or host space. -/
def vaOf (y : BitVec 512) : LaneAddr → Option Nat
  | .at_ a => if lySpace y = 1 ∨ lySpace y = 4 then some a.toNat else none
  | _ => none

/-- Does a lane need a reply slot (R273, R277)? -/
def State.needsSlot (s : State) (o : MemOp) (y : BitVec 512) (a : LaneAddr) : Bool :=
  match a with
  | .at_ _ => (o.sub == 4 && s.leaves y a) || ((o.sub == 5 || o.sub == 6) && lySpace y == 3)
  | _ => false

def slotsOf (t : Team) (c : Nat) : Nat := sget 0 t.reserved c

/-- The checks that need the leaf: a target that Table 93 denies, then NOT_WRITABLE (R395, R435). -/
def checkLeaf (o : MemOp) (a : LaneAddr) : Target → Option Code
  | .found (.host _) wr _ => firstCode [need (memberAllowed o 4) cSpaceDenied (4 + o.sub * 8), checkWrite o a wr]
  | .found (.dram _) wr _ => checkWrite o a wr
  | _ => none
where
  checkWrite (o : MemOp) (a : LaneAddr) (wr : Bool) : Option Code :=
    match a with
    | .at_ x => if o.kind.writes then need wr cNotWritable (wrapU x 57) else none
    | _ => none

/-- The first lane that meets a code (R394). -/
def firstLane (lanes : List Nat) (f : Nat → Option Code) : Option Code := lanes.findSome? f

def errorOf {α : Type} : Except Code α → Option Code
  | .error c => some c
  | .ok _ => none

/-- All checks of R394 on a set of lanes, in its order. -/
def State.memChecks (s : State) (o : MemOp) (x : Args) (y : BitVec 512) (lanes : List Nat) (resumed : Bool) : Option Code :=
  let addr (l : Nat) : LaneAddr := s.laneAddr y x.a.toNat l
  let res (l : Nat) : Except Code Target := s.resolve y x.slot o.w resumed (addr l)
  firstCode [
    if o.channel && !s.chanAllowed x.chan && lanes.any fun l => s.leaves y (addr l) then some ⟨cChannelDenied, 2 ^ x.chan⟩ else none,
    if lanes.isEmpty then none else checkSpace o y,
    firstLane lanes fun l => checkExtent x.slot (addr l),
    firstLane lanes fun l => checkAligned o.w (addr l),
    firstLane lanes fun l => checkRange y (addr l),
    firstLane lanes fun l => s.checkBound y o.w (addr l),
    firstLane lanes fun l => need (!(s.needsSlot o y (addr l)) || slotsOf s.team x.chan != 0) cNoReplySlot x.chan,
    firstLane lanes fun l => errorOf (res l),
    firstLane lanes fun l => match res l with
      | .ok t => match t with
        | .found (.host _) _ _ => need (memberAllowed o 4) cSpaceDenied (4 + o.sub * 8)
        | _ => none
      | .error _ => none,
    firstLane lanes fun l => match res l with
      | .ok t => checkLeaf o (addr l) t
      | .error _ => none]

/-! ### Registers of a lane -/

/-- The value of a block of registers, and whether a word of it is poisoned. -/
def blockVal (rd : LaneRead) (l d : Nat) : Nat → Nat
  | 0 => 0
  | n + 1 => (rd l d).val.toNat + 2 ^ 32 * blockVal rd l (d + 1) n
def blockBad (rd : LaneRead) (l d n : Nat) : Bool := (List.range n).any fun i => (rd l (d + i)).poison
/-- Fills a block of registers from the low word up (Table 90). -/
def State.setBlock (s : State) (l d n x : Nat) (poison : Bool) : State :=
  (List.range n).foldl (fun t i => t.setV l (d + i) ⟨BitVec.ofNat 32 (x / 2 ^ (32 * i)), poison⟩) s

/-! ### Issue -/

/-- A MEM instruction at issue or on its resumption: its member, the captured record (R54), its stamp, its sources (R264), and whether it has not
parked before. `arrived` is the stamp of its arrival at the granule that it has waited for. -/
structure MemJob where
  i : Instr
  o : MemOp
  x : Args
  y : BitVec 512
  serial : Nat
  rd : LaneRead
  fresh : Bool
  arrived : Nat := 0

def MemJob.addr (j : MemJob) (l : Nat) : LaneAddr := laneAddrOf j.rd j.y j.x.a.toNat l

/-- The registers that a MEM instruction names. -/
def memRegs (o : MemOp) (x : Args) (y : BitVec 512) : List Nat :=
  ((List.range o.block).map fun i => x.d.toNat + i) ++ (List.range (lyRank y)).map fun i => x.a.toNat + i

/-- The destination of a lane of a MEM instruction. -/
def State.target (s : State) (j : MemJob) (l : Nat) : Except Code Target := s.resolve j.y j.x.slot j.o.w (!j.fresh) (j.addr l)

/-- Where the run of contiguous bytes begins that an access belongs to, among the places of its instruction within one 256-byte block (R84, R338). -/
def runStart (ps : List Nat) (w : Nat) : Nat → Nat → Nat
  | 0, a => a
  | n + 1, a => match ps.find? fun q => decide (q < a) && decide (a ≤ q + w) with
    | some q => runStart ps w n q
    | none => a

/-- The place of a lane, with how many earlier lanes of its instruction reach the same place. A packet carries each byte once, so lanes that write
the same bytes travel in different packets (R78, R338). -/
structure LanePlace where
  lane : Nat
  place : Place
  nth : Nat

/-- The packet of a write: the run of its instruction that it belongs to, among the lanes that reach a place as many times. -/
structure RunKey where
  space : Nat
  container : Nat
  start : Nat
  nth : Nat
deriving DecidableEq, Repr, Inhabited

def runOf (ps : List LanePlace) (w l : Nat) (p : Place) : RunKey :=
  let nth := ((ps.find? fun q => q.lane = l).map fun q => q.nth).getD 0
  let near := (ps.filter fun q => decide (q.nth = nth ∧ q.place.block 256 = p.block 256)).map fun q => q.place.coords.2.2
  { space := p.coords.1, container := p.coords.2.1, start := runStart near w 256 p.coords.2.2, nth := nth }

/-- An LDR request of an instruction (R88): its key and 128-byte block, its number, its slot, and its sequence number unless a JOIN holds it. -/
structure SlotRequest where
  key : ChanKey
  block : Nat × Nat × Nat
  number : Nat
  slot : Nat
  seq : Option Nat

/-- Progress of an instruction's lanes: the state, the lanes left with the first reason, the write packets opened (key, run, sequence number), and
the LDR requests made. -/
structure IssueAcc where
  s : State
  left : List Nat := []
  why : Option ParkWhy := none
  packets : List (ChanKey × RunKey × Nat) := []
  requests : List SlotRequest := []

def IssueAcc.block (a : IssueAcc) (l : Nat) (why : ParkWhy) : IssueAcc :=
  { a with left := a.left ++ [l], why := match a.why with
    | none => some why
    | some w => some w }

/-- The access of one lane, before it has a place in a stream. -/
def State.laneFlight (s : State) (j : MemJob) (l : Nat) (p : Place) (l1 : Bool) : Flight :=
  let o := j.o
  let d := j.x.d.toNat
  let half := if o.sub = 6 then o.block / 2 else 0
  let data := blockVal j.rd l (d + half) (o.block - half)
  { serial := j.serial, pc := s.cur.pc, who := s.unitRef, core := s.grp.core, issuer := s.grp.core, remote := !p.onCore s.grp.core, part := s.team.part, domain := s.dom,
    lane := l, kind := o.kind, place := p, via := s.viaOf j.y (j.addr l), va := vaOf j.y (j.addr l), width := o.w,
    data := if o.kind.writes then data % 2 ^ (8 * o.w) else 0,
    poison := o.kind.writes && blockBad j.rd l d o.block, cmp := if o.sub = 6 then blockVal j.rd l d half else 0,
    signExt := o.signExt, dst := if o.nret = 0 then none else some (s.grp.budget - s.budget + d), nregs := o.nret,
    flag := s.countedFlag j.x.flag, acq := if o.acquires then some j.x.scope else none, l1ok := l1 }

/-- Takes the slot and the request of a lane's access that has none yet. -/
def IssueAcc.noteRequest (acc : IssueAcc) (j : MemJob) (f : Flight) (old : Option SlotRequest) (seq : Option Nat) : IssueAcc :=
  match old, f.key, f.request, f.slot with
  | none, some k, some n, some i =>
    if j.o.sub = 4 then { acc with requests := { key := k, block := f.place.block 128, number := n, slot := i, seq := seq } :: acc.requests } else acc
  | _, _, _, _ => acc

/-- Issues the access of one lane on its channel: held behind a JOIN, in the packet of its run or request, in a packet of its own, or not at all.
`run` is the run of its instruction's bytes that a write belongs to. -/
def IssueAcc.channelLane (acc : IssueAcc) (j : MemJob) (run : RunKey) (f : Flight) : IssueAcc :=
  let s := acc.s
  let o := j.o
  let l := f.lane
  let stream := f.who.group.stream
  let chan := j.x.chan
  let key : ChanKey := ⟨stream, chan, s.dieId f.place⟩
  let slotted := o.sub == 4 || ((o.sub == 5 || o.sub == 6) && (match f.place with
    | .fabric _ _ _ => true
    | _ => false))
  let old := if o.sub = 4 then acc.requests.find? fun r => decide (r.key = key ∧ r.block = f.place.block 128) else none
  let slot : Option Nat := if slotted then (match old with
    | some r => some r.slot
    | none => s.freeSlot s.team chan) else none
  if slotted && slot.isNone then acc.block l .replySlot
  else if slotted && old.isNone && s.requestsFull f.core then acc.block l .requestEntry
  else if !slotted && decide (s.entriesFree f.core = 0) then acc.block l .requestEntry
  else
    let req : Option Nat := if slotted then some ((old.map fun r => r.number).getD (s.serial + 1)) else none
    let f1 := { f with chan := some chan, key := some key, request := req, slot := slot, rtag := slot.map fun i => s.team.rtagAt f.core chan i }
    let put (q : Option Nat) (s1 : State) : IssueAcc :=
      let a := { acc with s := s1.addAccess { f1 with seq := q } }.noteRequest j f1 old q
      match q with
      | some n => { a with packets := (key, run, n) :: a.packets }
      | none => a
    let same := match old with
      | some r => r.seq.isNone
      | none => false
    if s.joinHeld stream chan f.serial || same then put none s
    else if s.queuedKey key f.serial then
      if s.windowFull f.core key (s.queuedPackets key f.serial) then acc.block l .window else put none s
    else
      let reuse : Option Nat := match old with
        | some r => r.seq
        | none => if o.sub = 1 ∨ o.sub = 3 then (acc.packets.find? fun p => decide (p.1 = key ∧ p.2.1 = run)).map fun p => p.2.2 else none
      match reuse with
      | some q => put (some q) s
      | none => match s.takeSeq f.core key with
        | .error why => acc.block l why
        | .ok (q, s1) => put (some q) s1

/-- Notes the bytes of its own core that the unit in issue stores to, for R321. -/
def State.noteWrite (s : State) (k : FKind) (p : Place) (w : Nat) : State :=
  match p with
  | .spad c o =>
    if c = s.grp.core ∧ k.writes then
      { s with cur := { s.cur with wrote := if s.cur.wrote.contains (spadKey c o, w) then s.cur.wrote else (spadKey c o, w) :: s.cur.wrote } }
    else s
  | _ => s

/-- The bytes of a plain load that may hit the L1: its page is cacheable, the line is present, and no earlier access of the group to its granule is
still to be performed (R78, R79). -/
def State.l1Hit (s : State) (o : MemOp) (p : Place) (l1 : Bool) : Option (Nat × Bool) :=
  if o.sub = 0 ∧ !o.acquires ∧ l1 ∧ !s.unperformedAt p o.w then (s.l1Line s.grp.core p).map fun e => e.read p o.w else none

/-- Issues the access of one lane (R266 to R277). A lane that resumes waits for the group's earlier unacknowledged writes of its granule (R78). -/
def IssueAcc.lane (acc : IssueAcc) (j : MemJob) (ps : List LanePlace) (l : Nat) : Target → IssueAcc
  | .miss => acc.block l .walk
  | .nothing => if j.o.nret = 0 then acc else { acc with s := acc.s.setBlock l j.x.d.toNat j.o.nret 0 false }
  | .found p _ l1 =>
    let s := acc.s
    let o := j.o
    let x := j.x
    let f := s.laneFlight j l p l1
    let key : Option ChanKey := if f.remote && o.channel then some ⟨s.team.stream, x.chan, s.dieId p⟩ else none
    if s.heldBySame p o.w j.serial then acc.block l .walk
    else if o.releases && !s.releaseMet s.unitRef x.scope j.serial key then acc.block l .release
    else if s.lostDev p then
      let s0 := s.noteLoss p
      let s1 := if o.kind.writes then { s0 with team := { s0.team with uncertain := setBit s0.team.uncertain x.chan true } } else s0
      if o.kind.returns then
        let (v, s2) := s1.drawFree (8 * o.w)
        { acc with s := s2.addFlight { f with performed := true, done := 3, result := v, rpoison := true } }
      else { acc with s := s1 }
    else if f.remote && o.channel then acc.channelLane j (runOf ps o.w l p) f
    else if s.entriesFree s.grp.core = 0 then acc.block l .requestEntry
    else match s.l1Hit o p l1 with
      | some (v, bad) => { acc with s := s.addFlight { f with performed := true, done := 3, result := loadValue o.signExt o.w v, rpoison := bad } }
      | none => { acc with s := (s.noteWrite f.kind f.place f.width).addAccess f }

/-- Issues a list of lanes; `ps` are the places of all of them. -/
def issueLanes (j : MemJob) (ps : List LanePlace) : List Nat → IssueAcc → IssueAcc
  | [], acc => acc
  | l :: ls, acc =>
    match acc.s.target j l with
    | .ok t => issueLanes j ps ls (acc.lane j ps l t)
    | .error _ => issueLanes j ps ls acc

/-- The places that lanes of an instruction reach. -/
def State.placesOf (s : State) (j : MemJob) (lanes : List Nat) : List LanePlace :=
  lanes.foldl (fun ps l => match s.target j l with
    | .ok (.found p _ _) => ps ++ [⟨l, p, (ps.filter fun q => decide (q.place = p)).length⟩]
    | _ => ps) []

/-- Does another consuming access wait at a granule that arrived before the stamp: a parked LDFE, or a step of a matrix context (R66)? -/
def State.earlierAt (s : State) (gran before : Nat) : Bool :=
  (s.allGroups.any fun g => g.st == .live && g.units.any fun u => match u.st with
    | .parked q => q.why == .ldfe && q.aux == gran && decide (q.arrived < before)
    | _ => false) ||
  s.cores.any fun c => c.2.mctx.any fun m => m.2.queue.any fun e => e.waitsFor.contains gran && decide (e.arrived < before)

/-- Serves the lanes of an LDFE in ascending order until one finds its granule empty, or others that wait there for longer (R271, R66): each takes
its bytes, and with .CLR the full bit, in one step at the bank. The result is the state, the lanes left and the granule that the first of them
waits for. Only the first lane of a resumed LDFE has waited at its granule. -/
def serveLdfe (j : MemJob) : List Nat → Nat → State → State × List Nat × Nat
  | [], _, s => (s, [], 0)
  | l :: ls, arrived, s =>
    match s.target j l with
    | .ok (.found (.spad c p) _ _) =>
      if s.mem.isFull c p && !s.earlierAt (granKey c p) arrived then
        let v := loadValue j.o.signExt j.o.w (s.mem.readSpad c p j.o.w)
        let bad := s.mem.spadBad c p j.o.w
        let s1 := if j.o.kind = .ldfeClr then { s with mem := s.mem.setFull c p j.o.w false } else s
        serveLdfe j ls (s.serial + 1) (s1.setBlock l j.x.d.toNat j.o.nret v bad)
      else (s, l :: ls, granKey c p)
    | _ => serveLdfe j ls arrived (s.setBlock l j.x.d.toNat j.o.nret 0 false)

/-- Cycles that an instruction of `interval` holds its pipe for at its first issue (R25). -/
def State.sweepCost (s : State) (interval : Nat) : Nat := passes s.cur.mask * interval

/-- After some lanes have issued: the unit parks for the rest, or on an acquire, or the instruction is complete. At its first issue it occupies the
pipe for its passes. `gran` is the granule that an LDFE waits for. -/
def State.memFinish (s : State) (j : MemJob) (left : List Nat) (why : ParkWhy) (gran : Nat) : State :=
  let o := j.o
  let x := j.x
  let cost := if j.fresh then s.sweepCost o.interval else 0
  let u := { s with cycle := s.cycle + cost }
  let src := capture j.rd left (memRegs o x j.y)
  let t :=
    if left ≠ [] then
      if why = .ldfe then
        let w := { u with serial := u.serial + 1 }.park why j.i j.serial (maskOfList left) gran j.y src
        w.modParked fun p => { p with arrived := w.serial, via := s.viaOf j.y (j.addr (left.headD 0)) }
      else u.park why j.i j.serial (maskOfList left) 0 j.y src
    else if o.acquires && !s.allReturned s.grp.key j.serial then u.park .acquire j.i j.serial 0 0 j.y
    else
      let v := if o.acquires then u.acquired x.scope else u
      if j.fresh then v.advance x.bytes 0 else v.wake x.bytes
  match s.countedFlag x.flag with
  | some n => t.settleFlag s.grp.key j.serial n
  | none => t

/-- Issues lanes of a MEM instruction. An LDFE holds a request entry while it waits, and waits for one where none is free (R271). -/
def State.memIssue (s : State) (j : MemJob) (lanes : List Nat) : State :=
  if j.o.sub = 2 then
    if j.fresh && decide (s.entriesFree s.grp.core = 0) then s.memFinish j lanes .requestEntry 0
    else
      let (t, left, g) := serveLdfe j lanes (s.serial + 1) s
      t.memFinish j left .ldfe g
  else
    let acc := issueLanes j (s.placesOf j lanes) lanes { s := s }
    acc.s.memFinish j acc.left (acc.why.getD .walk) 0

/-- An LDFE waits for the unit's earlier on-core accesses (R80) and the group's earlier accesses to its granule (R78). -/
def State.ldfeHeld (s : State) (p : Place) : Bool :=
  s.flights.any fun f => !f.performed && ((f.who = s.unitRef && !f.remote) || (f.who.group = s.grp.key && sharesGranule f.place f.width p 16))

/-- Poison that a MEM instruction consumes: coordinates, the data of atomics, and data that would cross the fabric (R384, R399). -/
def State.memPoison (s : State) (o : MemOp) (x : Args) (y : BitVec 512) (lanes : List Nat) : Option Code :=
  let coordRegs := (List.range (lyRank y)).map fun i => x.a.toNat + i
  let dataRegs := (List.range o.block).map fun i => x.d.toNat + i
  let consumes := o.sub == 5 || o.sub == 6 || o.sub == 7 || ((o.sub == 1 || o.sub == 3) && lySpace y == 3)
  s.poisonV lanes ((if consumes then dataRegs else []) ++ coordRegs)

/-- LAYOUT_BAD of an empty slot (R50). -/
def emptySlot (y : BitVec 512) (slot : Nat) : Option Code := need (y != 0) cLayoutBad (slot + 62 * 2 ^ 5 + 4 * 2 ^ 11)

/-- The meaning of LD, ST, LDFE, STFE, LDR, ATOM, CAS and RED at issue. -/
def memRun (i : Instr) (o : MemOp) (x : Args) (s : State) : Out :=
  let y := s.slot x.slot
  let ls := s.lanesFor x
  let regs := memRegs o x y
  let held := ls.any fun l => match s.resolve y x.slot o.w false (s.laneAddr y x.a.toNat l) with
    | .ok (.found p _ _) => s.heldBySame p o.w (s.serial + 1) || (o.sub == 2 && s.ldfeHeld p)
    | _ => false
  let t := { s with cycle := s.cycle + s.sweepCost (4 * s.outside regs) }
  let effect :=
    if ls.isEmpty then t.doneL x o.interval
    else
      let t1 := t.stamp.flagIssue (s.countedFlag x.flag)
      t1.memIssue { i := i, o := o, x := x, y := y, serial := t1.serial, rd := s.vreg, fresh := true } ls
  outcome s (s.waitsV regs || held)
    (firstCode [s.budgetCheck regs, s.memPoison o x y ls, emptySlot y x.slot, s.memChecks o x y ls false]) effect

def execLd (x : Args) (s : State) : Out :=
  memRun (.ld x) ⟨0, widthBytes x.width, x.order32, .load, widthRegs x.width, widthRegs x.width, x.width == 1 || x.width == 3⟩ x s
def execSt (x : Args) (s : State) : Out :=
  memRun (.st x) ⟨1, widthBytes x.width, x.order32, .store, widthRegs x.width, 0, false⟩ x s
def execLdfe (x : Args) (s : State) : Out :=
  memRun (.ldfe x) ⟨2, widthBytes x.width, 0, if bitOf x.q.toNat 0 then .ldfeClr else .ldfeKeep, widthRegs x.width, widthRegs x.width,
    x.width == 1 || x.width == 3⟩ x s
def execStfe (x : Args) (s : State) : Out :=
  memRun (.stfe x) ⟨3, widthBytes x.width, x.order32, .stfe, widthRegs x.width, 0, false⟩ x s
def execLdr (x : Args) (s : State) : Out :=
  memRun (.ldr x) ⟨4, widthBytes x.width, 0, .load, widthRegs x.width, widthRegs x.width, x.width == 1 || x.width == 3⟩ x s
def execAtom (x : Args) (s : State) : Out :=
  memRun (.atom x) ⟨5, 4 * atomRegs x, x.order54, .atom (field x.q.toNat 3 0), atomRegs x, atomRegs x, false⟩ x s
def execCas (x : Args) (s : State) : Out :=
  memRun (.cas x) ⟨6, widthBytes x.width, x.order32, .cas, 2 * widthRegs x.width, widthRegs x.width, false⟩ x s
def execRed (x : Args) (s : State) : Out :=
  memRun (.red x) ⟨7, 4 * atomRegs x, x.order54, .red (field x.q.toNat 3 0), atomRegs x, 0, false⟩ x s

/-! ### Cache hints (R278, R279) -/

/-- The place of a lane of a hint, when it lies in device or host space, in extent, and on a valid pinned leaf. -/
def State.hintPlace (s : State) (x : Args) (l : Nat) : Option (Place × Bool) :=
  let y := s.slot x.slot
  if y = 0 then none
  else match lySpace y, s.laneAddr y x.a.toNat l with
    | 1, .at_ a | 4, .at_ a =>
      if decide (0 ≤ a) && decide (a < 2 ^ 57) then
        match s.walked a.toNat with
        | .ok (.found p _ l1) => some (p, l1)
        | _ => none
      else none
    | _, _ => none

def hintRegs (s : State) (x : Args) : List Nat := (List.range (lyRank (s.slot x.slot))).map fun i => x.a.toNat + i

/-- PREF: .L1 fills the lines of cacheable leaves; the pile's cache holds nothing that a program can see (R70, R278). -/
def execPref (x : Args) (s : State) : Out :=
  let ls := s.lanesFor x
  let regs := hintRegs s x
  let fill (t : State) (l : Nat) : State :=
    match s.hintPlace x l with
    | some (p, true) => t.l1Fill s.grp.core p
    | _ => t
  let eff := if bitOf x.q.toNat 0 then s else ls.foldl fill s
  outcome s (s.waitsV regs) (firstCode [s.budgetCheck regs, s.poisonV ls regs]) (eff.doneL x (1 + 4 * s.outside regs))

/-- INVL drops lines; INVL.ALL every line, when a lane executes (R279). -/
def execInvl (x : Args) (s : State) : Out :=
  let ls := s.lanesFor x
  if bitOf x.q.toNat 0 then .next ((if ls.isEmpty then s else s.l1DropAll s.grp.core).doneL x 1)
  else
    let regs := hintRegs s x
    let drop (t : State) (l : Nat) : State :=
      match s.hintPlace x l with
      | some (p, _) => t.l1Drop s.grp.core p
      | none => t
    outcome s (s.waitsV regs) (firstCode [s.budgetCheck regs, s.poisonV ls regs]) ((ls.foldl drop s).doneL x (1 + 4 * s.outside regs))

end Sys2Proof.Machine
end

