-- ==== Sys2Proof/Machine/MemEvents.lean ====
section
/-! DEFINITION. Machine/MemEvents.lean: the events of memory accesses: resumption after walks, windows, slots, entries and releases (03 R59; 04
R84, R88, R89, R91), performance at the destination (R78), acknowledgement (R84), return of data (12 R265) and JOIN release (R86). -/

namespace Sys2Proof.Machine

/-- An event on a unit parked for a reason: nothing happens unless it is so parked, may go on, and `f` gives a state. -/
def onParked (s : State) (u : UnitRef) (why : ParkWhy) (f : State → Parked → Option State) : Out :=
  match s.select u with
  | none => .next s
  | some t =>
    if t.mayIssue then
      match t.parkedOn why with
      | some p => .next ((f t p).getD s)
      | none => .next s
    else .next s

/-! ### Resumption of a MEM instruction -/

/-- Page-table entries that the IOD's 8 MiB hold (R337). -/
def ptesHeld : Nat := 2 ^ 20

/-- What a walk of an address for the core leaves: its leaf in the pipe's TLB, the core's and the IOD's cache (R58). -/
def State.tlbFill (s : State) (va : Nat) : State :=
  match s.coreWalk s.team.part s.dom va with
  | .leaf e base size =>
    let t : TlbEntry := { part := s.team.part, domain := s.dom, va := base, size := size, leaf := BitVec.ofNat 64 e }
    { s with iod := { s.iod with ptes := tlbPut ptesHeld s.iod.ptes t } }.modCore s.grp.core fun c =>
      { c with tlb := tlbPut 4096 c.tlb t, pipeTlb := sset [] c.pipeTlb s.grp.pipe (tlbPut 64 (sget [] c.pipeTlb s.grp.pipe) t) }
  | .fail _ _ => s

/-- The parked instruction as it goes on. -/
def Parked.job (p : Parked) (o : MemOp) (x : Args) : MemJob :=
  { i := p.instr, o := o, x := x, y := p.rec_, serial := p.serial, rd := p.read, fresh := false, arrived := p.arrived }

/-- The addresses that the unfinished lanes of an instruction translate. -/
def MemJob.vas (j : MemJob) (lanes : List Nat) : List Nat := lanes.filterMap fun l => vaOf j.y (j.addr l)

/-- The translation codes, the denied target and NOT_WRITABLE of the unfinished lanes (R395). -/
def State.walkChecks (s : State) (j : MemJob) (lanes : List Nat) : Option Code :=
  firstCode [
    firstLane lanes fun l => errorOf (s.target j l),
    firstLane lanes fun l => match s.target j l with
      | .ok (.found (.host _) _ _) => need (memberAllowed j.o 4) cSpaceDenied (4 + j.o.sub * 8)
      | _ => none,
    firstLane lanes fun l => match s.target j l with
      | .ok t => checkLeaf j.o (j.addr l) t
      | .error _ => none]

/-- The state as the unit in issue sees its own registers and window, with the frames of the calls that it is in. -/
def State.withFrames (s : State) (fs : List GateFrame) : State := { s with grp := { s.grp with frames := fs } }

/-- A parked LDFE is served at the bank, also while a gate call holds its unit, in the unit's own registers (R145). -/
def State.resumeLdfe (t : State) (p : Parked) (j : MemJob) (lanes : List Nat) : Option State :=
  let (t2, left, g) := serveLdfe j lanes (if p.why = .ldfe then p.arrived else t.serial + 1) (t.withFrames (t.grp.ownFrames t.cur))
  if left = lanes ∧ p.why = .ldfe then none else some ((t2.withFrames t.grp.frames).memFinish j left .ldfe g)

/-- A parked MEM instruction tries its unfinished lanes again; none when nothing can go on. A unit that a gate call holds issues nothing (R38). -/
def State.retry (t : State) (p : Parked) : Option State :=
  match memOp p.instr with
  | none => none
  | some (o, x) =>
    let j := p.job o x
    let lanes := lanesOf p.lanes
    if t.grp.holds t.cur then (if p.why = .ldfe then t.resumeLdfe p j lanes else none)
    else match t.walkChecks j lanes with
    | some c => some (match t.countedFlag x.flag with
      | some n => (t.raise c).settleFlag t.grp.key p.serial n
      | none => t.raise c)
    | none =>
      let t1 := if p.why = .walk then (j.vas lanes).foldl (fun s va => s.tlbFill va) t else t
      if o.sub = 2 then
        if p.why ≠ .ldfe ∧ t1.entriesFree t1.grp.core = 0 then none
        else t1.resumeLdfe p j lanes
      else
        let acc := issueLanes j (t1.placesOf j lanes) lanes { s := t1 }
        if acc.left = lanes ∧ acc.why = some p.why then none else some (acc.s.memFinish j acc.left (acc.why.getD .walk) 0)

/-- TABLE_WALK_COMPLETE (R59). -/
def execTableWalkComplete (u : UnitRef) (s : State) : Out := onParked s u .walk fun t p => t.retry p
/-- WINDOW_RESUME (R84). -/
def execWindowResume (u : UnitRef) (s : State) : Out := onParked s u .window fun t p => t.retry p
/-- REPLY_SLOT_RESUME (R88). -/
def execReplySlotResume (u : UnitRef) (s : State) : Out := onParked s u .replySlot fun t p => t.retry p
/-- CHANNEL_TABLE_RESUME (R89). -/
def execChannelTableResume (u : UnitRef) (s : State) : Out := onParked s u .channelTable fun t p => t.retry p
/-- REQUEST_ENTRY_RESUME (R266). -/
def execRequestEntryResume (u : UnitRef) (s : State) : Out := onParked s u .requestEntry fun t p => t.retry p
/-- RELEASE_ISSUE (R91): the parts whose conditions hold issue. -/
def execReleaseIssue (u : UnitRef) (s : State) : Out := onParked s u .release fun t p => t.retry p

/-- LDFE_WAKE: the granule that the unit waits for is full and its turn has come (R271, R66). -/
def execLdfeWake (u : UnitRef) (s : State) : Out :=
  onParked s u .ldfe fun t p => t.retry p

/-! ### Performance (R78, R80, R83) -/

/-- Is an unperformed access `g` before `f` by R78, R80 or R83? -/
def State.precedes (s : State) (g f : Flight) : Bool :=
  !g.performed && g.id != f.id &&
  ((g.copy.isNone && f.copy.isNone && decide (g.serial < f.serial) &&
      ((g.who.group = f.who.group && sharesGranule g.place g.width f.place f.width) ||
       (g.who = f.who && !g.remote && !f.remote))) ||
   (match f.key, f.seq, g.seq with
    | some k, some q, some r => g.key = some k && decide (g.done = 0 ∨ f.done > 0) && (match chanFind (s.core f.core).chans k with
      | some e => decide (seqDist e r < seqDist e q)
      | none => decide (g.id < f.id))
    | _, _, _ => false))

/-- May an access still go on: it has been issued on a channel, or its team is not saved (R105)? -/
def State.goesOn (s : State) (f : Flight) : Bool :=
  f.seq.isSome || (match s.team? f.who.group.stream with
    | some t => t.st != .saved
    | none => true)

/-- Is a plain load of a restored team still to be translated again (R105)? Nothing is performed under the address that it had before the save. -/
def State.mayReissue (s : State) (f : Flight) : Bool := f.reissue && !f.performed && s.goesOn f

/-- May an access be performed now: issued, nothing before it. Non-posted requests to the host are performed by their completion. A plain load of a
saved team is performed after its restore. -/
def State.mayPerform (s : State) (f : Flight) : Bool :=
  !f.performed && (f.key.isNone || f.seq.isSome) && s.goesOn f &&
  (match f.place with
   | .host _ => !f.kind.nonPosted
   | _ => true) &&
  !(s.flights.any fun g => s.precedes g f)

/-- Has a performed access written its place? -/
def Flight.wrote (f : Flight) : Bool := if f.kind = .cas then f.result == f.cmp else f.kind.writes

/-- What follows the performance of an access on the core's own side: lines of the L1, full acknowledgement of on-core accesses, flags. -/
def State.performed (s : State) (f : Flight) : State :=
  let f1 := if !f.remote || (f.key.isNone && !f.kind.returns) then { f with done := 3 } else f
  let s1 := s.modFlight f.id fun _ => f1
  let s2 := if f.wrote && f.copy.isNone then s1.l1Update f.issuer f.place f.width (f.poison || (f.kind != .store && f.kind != .stfe && f.rpoison))
    else if f.kind = .load ∧ f.l1ok ∧ f.acq.isNone ∧ f.chan.isNone then s1.l1Fill f.core f.place else s1
  let s3 := match f1.flag with
    | some n => if f1.flagMet && f1.copy.isNone then s2.settleFlag f1.who.group f1.serial n else s2
    | none => s2
  s3.sweep

/-- The bytes of a packet: its header, and its payload padded to a multiple of 32 bytes (R338). -/
def packetSize (p : Packet) : Nat := 32 + ceilDiv p.payload.length 32 * 32

/-- Bytes of the request packets that the retransmit buffer of 16 MiB holds (R337). -/
def State.retransmitBytes (s : State) : Nat := ((s.iod.out.filter fun o => decide (o.packet.kind ≤ 4)).map fun o => packetSize o.packet).sum
def retransmitSize : Nat := 16 * 2 ^ 20

/-- The core whose table holds a key: the one that the I/O die's map names for its stream (R343), or any other. -/
def State.keyCore (s : State) (k : ChanKey) : Option Nat :=
  let c := sget 1024 s.iod.streams k.stream
  if (chanFind (s.core c).chans k).isSome then some c else (s.cores.find? fun c => c.2.chans.any fun e => e.key = k).map fun c => c.1

/-- The entry of a key, in a core's table or in a save area. -/
def State.keyEntry (s : State) (k : ChanKey) : Option ChanEntry :=
  match s.keyCore k with
  | some c => chanFind (s.core c).chans k
  | none => match s.team? k.stream with
    | some t => match t.image with
      | some im => chanFind im.chans k
      | none => none
    | none => none

/-- Replaces the entry of a key wherever it stands. -/
def State.setKeyEntry (s : State) (e : ChanEntry) : State :=
  match s.keyCore e.key with
  | some c => s.modCore c fun k => { k with chans := chanPut k.chans e }
  | none => s.modTeam e.key.stream fun t => match t.image with
    | some im => { t with image := some { im with chans := chanPut im.chans e } }
    | none => t

/-- Segment and offset of a fabric place. -/
def Place.segOff : Place → Nat × Nat
  | .fabric _ g o => (g, o)
  | _ => (0, 0)

/-- The accesses that share the packet of an access (R84, R88, R338), in the order of their addresses. -/
def State.packetMates (s : State) (f : Flight) : List Flight :=
  sortBy (fun (g : Flight) => g.place.segOff.2)
    (s.flights.filter fun g => g.key == f.key && g.seq == f.seq && !g.performed && decide (g.done = 0))

/-- The request packet of accesses that travel together (Table 117): a write carries their bytes, a read asks for all that lies between its first
and its last byte. -/
def requestPacket (fs : List Flight) (f : Flight) (rtag : Nat) (sos : Bool) : Packet :=
  let lo := (fs.headD f).place.segOff.2
  let hi := (fs.map fun g => g.place.segOff.2 + g.width).foldl max 0
  let base : Packet := { offset := lo, segment := f.place.segOff.1, stream := f.who.group.stream, chan := f.chan.getD 0, seq := f.seq.getD 0,
                         rtag := rtag, sos := sos }
  let data := bytesOf f.data f.width
  let wcode := if f.width = 16 then 2 else if f.width = 8 then 1 else 0
  match f.kind with
  | .store | .stfe => { base with kind := 0, length := (fs.map fun g => g.width).sum, payload := fs.flatMap fun g => bytesOf g.data g.width }
  | .atom op => { base with kind := 2, op := op, width := wcode, length := f.width, payload := data }
  | .cas => { base with kind := 3, width := wcode, length := 2 * f.width, payload := bytesOf f.cmp f.width ++ data }
  | .red op => { base with kind := 4, op := op, width := wcode, length := f.width, payload := data }
  | _ => { base with kind := 1, length := hi - lo }

/-- The packet in which an access leaves for another device; the first one of a stream is marked (R89). -/
def State.egressPacket (s : State) (f : Flight) : Packet :=
  let fresh := (f.key.bind s.keyEntry).any fun e => e.fresh
  requestPacket (s.packetMates f) f (if f.kind.returns then f.rtag.getD 0 else 0) fresh

/-- Has the retransmit buffer room for the packet of an access? -/
def State.egressRoom (s : State) (f : Flight) : Bool := decide (s.retransmitBytes + packetSize (s.egressPacket f) ≤ retransmitSize)

/-- Acceptance of a packet by the fabric egress: it enters the retransmit buffer (Table 26, R337). -/
def State.acceptEgress (s : State) (f : Flight) (dev : Nat) : State :=
  match f.key with
  | none => s
  | some k =>
    let fs := s.packetMates f
    let out : OutPacket := { dest := dev, vc := f.chan.getD 0, packet := s.egressPacket f, key := some k }
    let mark (g : Flight) : Flight :=
      if (fs.any fun x => decide (x.id = g.id)) then { g with done := 1 } else g
    let s1 := { s with flights := s.flights.map mark }
    let s2 := match s1.keyEntry k with
      | some e => s1.setKeyEntry { e with fresh := false }
      | none => s1
    let s3 := { s2 with iod := { s2.iod with out := s2.iod.out ++ [out] } }
    if f.kind.returns then s3 else s3.settleAll fs

/-- A plain load of a restored team is translated again under its captured address (R105); a code is raised by the unit that holds its lane. -/
def State.reissue (s : State) (f : Flight) : State :=
  match f.va with
  | none => s.modFlight f.id fun g => { g with reissue := false }
  | some va => match s.translate f.part f.domain va with
    | .ok p => s.modFlight f.id fun g => { g with reissue := false, place := p.place, l1ok := p.l1 }
    | .error c =>
      let t := s.modFlight f.id fun g => { g with reissue := false, performed := true, done := 3, returned := true }
      match (t.group? f.who.group).bind fun g => g.units.find? fun u => u.mask.toNat.testBit f.lane with
      | some u => match t.select ⟨f.who.group, u.id⟩ with
        | some w => (w.raiseAt f.pc c).sweep
        | none => t.sweep
      | none => t.sweep

/-- An unperformed read or AtomicOp towards the host that has been issued (R335). -/
def Flight.asksHost (f : Flight) : Bool :=
  match f.place with
  | .host _ => f.kind.nonPosted && !f.performed && (f.key.isNone || f.seq.isSome)
  | _ => false

/-- Does a host write wait for its flush read (Table 26)? -/
def Flight.waitsFlush (f : Flight) : Bool :=
  match f.place with
  | .host _ => !f.kind.nonPosted && f.performed && f.done == 2
  | _ => false

/-- Has an outbound read or AtomicOp gone out: nothing that comes before it is still to be accepted, and one of the 4,096 tags is free for it
(Table 113)? -/
def State.wentOut (s : State) (f : Flight) : Bool :=
  f.asksHost && !f.reissue && s.goesOn f && !(s.flights.any fun g => s.precedes g f) &&
    decide ((s.flights.filter fun g => g.waitsFlush || g.asksHost && decide (g.id < f.id)).length < 4096)

/-- Does the IDE stream of a function pass TLPs: it has no key, or is not Insecure (R415)? -/
def State.linkOpen (s : State) (fn : Nat) : Bool := (sget (0 : BitVec 256) s.port.ideKeys fn) == 0 || !sget false s.port.insecure fn

/-- ACCESS_PERFORMED_AT_DESTINATION (R78): a fabric access is accepted by the egress; any other is applied at its bank, pile or window, or
accepted into host posted order (R335), or discarded there while the link is down or the stream Insecure (R415). A poisoned write towards
the host leaves as a poisoned TLP, and what it leaves there is free. A request that is due for the host while the link is down completes
poisoned. -/
def execAccessPerformed (id : Nat) (s : State) : Out :=
  match s.flight? id with
  | none => .next s
  | some f =>
    if f.reissue then .next (if s.mayReissue f then s.reissue f else s)
    else if !s.port.up ∧ s.wentOut f then .next (s.poisonFlight id)
    else if !s.mayPerform f then .next s
    else
      match f.place with
      | .fabric dev _ _ => if f.done = 0 ∧ s.egressRoom f then .next (s.acceptEgress f dev) else .next s
      | .host _ =>
        if s.port.up && s.linkOpen f.part then
          let (v, s0) := if f.poison then s.drawFree (8 * f.width) else (f.data, s)
          let (s1, f1) := s0.applyAccess { f with data := v }
          .next ({ s1 with port := { s1.port with posted := s1.port.posted ++ [Posted.access id] } }.performed f1)
        else .next (s.performed { f with performed := true })
      | _ =>
        let (s1, f1) := s.applyAccess f
        .next (s1.performed f1)

/-! ### Acknowledgement (R84, R85, R90) -/

/-- Has a packet of a key within the first `n` unacknowledged ones? -/
def inFirst (e : ChanEntry) (n : Nat) (f : Flight) : Bool :=
  f.key = some e.key && (match f.seq with
    | some q => decide (seqDist e q < n)
    | none => false)

/-- Does an acknowledgement that has arrived say nothing against an entry: it is of another key, or covers packets that the entry still holds? A
superseded one is dropped, so that it can never acknowledge a packet that takes its number later (R421). -/
def ChanEntry.ackAhead (e : ChanEntry) (a : ChanKey × Nat) : Bool :=
  decide (a.1 ≠ e.key) || (let n := (a.2 + 65536 - e.ackSeq) % 65536; decide (1 ≤ n ∧ n ≤ e.unacked))

/-- The first `n` unacknowledged packets of a key are acknowledged: accesses to the host are then in posted order, all others are performed at
every scope (Table 26), and the packets leave the retransmit buffer. -/
def State.applyAck (s : State) (e : ChanEntry) (n : Nat) : State :=
  let e1 := { e with ackSeq := (e.ackSeq + n) % 65536, unacked := e.unacked - n }
  let upd (f : Flight) : Flight :=
    if inFirst e n f then
      { f with performed := f.performed || f.place.coords.1 == 3 && !f.kind.returns,
               done := match f.place with
                 | .host _ => if f.kind.nonPosted then 3 else max f.done 2
                 | _ => 3 }
    else f
  let hit := s.flights.filter fun f => inFirst e n f
  let out := s.iod.out.filter fun o => !(o.key = some e.key && decide (seqDist e o.packet.seq < n) && decide (o.packet.kind ≤ 4))
  let s1 := { s with flights := s.flights.map upd, iod := { s.iod with out := out, acks := s.iod.acks.filter fun a => e1.ackAhead a } }
  ((s1.setKeyEntry e1).settleAll hit).sweep

/-- Does a key lead to another device? -/
def State.remoteKey (s : State) (k : ChanKey) : Bool := decide (k.die / 5 ≠ s.plat.device)

/-- ACKNOWLEDGEMENT_RECEIVED: a cumulative acknowledgement that its destination may send reaches the core or the save area (R84, R90). -/
def execAckReceived (key : ChanKey) (ack : Nat) (s : State) : Out :=
  match s.keyEntry key with
  | none => .next s
  | some e =>
    let n := (ack + 65536 - e.ackSeq) % 65536
    let sent := s.remoteKey key && s.iod.acks.contains (key, ack)
    let done := !s.remoteKey key && !(s.flights.any fun f => inFirst e n f && !f.performed)
    if 1 ≤ n ∧ n ≤ e.unacked ∧ (sent || done) then .next (s.applyAck e n) else .next s

/-! ### Return of data (R265, R268) -/

/-- MEM_DATA_RETURN: the data of one lane reaches its registers; its slot returns, its flag completes, its acquire ends (R88, R92, R265). The
data of a team that is saved waits for its restore (R105). -/
def execMemDataReturn (id : Nat) (s : State) : Out :=
  match s.flight? id with
  | none => .next s
  | some f =>
    if f.kind.returns && f.performed && !f.returned && f.copy.isNone && s.here f then
      .next (s.dataReturns f)
    else .next s

/-! ### JOIN (R86) -/

/-- JOIN_HELD_RELEASE: the oldest held access of its stream, whose marks are all met, takes its sequence number,
unless its team is saved (R105). -/
def execJoinHeldRelease (id : Nat) (s : State) : Out :=
  match s.flight? id with
  | none => .next s
  | some f =>
    match f.chan, f.key, f.seq with
    | some c, some k, none =>
      let older := s.flights.any fun g => g.key = some k && g.seq.isNone && decide (g.serial < f.serial ∨ (g.serial = f.serial ∧ g.id < id))
      let away := (s.team? k.stream).any fun t => t.st != .admitted && t.st != .retiring
      if older || away || s.joinHeld k.stream c f.serial then .next s
      else match s.takeSeq f.core k with
        | .error _ => .next s
        | .ok (q, t) => .next { t with flights := t.flights.map fun g =>
            if g.id = id ∨ (f.request.isSome ∧ g.request = f.request) then { g with seq := some q } else g }
    | _, _, _ => .next s

end Sys2Proof.Machine
end

