-- ==== Sys2Proof/Machine/Slots.lean ====
section
/-! DEFINITION. Machine/Slots.lean: layout slots (10 R221 to R223; 03 R50, R54, R55), channel configuration (10 R228) and task enqueue (10
R229), with the events that complete them. -/

namespace Sys2Proof.Machine

/-! ### The layout table -/

/-- Derives the translation register of one slot of a group (R55). -/
def State.rederiveSlot (s : State) (part n : Nat) (y : BitVec 512) (g : Group) : Group :=
  { g with xlate := sset {} g.xlate n (s.deriveReg part g.sys.domain y) }

/-- Writes slot `n` of the table that the group in issue names, at one instant for the team; `derive` says whether the translation
registers are derived again (R54, R55, R144). -/
def State.setSlot (s : State) (n : Nat) (y : BitVec 512) (derive : Bool) : State :=
  let part := s.team.part
  if s.inGate then
    let i := s.grp.frames.length - s.gateDepth
    let g := { s.grp with frames := s.grp.frames.modify i fun f => { f with slots := sset 0 f.slots n y } }
    { s with grp := if derive ∧ i = 0 then s.rederiveSlot part n y g else g }
  else
    let upd (g : Group) : Group :=
      if derive ∧ g.key.stream = s.grp.key.stream ∧ g.frames = [] then s.rederiveSlot part n y g else g
    { s with team := { s.team with slots := sset 0 s.team.slots n y }, grp := upd s.grp,
             groups := if s.grp.slot = 16 then s.groups else s.groups.map upd }

/-- LAYOUT_BAD (Table 152): slot, field code and reason. -/
def layoutBad (slot code why : Nat) : Code := ⟨cLayoutBad, slot + code * 2 ^ 5 + why * 2 ^ 11⟩

/-- Bit range and width of a field code of Table 73, and whether the value is sign-extended when read. -/
def slotField (code : Nat) : Nat × Nat × Bool :=
  match code with
  | 0 => (0, 32, false)
  | 1 => (32, 32, false)
  | 2 => (64, 3, false)
  | 3 => (67, 3, false)
  | 4 => (70, 3, false)
  | 5 => (73, 1, false)
  | 6 => (74, 1, false)
  | 7 => (75, 2, false)
  | 8 => (77, 3, false)
  | 9 => (80, 10, false)
  | 10 => (90, 6, false)
  | n =>
    if n ≤ 20 then (128 + 32 * (n - 16), 32, false)
    else if n ≤ 28 then (288 + 40 * (n - 24), 32, false)
    else (288 + 40 * (n - 32) + 32, 8, true)

/-- The record with one field replaced by LSET; codes 24 to 28 write sign_extend(A, 40), codes 32 to 36 write A[7:0] (Table 73). -/
def editSlot (y : BitVec 512) (code a : Nat) : BitVec 512 :=
  let (lo, w, _) := slotField code
  if 24 ≤ code ∧ code ≤ 28 then BitVec.ofNat 512 (setField y.toNat (lo + 39) lo (wrapU (s32 a) 40))
  else BitVec.ofNat 512 (setField y.toNat (lo + w - 1) lo (a % 2 ^ w))

/-- LSET (R222): LAYOUT_BAD of an empty slot, of a value too wide, or of a record that would be malformed; else the field. -/
def execLset (x : Args) (s : State) : Out :=
  let d := x.d.toNat
  let code := x.b.toNat
  let a := s.sr x.a.toNat
  let y := s.slot d
  let z := editSlot y code a
  uniformOp s x
    [s.poisonS [x.a.toNat], emptySlot y d, need (decide (a < 2 ^ (slotField code).2.1 ∨ 32 ≤ code)) cLayoutBad (layoutBad d code 3).detail,
     need (lyWellFormed z) cLayoutBad (layoutBad d code 2).detail]
    fun t => t.setSlot d z (code ≤ 1 || code == 3 || code == 4)

/-- What LQRY reads (Table 73). -/
def State.querySlot (s : State) (n code : Nat) : Nat :=
  let y := s.slot n
  if code = 40 then
    (if lySpace y = 1 ∨ lySpace y = 4 then min (sget ({} : XReg) s.grp.xlate n).limit 0xFFFFFFFF else 0)
  else
    let (lo, w, sign) := slotField code
    let v := field y.toNat (lo + w - 1) lo
    if sign then wrapU (signedOf v 8) 32 else v

/-- LQRY (R222). -/
def execLqry (x : Args) (s : State) : Out :=
  uniformOp s x [emptySlot (s.slot x.a.toNat) x.a.toNat] fun t => t.setSw x.d.toNat (s.querySlot x.a.toNat x.b.toNat)

/-- A uniform instruction that parks: nothing under a false guard, else the first fault of its checks, else `effect`, which says itself
whether the unit parks or goes on (R203). -/
def uniformPark (s : State) (x : Args) (faults : List (Option Code)) (effect : State → State) : Out :=
  if s.guardU x.gp x.gn then outcome s false (firstCode faults) (effect s.stamp) else .next (s.doneU x)

/-- LBIND (R221): the alignment is checked, and the unit parks until the slot is written. `aux` holds the address. -/
def execLbind (x : Args) (s : State) : Out :=
  let a := x.a.toNat
  let va := s.spair a
  uniformPark s x [s.poisonS [a, a + 1], need (va % 64 == 0) cLayoutBad (layoutBad x.d.toNat 63 1).detail]
    fun t => t.park .lbind (.lbind x) t.serial 0 va 0

/-- Is an access of the group in issue at a place held behind its earlier writes (R78)? -/
def State.heldWrite (s : State) (p : Place) (w before : Nat) : Bool :=
  s.flights.any fun f => f.who.group = s.grp.key && f.copy.isNone && f.kind.writes && decide (f.serial < before) &&
    (!f.performed || (f.remote && decide (f.done < 2))) && sharesGranule f.place f.width p w

/-- LBIND_SLOT_WRITE: the record is read; a translation code, POISON, LAYOUT_BAD, or the slot and its translation registers (R221). All 64 bits of
the address are translated, so that one at or above 2^57 is XLATE_MISS of level 0 (the model's choice, log 18). -/
def execLbindSlotWrite (u : UnitRef) (s : State) : Out :=
  onParked s u .lbind fun t p =>
    match p.instr with
    | .lbind x =>
      match t.translate t.team.part t.dom p.aux with
      | .error c => some (t.raise c)
      | .ok ph =>
        if t.heldWrite ph.place 64 p.serial then none
        else if t.mem.physBad ph 64 then some (t.raise ⟨cPoison, 4 + p.aux % 2 ^ 56 * 2 ^ 8⟩)
        else
          let y := BitVec.ofNat 512 (t.mem.readPhys ph 64)
          if lyWellFormed y then some ((t.setSlot x.d.toNat y true).wake x.bytes)
          else some (t.raise (layoutBad x.d.toNat 63 2))
    | _ => none

/-! ### CHCFG (R228) -/

/-- The reply slots that channels other than `d` hold or reserve. -/
def State.slotNeed (s : State) (d : Nat) : Nat :=
  (((List.range 16).filter fun c => c ≠ d).map fun c => max (slotsOf s.team c) (s.inUse s.team.stream c)).sum

/-- May channel `d` have `a` slots now? -/
def State.slotsFit (s : State) (d a : Nat) : Bool := decide (s.slotNeed d + max a (s.inUse s.team.stream d) ≤ s.team.ceiling)

/-- Request entries of a core that no reservation holds and that no outstanding packet names. -/
def State.freeEntries (s : State) (core : Nat) : List Nat :=
  let held := (s.allTeams.filter fun t => decide (t.core = core) && t.st.resident).flatMap fun t => t.entries.flatMap fun e => e.2
  let named := s.flights.filterMap fun f => if f.performed then none else f.rtag
  (List.range 8192).filter fun e => !held.contains e && !named.contains (core * 8192 + e)

/-- The entries of a channel after its reservation becomes `a`: those it has, then the lowest-numbered free ones (R88; which ones the spec does not say,
log 47). -/
def State.chanEntries (s : State) (core : Nat) (own : List Nat) (a : Nat) : List Nat :=
  if a ≤ own.length then own.take a else own ++ (s.freeEntries core).take (a - own.length)

/-- The CHCFG of stamp `serial` takes effect on channel `d` (R228). -/
def State.reserve (s : State) (d a serial : Nat) : State :=
  { s with team := { s.team with
    reserved := sset 0 s.team.reserved d a, cfgSerial := sset 0 s.team.cfgSerial d serial,
    entries := sset [] s.team.entries d (s.chanEntries s.grp.core (sget [] s.team.entries d) a) } }

/-- CHANNEL_DENIED (Table 158) for a set of channels. -/
def State.channelCheck (s : State) (mask : Nat) : Option Code :=
  let bad := Nat.land mask (2 ^ 16 - 1 - domChmask s.myDomain)
  need (bad == 0) cChannelDenied bad

/-- CHCFG_BAD: a reservation above 1,024, or with those of the other channels above the ceiling (R228). -/
def State.chcfgCheck (s : State) (d a : Nat) : Option Code :=
  let others := (((List.range 16).filter fun c => c ≠ d).map fun c => slotsOf s.team c).sum
  need (decide (a ≤ 1024 ∧ a + others ≤ s.team.ceiling)) cChcfgBad (d + a * 2 ^ 32)

/-- CHCFG: GATE_FORBIDDEN, POISON, CHCFG_BAD, CHANNEL_DENIED, else the reservation, now or when it fits. `aux` holds A. -/
def execChcfg (x : Args) (s : State) : Out :=
  let d := x.d.toNat
  let a := s.sr x.a.toNat
  uniformPark s x [s.forbidden (firstWord (.chcfg x)), s.poisonS [x.a.toNat], s.chcfgCheck d a, s.channelCheck (2 ^ d)]
    fun t => if s.slotsFit d a then (t.reserve d a t.serial).doneU x else t.park .chcfg (.chcfg x) t.serial 0 a 0

/-- CHCFG_WAKE: in-use slots have fallen enough; where a later CHCFG of the channel has taken effect, it stands (R228). Where other channels have
reserved so much meanwhile that the reservation is above the ceiling, it is CHCFG_BAD. -/
def execChcfgWake (u : UnitRef) (s : State) : Out :=
  onParked s u .chcfg fun t p =>
    match p.instr with
    | .chcfg x =>
      let d := x.d.toNat
      match t.chcfgCheck d p.aux with
      | some c => some (t.raise c)
      | none =>
      if !t.slotsFit d p.aux then none
      else if p.serial < sget 0 t.team.cfgSerial d then some (t.wake x.bytes)
      else some ((t.reserve d p.aux p.serial).wake x.bytes)
    | _ => none

/-! ### ENQ (R229) -/

/-- Fields of a task queue descriptor (Table 11). -/
def tqRingBase (d : Nat) : Nat := field d 63 0
def tqRing (d : Nat) : Nat := field d 95 64
def tqHead (d : Nat) : Nat := field d 159 128
def tqTail (d : Nat) : Nat := field d 191 160
def tqOvfBase (d : Nat) : Nat := field d 255 192
def tqOvfEntries (d : Nat) : Nat := field d 287 256
def tqOvfCount (d : Nat) : Nat := field d 319 288
def tqOvfHead (d : Nat) : Nat := field d 351 320
def tqInflight (d : Nat) : Nat := field d 383 352
/-- Records in the ring. -/
def tqHeld (d : Nat) : Nat := (tqTail d + 2 ^ 32 - tqHead d) % 2 ^ 32
/-- Is the ring capacity a power of two from 1 to 2^20? -/
def tqOk (d : Nat) : Bool := (List.range 21).any fun i => tqRing d == 2 ^ i

/-- The 16-byte pieces of a range. -/
def piecesOf (va n : Nat) : List Nat := (List.range (n / 16)).map fun i => va + 16 * i

/-- The first code that an access of a range meets; `write` asks for writable pages. -/
def State.rangeCode (s : State) (part domain va n : Nat) (write : Bool) : Option Code :=
  (piecesOf va n).findSome? fun a =>
    match s.translate part domain a with
    | .error c => some c
    | .ok p => need (!write || p.writable) cNotWritable (a % 2 ^ 57)

/-- Reads and writes a range piece by piece; the caller has checked it. -/
def State.readRange (s : State) (part domain va n : Nat) : Nat :=
  (piecesOf va n).foldr (fun a acc => (match s.readVirt part domain a 16 with
    | .ok (x, _) => x
    | .error _ => 0) + 2 ^ 128 * acc) 0
def State.rangeBad (s : State) (part domain va n : Nat) : Bool :=
  (piecesOf va n).any fun a => match s.readVirt part domain a 16 with
    | .ok (_, bad) => bad
    | .error _ => false
def State.writeRange (s : State) (part domain va n x : Nat) : State :=
  (List.range (n / 16)).foldl (fun s i => s.writeVirt part domain (va + 16 * i) 16 (x / 2 ^ (128 * i) % 2 ^ 128)) s

/-- Where a push puts its record, and the descriptor after it; none when both areas are full. -/
def tqPush (d : Nat) : Option (Nat × Nat) :=
  if tqHeld d < tqRing d then
    some (tqRingBase d + 48 * (tqTail d % tqRing d), setField d 191 160 (tqTail d + 1))
  else if tqOvfCount d < tqOvfEntries d then
    some (tqOvfBase d + 48 * ((tqOvfHead d + tqOvfCount d) % tqOvfEntries d), setField d 319 288 (tqOvfCount d + 1))
  else none

/-- ENQ: GATE_FORBIDDEN, POISON, ENQ_FAULT of an unaligned descriptor, else the unit parks with the record that it has built. -/
def execEnq (x : Args) (s : State) : Out :=
  let a := x.a.toNat
  let b := x.b.toNat
  let va := s.spair a
  let record := s.spair b + ((List.range 8).map fun i => s.sr (b + 2 + i) * 2 ^ (64 + 32 * i)).sum
  uniformPark s x
    [s.forbidden (firstWord (.enq x)), s.poisonS ([a, a + 1] ++ (List.range 10).map fun i => b + i),
     need (va % 64 == 0) cEnqFault 1]
    fun t => t.park .enq (.enq x) t.serial 0 va (BitVec.ofNat 512 record)

/-- POISON of a word in memory that Table 152 gives no detail form: its detail is a free value (log 4). -/
def State.raisePoisonFree (s : State) : State :=
  let (d, t) := s.drawFree 64
  t.raise ⟨cPoison, d⟩

/-- ENQ_ATOMIC_STEP: after the release wait, one step on the descriptor writes the record and sets the predicate. The checks go in the order of Table 153
(R380): the pages' translation, POISON, ENQ_FAULT, and then the writable bits and the record's place. All 64 bits of the address are translated, so
that one at or above 2^57 is XLATE_MISS of level 0 (the model's choice, log 18). -/
def execEnqAtomicStep (u : UnitRef) (s : State) : Out :=
  onParked s u .enq fun t p =>
    match p.instr with
    | .enq x =>
      let part := t.team.part
      let dom := t.dom
      if !(t.localDone t.unitRef p.serial && t.channelsDone t.grp.key 3 p.serial) then none
      else match t.rangeCode part dom p.aux 64 false with
        | some c => some (t.raise c)
        | none =>
          if t.rangeBad part dom p.aux 64 then some t.raisePoisonFree
          else
            let d := t.readRange part dom p.aux 64
            if !tqOk d then some (t.raise ⟨cEnqFault, 2⟩)
            else match t.rangeCode part dom p.aux 64 true, tqPush d with
              | some c, _ => some (t.raise c)
              | none, none => some ((t.setQ x.d.toNat false).wake x.bytes)
              | none, some (at_, d1) =>
                match t.rangeCode part dom at_ 48 true with
                | some c => some (t.raise c)
                | none =>
                  let t1 := (t.writeRange part dom at_ 48 p.rec_.toNat).writeRange part dom p.aux 64 d1
                  some ((t1.setQ x.d.toNat true).wake x.bytes)
    | _ => none

end Sys2Proof.Machine
end

