-- ==== Sys2Proof/Machine/Uniform.lean ====
section
/-! DEFINITION. Machine/Uniform.lean: uniform arithmetic, predicates and system values (10 R203, R204, R216 to R220) and index registers
(R224). -/

namespace Sys2Proof.Machine

/-- s_d := f(A). -/
def uni1 (s : State) (x : Args) (f : Nat → Nat) : Out :=
  uniformOp s x [s.poisonS [x.a.toNat]] fun t => t.setSw x.d.toNat (f (s.sr x.a.toNat))

/-- s_d := f(A, B). -/
def uni2 (s : State) (x : Args) (f : Nat → Nat → Nat) : Out :=
  uniformOp s x [s.poisonS [x.a.toNat, x.b.toNat]] fun t => t.setSw x.d.toNat (f (s.sr x.a.toNat) (s.sr x.b.toNat))

/-- Third source of the uniform set: c in the long format, d in the short one (Table 54). -/
def thirdU (x : Args) : Nat := if x.long then x.c.toNat else x.d.toNat

/-- s_d := f(A, B, C). -/
def uni3 (s : State) (x : Args) (f : Nat → Nat → Nat → Nat) : Out :=
  uniformOp s x [s.poisonS [x.a.toNat, x.b.toNat, thirdU x]] fun t =>
    t.setSw x.d.toNat (f (s.sr x.a.toNat) (s.sr x.b.toNat) (s.sr (thirdU x)))

/-- Pair d := f(A64, B64). -/
def uni64 (s : State) (x : Args) (f : Nat → Nat → Nat) : Out :=
  let a := x.a.toNat
  let b := x.b.toNat
  uniformOp s x [s.poisonS [a, a + 1, b, b + 1]] fun t => t.setSpair x.d.toNat (f (s.spair a) (s.spair b))

/-- The immediate of class I as a signed number (R185, R217). -/
def uImm (x : Args) : Int := signedOf x.imm (if x.long then 16 else 11)

/-- Table 70. -/
def execSadd (x : Args) (s : State) : Out := uni2 s x fun a b => intResult x.sat (a + b) (s32 a + s32 b) 32
def execSsub (x : Args) (s : State) : Out := uni2 s x fun a b => intResult x.sat ((a : Int) - b) (s32 a - s32 b) 32
def execSmul (x : Args) (s : State) : Out := uni2 s x fun a b => a * b % 2 ^ 32
def execSmulh (x : Args) (s : State) : Out := uni2 s x mulh32
def execSmad (x : Args) (s : State) : Out := uni3 s x fun a b c => (a * b + c) % 2 ^ 32

/-- SDIV: truncating, with the edge results of Table 70. -/
def sdiv32 (a b : Nat) : Nat :=
  if b = 0 then 0xFFFFFFFF else if a = 0x80000000 ∧ b = 0xFFFFFFFF then 0x80000000 else wrapU ((s32 a).tdiv (s32 b)) 32
/-- SREM: the remainder of that division. -/
def srem32 (a b : Nat) : Nat :=
  if b = 0 then a else if a = 0x80000000 ∧ b = 0xFFFFFFFF then 0 else wrapU (s32 a - s32 b * (s32 a).tdiv (s32 b)) 32
def execSdiv (x : Args) (s : State) : Out := uni2 s x sdiv32
def execSrem (x : Args) (s : State) : Out := uni2 s x srem32
def execSand (x : Args) (s : State) : Out := uni2 s x Nat.land
def execSor (x : Args) (s : State) : Out := uni2 s x Nat.lor
def execSxor (x : Args) (s : State) : Out := uni2 s x Nat.xor
def execSshl (x : Args) (s : State) : Out := uni2 s x shl32
def execSshr (x : Args) (s : State) : Out := uni2 s x shr32
def execSsra (x : Args) (s : State) : Out := uni2 s x sra32
def execSrot (x : Args) (s : State) : Out := uni2 s x rot32
def execSmin (x : Args) (s : State) : Out := uni2 s x smin32
def execSmax (x : Args) (s : State) : Out := uni2 s x smax32
def execSbfe (x : Args) (s : State) : Out := uni2 s x bfe32
def execSbfi (x : Args) (s : State) : Out := uni3 s x bfi32
def execSnot (x : Args) (s : State) : Out := uni1 s x fun a => 2 ^ 32 - 1 - a
def execSclz (x : Args) (s : State) : Out := uni1 s x clz32
def execSpop (x : Args) (s : State) : Out := uni1 s x fun a => popCount a 32

/-- SMOV copies A and keeps its poison (R384). -/
def execSmov (x : Args) (s : State) : Out := uniformOp s x [] fun t => t.setS x.d.toNat (s.sreg x.a.toNat)

/-- SADDI (R217). -/
def execSaddi (x : Args) (s : State) : Out := uni1 s x fun a => intResult x.sat (a + uImm x) (s32 a + uImm x) 32
/-- SMOVI (R217). -/
def execSmovi (x : Args) (s : State) : Out := uniformOp s x [] fun t => t.setSw x.d.toNat (wrapU (uImm x) 32)
/-- SMOVH: the high half of s_d; it reads s_d (R217). -/
def execSmovh (x : Args) (s : State) : Out :=
  uniformOp s x [s.poisonS [x.d.toNat]] fun t => t.setSw x.d.toNat (x.imm * 2 ^ 16 + s.sr x.d.toNat % 2 ^ 16)

/-- Table 71. -/
def execSadd64 (x : Args) (s : State) : Out := uni64 s x fun a b => intResult x.sat (a + b) (signedOf a 64 + signedOf b 64) 64
def execSsub64 (x : Args) (s : State) : Out := uni64 s x fun a b => intResult x.sat ((a : Int) - b) (signedOf a 64 - signedOf b 64) 64
def execSmul64 (x : Args) (s : State) : Out := uni64 s x fun a b => a * b % 2 ^ 64

/-- SSHL64: left for n ≥ 0, right with zero fill for n < 0. -/
def shift64 (a : Nat) (n : Int) : Nat :=
  if n ≥ 64 ∨ n ≤ -64 then 0 else if n ≥ 0 then a * 2 ^ n.toNat % 2 ^ 64 else a / 2 ^ (-n).toNat
def execSshl64 (x : Args) (s : State) : Out :=
  let a := x.a.toNat
  uniformOp s x [s.poisonS [a, a + 1, x.b.toNat]] fun t => t.setSpair x.d.toNat (shift64 (s.spair a) (s32 (s.sr x.b.toNat)))

/-- SCMP (R219). -/
def execScmp (x : Args) (s : State) : Out :=
  uniformOp s x [s.poisonS [x.a.toNat, x.b.toNat]] fun t =>
    t.setQ x.d.toNat (condInt (field x.sub.toNat 2 0) (s.sr x.a.toNat) (s.sr x.b.toNat))

/-- QOP (R219). -/
def execQop (x : Args) (s : State) : Out :=
  uniformOp s x [] fun t => t.setQ x.d.toNat (condPred (field x.sub.toNat 2 0) (s.q x.a.toNat) (s.q x.b.toNat))

/-- SSEL (R219): A when q_k is 1, else B. -/
def execSsel (x : Args) (s : State) : Out :=
  uniformOp s x [s.poisonS [x.a.toNat, x.b.toNat]] fun t =>
    t.setSw x.d.toNat (if s.q (field x.c.toNat 3 0) then s.sr x.a.toNat else s.sr x.b.toNat)

/-- The device tick counter (R97). -/
def State.tick (s : State) : Nat := s.cycle / 512

/-- A system value (Table 72). -/
def State.sysValue (s : State) (n : Nat) : Nat :=
  let t := s.team
  let g := s.grp
  match n with
  | 0 => t.x
  | 1 => t.y
  | 2 => t.z
  | 3 => t.gridX
  | 4 => t.gridY
  | 5 => t.gridZ
  | 6 => t.rank
  | 7 => g.key.gid
  | 8 => g.role
  | 9 => g.rank
  | 10 => t.ngroups
  | 11 => g.lanes
  | 12 => g.core
  | 13 => s.budget
  | 14 => g.sys.domain
  | 15 => s.plat.device
  | 16 => t.part
  | 17 => g.sys.gateStatus.toNat
  | 18 => s.gateDepth
  | 19 => g.sys.trapCause.toNat
  | 20 => field g.sys.trapPc.toNat 31 0
  | 21 => field g.sys.trapPc.toNat 63 32
  | 22 => if s.inGate then 0 else field g.sys.trapVec.toNat 31 0
  | 23 => if s.inGate then 0 else field g.sys.trapVec.toNat 63 32
  | 24 => field s.cycle 31 0
  | 25 => field s.cycle 63 32
  | 26 => field s.tick 31 0
  | 27 => g.r.fbits.toNat
  | 28 => s.cur.id
  | 29 => summary s.cur.mask
  | 30 => t.clusterSize
  | _ => if g.task then 1 else 0

/-- SRDS (R220). -/
def execSrds (x : Args) (s : State) : Out := uniformOp s x [] fun t => t.setSw x.d.toNat (s.sysValue x.imm)

/-- SWRS: $gate.status, or half of $trap.vec outside gate calls (R220). -/
def State.writeSys (s : State) (n a : Nat) : State :=
  let y := s.grp.sys
  if n = 17 then { s with grp := { s.grp with sys := { y with gateStatus := BitVec.ofNat 32 a } } }
  else if s.inGate then s
  else if n = 22 then { s with grp := { s.grp with sys := { y with trapVec := BitVec.ofNat 64 (setField y.trapVec.toNat 31 0 a) } } }
  else { s with grp := { s.grp with sys := { y with trapVec := BitVec.ofNat 64 (setField y.trapVec.toNat 63 32 a) } } }
def execSwrs (x : Args) (s : State) : Out := uniformOp s x [s.poisonS [x.a.toNat]] fun t => t.writeSys x.imm (s.sr x.a.toNat)

/-- XSET (R224). -/
def execXset (x : Args) (s : State) : Out :=
  uniformOp s x [s.poisonS [x.a.toNat]] fun t => t.setX x.d.toNat (s.sreg x.a.toNat).val

end Sys2Proof.Machine
end

