-- ==== Sys2Proof/Machine/Sync.lean ====
section
/-! DEFINITION. Machine/Sync.lean: JOIN, DRAIN, FENCE and CHSTAT (12 R285 to R289; 04 R86, R87, R93, R97; 22 R402), the tick (R97), and barrier
objects (03 R71, R72; 12 R290 to R293). -/

namespace Sys2Proof.Machine

/-! ### JOIN -/

/-- Records the marks of a JOIN; JOINs whose marks are met are forgotten. -/
def State.addJoin (s : State) (ch mask serial : Nat) : State :=
  let keep := s.team.joins.filter fun j => !s.joinMet s.team.stream j
  { s with team := { s.team with joins := keep ++ [{ chan := ch, mask := BitVec.ofNat 16 mask, serial := serial }] } }

/-- The stamp of the oldest pending JOIN of a channel. -/
def State.oldestJoin (s : State) (stream chan : Nat) : Nat := ((s.pendingJoins stream chan).map fun j => j.serial).head?.getD 0

/-- JOIN with mask `m` (R86, R286): an empty mask does nothing, a fifth pending JOIN parks. -/
def joinRun (i : Instr) (x : Args) (m : Nat) (faults : List (Option Code)) (s : State) : Out :=
  let d := x.d.toNat
  uniformPark s x (faults ++ [s.channelCheck (Nat.lor m (2 ^ d))]) fun t =>
    if m = 0 then t.doneU x
    else if (s.pendingJoins s.team.stream d).length ≥ 4 then
      t.park .joinPending i t.serial 0 m (BitVec.ofNat 512 (s.oldestJoin s.team.stream d))
    else (t.addJoin d m t.serial).doneU x

/-- JOIN chd, sa (R286). -/
def execJoin (x : Args) (s : State) : Out := joinRun (.join x) x (s.sr x.a.toNat % 2 ^ 16) [s.poisonS [x.a.toNat]] s
/-- JOIN with its mask in the second word (R286). -/
def execJoinImmediateMask (x : Args) (s : State) : Out := joinRun (.joinImmediateMask x) x x.imm [] s

/-- JOIN_PENDING_RESUME: the JOIN of the channel that was the oldest pending one when this one parked is met (R86). `aux` holds the mask, `rec_` the
stamp of that oldest JOIN; once it is met the next oldest takes its place while four are pending. -/
def execJoinPendingResume (u : UnitRef) (s : State) : Out :=
  onParked s u .joinPending fun t p =>
    match p.instr with
    | .join x | .joinImmediateMask x =>
      let pending := t.pendingJoins t.team.stream x.d.toNat
      if pending.any fun j => decide (j.serial ≤ p.rec_.toNat) then none
      else if pending.length ≥ 4 then some (t.modParked fun p => { p with rec_ := BitVec.ofNat 512 (t.oldestJoin t.team.stream x.d.toNat) })
      else some ((t.addJoin x.d.toNat p.aux p.serial).wake x.bytes)
    | _ => none

/-! ### DRAIN and FENCE -/

/-- Completion of a DRAIN or FENCE at pod or system scope: the fence status word takes the uncertain bits of the channels it covers, which are
then cleared (R289, R402). -/
def State.fenceStatus (s : State) (scope mask : Nat) : State :=
  if scope ≥ 4 then
    let bits := Nat.land s.team.uncertain.toNat mask
    { s with team := { s.team with uncertain := BitVec.ofNat 16 (s.team.uncertain.toNat - bits) },
             grp := { s.grp with sys := { s.grp.sys with fence := BitVec.ofNat 32 (bits * 2 ^ 16 + (if bits = 0 then 0 else 1)) } } }
  else s

/-- Is every access that named a channel before the stamp performed at the scope (R87)? -/
def State.drained (s : State) (ch scope serial : Nat) : Bool :=
  !s.outstanding s.team.stream (2 ^ ch) serial (scopeCol scope) (if scope = 0 then some s.grp.key else none)

/-- DRAIN (R287). -/
def execDrain (x : Args) (s : State) : Out :=
  let ch := x.d.toNat
  let sc := x.b.toNat
  uniformPark s x [s.channelCheck (2 ^ ch)] fun t =>
    if t.drained ch sc t.serial then (t.fenceStatus sc (2 ^ ch)).doneU x else t.park .drain (.drain x) t.serial 0 0 0

/-- DRAIN_COMPLETION. -/
def execDrainCompletion (u : UnitRef) (s : State) : Out :=
  onParked s u .drain fun t p =>
    match p.instr with
    | .drain x =>
      if t.drained x.d.toNat x.b.toNat p.serial then some ((t.fenceStatus x.b.toNat (2 ^ x.d.toNat)).wake x.bytes) else none
    | _ => none

/-- The conditions of R93 for the unit in issue. -/
def State.fenceMet (s : State) (scope serial : Nat) : Bool := s.localDone s.unitRef serial && s.channelsDone s.grp.key scope serial

/-- What a FENCE does once its conditions hold: the L1 drop and the status word (R93, R288). -/
def State.fenced (s : State) (scope : Nat) : State := (s.acquired scope).fenceStatus scope 0xFFFF

/-- Does a FENCE wait for a tick (R97)? -/
def State.tickFence (s : State) (x : Args) : Bool := x.a == 1 && decide (x.b.toNat ≤ 3) && s.myPart.tick

/-- FENCE (R288). -/
def execFence (x : Args) (s : State) : Out :=
  let sc := x.b.toNat
  uniformPark s x [] fun t =>
    if t.fenceMet sc t.serial ∧ !s.tickFence x then (t.fenced sc).doneU x else t.park .fence (.fence x) t.serial 0 0 0

/-- FENCE_COMPLETION: in tick mode the fence first notes the tick after the one at which its drain completed, in `aux`, and then waits for
it. -/
def execFenceCompletion (u : UnitRef) (s : State) : Out :=
  onParked s u .fence fun t p =>
    match p.instr with
    | .fence x =>
      if !t.fenceMet x.b.toNat p.serial then none
      else if t.tickFence x ∧ p.aux = 0 then
        some { t with cur := { t.cur with st := .parked { p with aux := t.tick + 1 } } }
      else if t.tickFence x ∧ t.tick < p.aux then none
      else some ((t.fenced x.b.toNat).wake x.bytes)
    | _ => none

/-- TICK: time passes to the next multiple of 512 arithmetic-clock cycles (R97). -/
def execTick (s : State) : Out := .next { s with cycle := (s.cycle / 512 + 1) * 512 }

/-- Units of the team in issue that are parked on the channel state table with an access of a channel: each shows as an unacknowledged packet
(R398). -/
def State.tableWaiters (s : State) (ch : Nat) : Nat :=
  ((s.allGroups.filter fun g => decide (g.key.stream = s.team.stream)).map fun g => (g.units.filter fun u => match u.st with
    | .parked p => p.why == .channelTable && instrChan p.instr == some ch
    | _ => false).length).sum

/-- CHSTAT (R289, Table 99). -/
def State.chanStatus (s : State) (ch sel : Nat) : Nat :=
  let stream := s.team.stream
  match sel with
  | 0 => slotsOf s.team ch + s.inUse stream ch * 2 ^ 16
  | 1 =>
    let un := (((s.core s.grp.core).chans.filter fun e => e.key.stream = stream ∧ e.key.chan = ch).map fun e => e.unacked).sum
    min (un + s.tableWaiters ch) 0xFFFF + (s.pendingJoins stream ch).length * 2 ^ 16
  | _ => s.grp.sys.fence.toNat
def execChstat (x : Args) (s : State) : Out :=
  uniformOp s x [] fun t => t.setSw x.d.toNat (s.chanStatus x.a.toNat x.b.toNat)

/-! ### Barrier objects -/

/-- Fields of a barrier object (Table 22). -/
structure BarObj where
  pending : Int
  expected : Nat
  arrived : Nat
  phase : Bool
deriving DecidableEq, Repr, Inhabited

def barOf (n : Nat) : BarObj :=
  { pending := signedOf (field n 63 0) 64, expected := field n 95 64, arrived := field n 127 96, phase := bitOf n 128 }
def barBits (n : Nat) (b : BarObj) : Nat :=
  setField (setField (setField (setField n 63 0 (wrapU b.pending 64)) 95 64 b.expected) 127 96 b.arrived) 128 128 (if b.phase then 1 else 0)

def State.barObj (s : State) (core off : Nat) : BarObj := barOf (s.mem.readSpad core off 32)

/-- Applies a function to every unit. -/
def State.mapUnits (s : State) (f : MUnit → MUnit) : State :=
  { s with cur := f s.cur, grp := { s.grp with units := s.grp.units.map f },
           groups := s.groups.map fun g => { g with units := g.units.map f } }

/-- Marks the units parked on a barrier object: their phase has ended (R72). -/
def State.endPhase (s : State) (key : Nat) : State :=
  s.mapUnits fun u => match u.st with
    | .parked p => if p.why = .barw ∧ p.aux = key then { u with st := .parked { p with lanes := 1 } } else u
    | _ => u

/-- One atomic update of a barrier object, tested for phase completion afterwards (R72); `base` is what the object's other bits become. -/
def State.updateBar (s : State) (core off : Nat) (base : Nat → Nat) (f : BarObj → BarObj) : State :=
  let n := s.mem.readSpad core off 32
  let b := f (barOf n)
  let done := decide (b.arrived ≥ b.expected) && b.pending == 0
  let b1 := if done then { b with phase := !b.phase, arrived := 0 } else b
  let t := { s.markRaces core off with mem := s.mem.writeBar core off (barBits (base n) b1) }
  if done then t.endPhase (spadKey core off) else t

/-- Where a barrier address leads: MISALIGNED, SCRATCH_BOUND, or core and offset (R290). -/
def State.barPlace (s : State) (a : Nat) : Except Code (Nat × Nat) :=
  if a % 32 ≠ 0 then .error ⟨cMisaligned, a + 32 * 2 ^ 57⟩
  else match spadPlace s.myEnv a 32 with
    | .ok (c, b, off) => .ok (c, b + off)
    | .error r => .error ⟨cScratchBound, a + r * 2 ^ 32⟩

/-- A barrier instruction on the object that s(a) names, with the operand of s(a + 1): its faults, then `act`. It follows the unit's earlier
on-core accesses (R80). -/
def barRun (s : State) (x : Args) (check : Nat → BarObj → Option Code) (act : Nat → Nat → Nat → State → State) : Out :=
  let a := x.a.toNat
  let op := s.sr (a + 1)
  if !s.guardU x.gp x.gn then .next (s.doneU x)
  else match s.poisonS [a, a + 1] with
    | some c => .next (s.raise c)
    | none => match s.barPlace (s.sr a) with
      | .error c => .next (s.raise c)
      | .ok (core, off) =>
        outcome s (!s.quietCore)
          (firstCode [if s.mem.spadBad core off 32 then some ⟨cPoison, 3 + off * 2 ^ 8⟩ else none, check op (s.barObj core off)])
          (act core off op s.stamp)

/-- Notes, for the unit that has just parked on it, the team in whose allocation its barrier object stands (R62). -/
def State.viaBar (t s : State) (x : Args) : State := t.modParked fun p => { p with via := spadVia s.myEnv (s.sr x.a.toNat) }

/-- BARI (R290). -/
def execBari (x : Args) (s : State) : Out :=
  barRun s x (fun op _ => need (op != 0) cBarrierBad 0) fun core off op t =>
    (t.updateBar core off (fun n => n % 2 ^ 129) fun b => { b with expected := op, arrived := 0, pending := 0 }).doneU x

/-- BARA (R291): the unit parks until its arrival is applied. `aux` holds the object, `rec_` the byte count. -/
def execBara (x : Args) (s : State) : Out :=
  barRun s x (fun _ _ => none) fun core off op t =>
    (t.park .bara (.bara x) t.serial 0 (spadKey core off) (BitVec.ofNat 512 op)).viaBar s x

/-- BARA_ARRIVAL: the release conditions at cluster scope hold; the phase is read, the count and the arrival are added (R291). -/
def execBaraArrival (u : UnitRef) (s : State) : Out :=
  onParked s u .bara fun t p =>
    match p.instr with
    | .bara x =>
      let core := p.aux / 2 ^ 22
      let off := p.aux % 2 ^ 22
      let b := t.barObj core off
      if !t.fenceMet 2 p.serial then none
      else if t.mem.spadBad core off 32 then some (t.raise ⟨cPoison, 3 + off * 2 ^ 8⟩)
      else if b.arrived ≥ b.expected then some (t.raise ⟨cBarrierOverrun, b.expected⟩)
      else
        let t1 := t.updateBar core off id fun b =>
          { b with pending := signedOf (wrapU (b.pending + p.rec_.toNat) 64) 64, arrived := b.arrived + 1 }
        some ((t1.setSw x.d.toNat (if b.phase then 1 else 0)).wake x.bytes)
    | _ => none

/-- BARW (R292): at once when the phase differs, else parked; either way an acquire at cluster scope. -/
def execBarw (x : Args) (s : State) : Out :=
  barRun s x (fun _ _ => none) fun core off op t =>
    if (t.barObj core off).phase ≠ op.testBit 0 then (t.acquired 2).doneU x
    else (t.park .barw (.barw x) t.serial 0 (spadKey core off) (BitVec.ofNat 512 (s.sr x.a.toNat))).viaBar s x

/-- BARW_WAKE: the phase that the unit waits on has ended. -/
def execBarwWake (u : UnitRef) (s : State) : Out :=
  onParked s u .barw fun t p => if p.lanes = 0 then none else some ((t.acquired 2).wake p.instr.size)

/-- BARX (R293). -/
def execBarx (x : Args) (s : State) : Out :=
  let sum (op : Nat) (b : BarObj) : Int := b.expected + s32 op
  barRun s x (fun op b => need (decide (1 ≤ sum op b ∧ sum op b < 2 ^ 32)) cBarrierBad (wrapU (sum op b) 32)) fun core off op t =>
    (t.updateBar core off id fun b => { b with expected := (sum op b).toNat }).doneU x

end Sys2Proof.Machine
end

