-- ==== Sys2Proof/Machine/Copy.lean ====
section
/-! DEFINITION. Machine/Copy.lean: KICK and the copy engine (12 R294; 03 R73, R74; 04 R84, R100; 22 R396). -/

namespace Sys2Proof.Machine

/-! ### Copy requests (Table 23) -/

def cqBytes (n : Nat) : Nat := field n 31 0
def cqFrom (n : Nat) : Nat := field n 36 32
def cqDst (n : Nat) : Nat := field n 41 37
def cqChan (n : Nat) : Nat := field n 45 42
def cqBarEn (n : Nat) : Bool := bitOf n 46
def cqBar (n : Nat) : Nat := field n 95 64
def cqE (n : Nat) : List Nat := (List.range 5).map fun i => field n (159 + 32 * i) (128 + 32 * i)
def cqD (n : Nat) : List Nat := (List.range 5).map fun i => field n (319 + 32 * i) (288 + 32 * i)
def cqReserved (n : Nat) : Bool := field n 511 448 == 0 && field n 127 96 == 0 && field n 63 47 == 0

/-- The check of R74 on two resolved slots: KICK_BAD detail 5 or 3. -/
def copySlots (fy dy : BitVec 512) (bytes : Nat) : Option Code :=
  firstCode [need (fy != 0 && dy != 0) cKickBad 5, need (lyEsize fy == lyEsize dy && bytes % 2 ^ lyEsize fy == 0) cKickBad 3]

/-- The checks of a record, in the order of R294. -/
def State.recordCheck (s : State) (n : Nat) : Option Code :=
  firstCode [
    need (cqReserved n) cKickBad 1,
    need (s.chanAllowed (cqChan n)) cKickBad 2,
    copySlots (sget 0 s.team.slots (cqFrom n)) (sget 0 s.team.slots (cqDst n)) (cqBytes n),
    if cqBarEn n then errorOf (s.barPlace (cqBar n)) else none]

/-- The request that a record asks for. -/
def copyOf (n id serial : Nat) : CopyReq :=
  { id := id, serial := serial, chan := cqChan n, bytes := cqBytes n, fromSlot := cqFrom n, dstSlot := cqDst n,
    bar := if cqBarEn n then some (cqBar n) else none, e := cqE n, d := cqD n }

/-- Places in the copy queue of a core; a request that has started has left it (R12, R74). -/
def copyQueueSize : Nat := 256
def State.copyQueueFull (s : State) (core : Nat) : Bool :=
  decide (((s.core core).copies.filter fun r => r.resolved.isNone).length ≥ copyQueueSize)

/-- The slice offset of the record that s_a names, with the checks before it is read (R294). -/
def State.kickAddr (s : State) (a : Nat) : Except Code Nat :=
  if a % 64 ≠ 0 then .error ⟨cMisaligned, a + 64 * 2 ^ 57⟩
  else if (spadCore s.myEnv a).any fun c => c != s.grp.core then .error ⟨cKickBad, 4⟩
  else match spadPlace s.myEnv a 64 with
    | .ok (_, b, off) => .ok (b + off)
    | .error r => .error ⟨cScratchBound, a + r * 2 ^ 32⟩

/-- The record that a KICK reads at the address it names, or the code of its checks, in the order of R294. -/
def State.kickRecord (s : State) (a : Nat) : Except Code Nat :=
  match s.kickAddr a with
  | .error c => .error c
  | .ok off =>
    if s.mem.spadBad s.grp.core off 64 then .error ⟨cPoison, 3 + off * 2 ^ 8⟩
    else
      let n := s.mem.readSpad s.grp.core off 64
      match s.recordCheck n with
      | some c => .error c
      | none => .ok n

/-- Queues the request of a KICK whose record is `n`. -/
def State.kickPlace (s : State) (x : Args) (serial n : Nat) : State :=
  let r := { copyOf n serial serial with stream := s.team.stream, who := s.unitRef, part := s.team.part, domain := s.dom,
                                         core := s.grp.core, flag := s.countedFlag x.d.toNat }
  s.modCore s.grp.core fun c => { c with copies := c.copies ++ [r] }

/-- KICK (R294): queues its request, or parks until the copy queue has a place. Its flag counts from its issue (R206). `aux` holds the record's
address. Parked KICKs take places in the order of their issue, and one that issues while a place is free takes it before them: the model's choice
(R294, log 26). -/
def execKick (x : Args) (s : State) : Out :=
  if !s.guardU x.gp x.gn then .next (s.doneU x)
  else match firstCode [s.forbidden (firstWord (.kick x)), s.poisonS [x.a.toNat]] with
    | some c => .next (s.raise c)
    | none =>
      let a := s.sr x.a.toNat
      match s.kickAddr a with
      | .error c => .next (s.raise c)
      | .ok _ =>
        let t := s.stamp.flagIssue (s.countedFlag x.d.toNat)
        if !s.quietCore then .next s.stall
        else if s.copyQueueFull s.grp.core then .next (t.park .kick (.kick x) t.serial 0 a 0)
        else match s.kickRecord a with
          | .error c => .next (s.raise c)
          | .ok n => .next ((t.kickPlace x t.serial n).doneU x)

/-- Does a unit that parked earlier wait for a place of the copy queue of the core in issue? -/
def State.earlierKick (s : State) (before : Nat) : Bool :=
  s.allGroups.any fun g => g.core = s.grp.core && g.units.any fun u => match u.st with
    | .parked p => p.why == .kick && decide (p.serial < before)
    | _ => false

/-- KICK_QUEUE_PLACE: a place has freed. A KICK whose record then faults counts no flag (R378). -/
def execKickQueuePlace (u : UnitRef) (s : State) : Out :=
  onParked s u .kick fun t p =>
    match p.instr with
    | .kick x =>
      if t.copyQueueFull t.grp.core || t.earlierKick p.serial then none
      else match t.kickRecord p.aux with
        | .error c => some ((t.flagDone t.grp.key (t.countedFlag x.d.toNat)).raise c)
        | .ok n => some ((t.kickPlace x p.serial n).wake x.bytes)
    | _ => none

/-! ### The engine -/

/-- A request of a core, by its identifier. -/
def State.copy? (s : State) (core id : Nat) : Option CopyReq := (s.core core).copies.find? fun r => r.id = id
def State.modCopy (s : State) (core id : Nat) (f : CopyReq → CopyReq) : State :=
  s.modCore core fun c => { c with copies := c.copies.map fun r => if r.id = id then f r else r }
def State.dropCopy (s : State) (core id : Nat) : State :=
  s.modCore core fun c => { c with copies := c.copies.filter fun r => decide (r.id ≠ id) }

/-- The engine of a core works for a partition while its halt line is low (R389). -/
def State.engineRuns (s : State) (part : Nat) : Bool := (s.part part).halt.state == 0

/-- A fault of the copy engine halts (R396); its stop record names the request at fault. -/
def State.copyFault (s : State) (r : CopyReq) (c : Code) : State :=
  ((if c.code = cPoison then s.countPoison r.core else s).modCore r.core fun k => { k with copyFaulted := some r }).halt
    r.part r.core 6 c.code c.detail 0

/-- The layout table that a request resolves its slots in: the team's, the matrix stream's, or the command domain's bank (R74, R111, R324). -/
def State.copyTable (s : State) (r : CopyReq) : List (Nat × BitVec 512) :=
  match r.bundle with
  | some (b, sub) => match (s.part r.part).bundles.find? fun x => x.id = b with
    | some x => match x.streams.find? fun m => m.sub = sub with
      | some m => m.slots
      | none => x.slots
    | none => []
  | none => match s.team? r.stream with
    | some t => t.slots
    | none => []

/-- The next copy request of a bundle enters the queue of its core while a place is free; its record is checked then (R111, R294). -/
def State.refillCopy (s : State) (part core : Nat) : State :=
  match (s.part part).bundles.find? fun b => b.core = core ∧ b.toCopy ≠ [] with
  | none => s
  | some b =>
    match b.toCopy with
    | [] => s
    | (sub, y) :: rest =>
      let n := y.toNat
      if s.copyQueueFull core then s
      else
        let t := s.stamp
        let r := { copyOf n t.serial t.serial with stream := b.stream, who := ⟨⟨b.stream, 0⟩, 0⟩, part := part, domain := b.domain, core := core,
                                                   bundle := some (b.id, sub) }
        let t1 := t.modPart part fun p => { p with bundles := p.bundles.map fun x => if x.id = b.id then { x with toCopy := rest } else x }
        match firstCode [need (cqReserved n) cKickBad 1, need ((domChmask ((s.part part).domain b.domain)).testBit (cqChan n)) cKickBad 2] with
        | some c => t1.copyFault r c
        | none => t1.modCore core fun c => { c with copies := c.copies ++ [r] }

/-- A finished request leaves the engine and completes its flag (Table 95). -/
def State.copyDone (s : State) (r : CopyReq) : State := ((s.dropCopy r.core r.id).flagDone r.who.group r.flag).refillCopy r.part r.core

/-- A request of a bundle that has not found a place in the queue yet takes one. -/
def State.refillAny (s : State) (core : Nat) : State :=
  match s.parts.find? fun p => p.2.bundles.any fun b => b.core = core ∧ b.toCopy ≠ [] with
  | some p => if s.engineRuns p.1 then s.refillCopy p.1 core else s
  | none => s

/-- COPY_REQUEST_START: the first request that still waits leaves the queue; its slots are resolved and checked; with 0 bytes it is complete
(R74). -/
def execCopyRequestStart (core id : Nat) (s : State) : Out :=
  match (s.core core).copies.find? fun r => r.resolved.isNone with
  | none => .next (s.refillAny core)
  | some r =>
    if r.id ≠ id ∨ !s.engineRuns r.part then .next s
    else
      let fy := sget 0 (s.copyTable r) r.fromSlot
      let dy := sget 0 (s.copyTable r) r.dstSlot
      let t := s.serve core 6 r.stream
      match copySlots fy dy r.bytes with
      | some c => .next (t.copyFault r c)
      | none => if r.bytes = 0 then .next (t.copyDone r) else .next (t.modCopy core id fun r => { r with resolved := some (fy, dy) })

/-- The place of one element, none when it is out of extent under oob = 1, or its code in the order of R394. The one space that a copy cannot
read is fabric space, which is read only through reply slots (R88, Table 158). -/
def State.elemPlace (s : State) (r : CopyReq) (y : BitVec 512) (slot : Nat) (cs : List Nat) (write : Bool) : Except Code (Option Place) :=
  let w := 2 ^ lyEsize y
  if lySpace y = 3 ∧ !write then .error ⟨cSpaceDenied, 3⟩
  else match layoutOffset y cs with
    | .error (c, i) => if lyOob y then .ok none else .error ⟨cOutOfExtent, c + i * 2 ^ 32 + slot * 2 ^ 35⟩
    | .ok off =>
      let a : Int := (lyBase y : Int) + off
      match checkRange y (.at_ a) with
      | some c => .error c
      | none =>
        let n := a.toNat
        match lySpace y with
        | 0 => match spadPlace (s.copyEnv r) n w with
          | .ok (c, b, o) => .ok (some (.spad c (b + permute y o)))
          | .error why => .error ⟨cScratchBound, n + why * 2 ^ 32⟩
        | 2 => match s.groupAt (winCore n) (winSlot n) with
          | some g =>
            if g.sys.domain = r.domain ∧ ((s.team? g.key.stream).any fun t => t.part == r.part) then .ok (some (.reg n))
            else .error ⟨cWindowDomain, n⟩
          | none => .ok (some (.reg n))
        | 3 => .ok (some (.fabric (lyDest y) (lySegment y) n))
        | _ => match s.translate r.part r.domain n with
          | .error c => .error c
          | .ok p => if write ∧ !p.writable then .error ⟨cNotWritable, n⟩ else .ok (some p.place)

/-- next(c, Y) of R74. -/
def nextCoord (y : BitVec 512) (cs : List Nat) : List Nat :=
  let rec go (i : Nat) : List Nat → List Nat
    | [] => []
    | c :: rest => if i ≥ lyRank y then c :: rest else if c + 1 < lyExt y i then (c + 1) :: rest else 0 :: go (i + 1) rest
  go 0 cs

/-- The team in whose allocation an element is placed (R62). -/
def State.elemVia (s : State) (r : CopyReq) (y : BitVec 512) (cs : List Nat) : Option Nat :=
  match layoutOffset y cs with
  | .ok off => if lySpace y = 0 then spadVia (s.copyEnv r) ((lyBase y : Int) + off).toNat else none
  | .error _ => none

/-- An element of a segment: where it is read and written, and the team in whose allocation it is written. -/
structure CopyElem where
  src : Option Place
  dst : Option Place
  via : Option Nat

/-- The elements of a segment, checked in order, with the coordinates after it. -/
def State.copyElems (s : State) (r : CopyReq) (fy dy : BitVec 512) : Nat → List Nat → List Nat →
    Except Code (List CopyElem × List Nat × List Nat)
  | 0, e, d => .ok ([], e, d)
  | n + 1, e, d => match s.elemPlace r fy r.fromSlot e false, s.elemPlace r dy r.dstSlot d true with
    | .error c, _ => .error c
    | _, .error c => .error c
    | .ok p, .ok q => match s.copyElems r fy dy n (nextCoord fy e) (nextCoord dy d) with
      | .error c => .error c
      | .ok (ps, e1, d1) => .ok (⟨p, q, s.elemVia r dy d⟩ :: ps, e1, d1)

/-- POISON of a poisoned source element that would cross the fabric (R399). Table 152 gives a detail form for scratchpad and registers; for
other memory the detail is a free value (log 4). -/
def State.copyPoison (s : State) (ps : List CopyElem) (w : Nat) : Option Code :=
  ps.findSome? fun e => match e.src, e.dst with
    | some p, some (.fabric _ _ _) =>
      if (s.readPlace p w).2 then
        some ⟨cPoison, match p with
          | .spad _ o => 3 + o * 2 ^ 8
          | .reg a => winReg a * 2 ^ 8
          | _ => Config.freeValue s.free % 2 ^ 64⟩
      else none
    | _, _ => none

/-- A run of bytes towards one place outside the core, not yet a packet. -/
structure CopyRun where
  place : Place
  via : Option Nat
  width : Nat
  data : Nat
  poison : Bool
deriving DecidableEq, Repr, Inhabited

/-- Joins an element to the last run when it continues it inside one aligned 256-byte block with the same poison (R84); register-window
elements stay apart. -/
def addRun (runs : List CopyRun) (p : Place) (via : Option Nat) (w x : Nat) (poison : Bool) : List CopyRun :=
  match runs with
  | last :: rest =>
    let (a, b, n) := last.place.coords
    if a = p.coords.1 ∧ b = p.coords.2.1 ∧ a ≠ 2 ∧ n + last.width = p.coords.2.2 ∧ n / 256 = p.coords.2.2 / 256 ∧ last.poison = poison then
      { last with width := last.width + w, data := last.data + x * 2 ^ (8 * last.width) } :: rest
    else { place := p, via := via, width := w, data := x, poison := poison } :: runs
  | [] => [{ place := p, via := via, width := w, data := x, poison := poison }]

/-- Moves elements in order: on-core destinations are written at once, full bits set; the others gather in runs, latest first. -/
def moveElems (core w : Nat) : List CopyElem → State × List CopyRun → State × List CopyRun
  | [], acc => acc
  | e :: rest, (s, runs) =>
    match e.dst with
    | none => moveElems core w rest (s, runs)
    | some dst =>
      let (x, bad) := match e.src with
        | some src => s.readPlace src w
        | none => (0, false)
      if dst.onCore core then moveElems core w rest (s.writePlace dst w x bad true, runs)
      else moveElems core w rest (s, addRun runs dst e.via w x bad)

/-- Issues one run on the request's channel, or holds it at the source: behind a JOIN, behind earlier held accesses of its stream, or until the
window has room (R84, R86). A run towards a lost device is discarded (R401). -/
def State.emitRun (s : State) (r : CopyReq) (run : CopyRun) : State :=
  if s.lostDev run.place then
    let s0 := s.noteLoss run.place
    if r.bundle.isSome then s0 else s0.modTeam r.stream fun t => { t with uncertain := setBit t.uncertain r.chan true }
  else
    let key : ChanKey := ⟨r.stream, r.chan, s.dieId run.place⟩
    let f : Flight := { serial := r.serial, who := r.who, core := r.core, issuer := r.core, remote := true, part := r.part, domain := r.domain, kind := .store,
                        place := run.place, via := run.via, width := run.width, data := run.data, poison := run.poison, chan := some r.chan,
                        key := some key, copy := some (r.id, r.seg) }
    if s.joinHeld r.stream r.chan r.serial || s.queuedKey key r.serial then s.addFlight f
    else match s.takeSeq r.core key with
      | .ok (q, t) => t.addFlight { f with seq := some q }
      | .error _ => s.addFlight f

/-- The issuing unit's earlier on-core accesses have been performed (R100). -/
def State.copyReady (s : State) (r : CopyReq) : Bool :=
  !(s.flights.any fun f => f.beforeCopy r && !f.performed)

/-- COPY_SEGMENT_MOVE: the next segment of a request, up to 4 KiB, is checked and then moved (R74, R100, R396). Each packet takes a request entry of
the core, and the segment waits in the engine until there are enough (R88). -/
def execCopySegmentMove (core id : Nat) (s : State) : Out :=
  match s.copy? core id with
  | none => .next s
  | some r =>
    match r.resolved with
    | none => .next s
    | some (fy, dy) =>
      if r.moved ≥ r.bytes ∨ !s.engineRuns r.part ∨ !s.copyReady r then .next s
      else
        let w := 2 ^ lyEsize fy
        let n := min ((r.bytes - r.moved) / w) (4096 / w)
        match s.copyElems r fy dy n r.e r.d with
        | .error c => .next (s.copyFault r c)
        | .ok (ps, e, d) =>
          match s.copyPoison ps w with
          | some c => .next ({ s with free := s.free + 1 }.copyFault r c)
          | none =>
            let (t, runs) := moveElems core w ps (s, [])
            let t1 := runs.reverse.foldl (fun (t : State) run => t.emitRun r run) t
            if s.entriesFree core < runs.length then .next s
            else .next (t1.modCopy core id fun r =>
              { r with e := e, d := d, moved := r.moved + n * w, seg := r.seg + 1, open_ := r.open_ ++ [(r.seg, n * w)] })

/-- Is a segment performed at its destination at pod scope? -/
def State.segmentDone (s : State) (core id seg : Nat) : Bool :=
  !(s.flights.any fun f => f.core = core && f.copy = some (id, seg) && decide (f.done < 2))

/-- A segment counts its bytes down on the request's barrier object (R72, R74). -/
def State.countDown (s : State) (r : CopyReq) (bytes : Nat) : State :=
  match s.barAt r with
  | none => s
  | some k => s.updateBar (k / 2 ^ 22) (k % 2 ^ 22) id fun o => { o with pending := signedOf (wrapU (o.pending - bytes) 64) 64 }

/-- COPY_SEGMENT_PERFORMED: a segment is performed at pod scope and counted; with the last one the request is complete (R100). -/
def execCopySegmentPerformed (core id : Nat) (s : State) : Out :=
  match s.copy? core id with
  | none => .next s
  | some r =>
    match r.open_.find? fun o => s.segmentDone core id o.1 with
    | none => .next s
    | some o =>
      let r1 := { r with open_ := r.open_.filter fun p => decide (p ≠ o) }
      let t := (s.modCopy core id fun _ => r1).countDown r o.2
      .next (if r1.moved ≥ r1.bytes ∧ r1.open_ = [] then t.copyDone r1 else t)

end Sys2Proof.Machine
end

