-- ==== Sys2Proof/Machine/FloatFun.lean ====
section
/-! DEFINITION. Machine/FloatFun.lean: the FUN family (11 R244): the exact and special cases of Table 79, and the bounded members. A
bounded member's encoding is a free value within its bound (log 4); the bound is judged against a fixed-point approximation of the
exact result whose own error is below 2^-280 of it (log 14). -/

namespace Sys2Proof.Machine

/-- Fraction bits of the fixed-point approximations. -/
def fxBits : Nat := 420
def fxOne : Nat := 2 ^ fxBits

/-- Sum of x^(2i+1) / (2i+1) over `n` terms from term i, with t = x^(2i+1) and z = x^2, all over 2^420; `alt` alternates signs. -/
def oddSeries (alt : Bool) (z : Nat) : Nat → Nat → Nat → Int
  | 0, _, _ => 0
  | n + 1, i, t =>
    let term : Int := (t / (2 * i + 1) : Nat)
    (if alt && i % 2 == 1 then -term else term) + oddSeries alt z n (i + 1) (t * z / fxOne)

def oddSum (alt : Bool) (x n : Nat) : Int := oddSeries alt (x * x / fxOne) n 0 x

/-- Fixed-point ln 2 and π. -/
def fxLn2 : Nat := (2 * oddSum false (fxOne / 3) 140).toNat
def fxPi : Nat := (16 * oddSum true (fxOne / 5) 100 - 4 * oddSum true (fxOne / 239) 40).toNat

/-- Sum of x^k / k! over `n` terms from term k, with t = x^k / k!. -/
def expSeries (x : Nat) : Nat → Nat → Nat → Nat
  | 0, _, _ => 0
  | n + 1, k, t => t + expSeries x n (k + 1) (t * x / fxOne / (k + 1))

/-- Sum of (-1)^i x^(2i+k) / (2i+k)! over `n` terms, with t the current term and z = x^2. -/
def trigSeries (z : Nat) : Nat → Nat → Bool → Nat → Int
  | 0, _, _, _ => 0
  | n + 1, k, neg, t => (if neg then -(t : Int) else t) + trigSeries z n (k + 2) (!neg) (t * z / fxOne / ((k + 1) * (k + 2)))

/-- sin or cos of an exact argument num / 2^420, after exact reduction by 2π; no result leaves [-1, 1]. -/
def fxTrig (isCos : Bool) (num : Int) : Int :=
  let x := (num % (2 * fxPi : Int)).toNat
  let z := x * x / fxOne
  max (-(fxOne : Int)) (min fxOne (if isCos then trigSeries z 120 0 false fxOne else trigSeries z 120 1 false x))

/-- ln of m / 2^420 in [1, 2). -/
def fxLn (m : Nat) : Int := 2 * oddSum false ((m - fxOne) * fxOne / (m + fxOne)) 140

/-- Exponent of ulp(y) of R244 for y = |n| × 2^e. -/
def ulpExp (n : Nat) (e : Int) : Int := max ((Nat.log2 n : Int) + e) (-126) - 23

/-- Does binary32 encoding `r` lie within k × 2^b of n × 2^e? -/
def near (r : Nat) (n : Int) (e : Int) (k : Nat) (b : Int) : Bool :=
  match unpack fF32 r with
  | .fin neg m er _ =>
    let e0 := min (min er e) b
    decide ((alignTo neg m er e0 - n * 2 ^ (e - e0).toNat).natAbs ≤ k * 2 ^ (b - e0).toNat)
  | _ => false

/-- The free choice where it meets its bound, else the correctly rounded result, which always does. -/
def bounded (choice : Nat) (n : Int) (e : Int) (k : Nat) (b : Int) (inRange : Nat → Bool) : Nat :=
  if near choice n e k b && inRange choice then choice else roundFp fF32 0 false (ofSigned n e false)

/-- Is a magnitude a power of two? -/
def isPow2 (m : Nat) : Bool := m != 0 && m == 2 ^ Nat.log2 m

/-- A value over 2^420. -/
def fxOf (neg : Bool) (m : Nat) (e : Int) : Int := alignTo neg m e (-fxBits)

def oneV : FVal := .fin false 1 0 false
def signedV : FVal → Int × Int
  | .fin neg m e _ => (if neg then -(m : Int) else m, e)
  | _ => (0, 0)

def frcpR (choice : Nat) (a : Nat) : Nat :=
  match unpack fF32 a with
  | .nan => fF32.nan
  | .inf neg => fF32.sign neg
  | .fin neg m e s =>
    let y := oneV.div (.fin neg m e s)
    if m = 0 then fF32.sign neg + fF32.infBits
    else if isPow2 m then roundFp fF32 0 false y
    else if roundFp fF32 (if neg then 3 else 2) false y % 2 ^ 31 = fF32.infBits then fF32.sign neg + fF32.infBits
    else
      let (n, ey) := signedV y
      bounded choice n ey 1 (ulpExp n.natAbs ey) fun _ => true

def frsqR (choice : Nat) (a : Nat) : Nat :=
  match unpack fF32 a with
  | .nan => fF32.nan
  | .inf neg => if neg then fF32.nan else 0
  | .fin neg m e s =>
    if m = 0 then fF32.sign neg + fF32.infBits
    else if neg then fF32.nan
    else
      let y := oneV.div (FVal.sqrt (.fin neg m e s))
      if isPow2 m ∧ ((Nat.log2 m : Int) + e) % 2 = 0 then roundFp fF32 0 false y
      else
        let (n, ey) := signedV y
        bounded choice n ey 1 (ulpExp n.natAbs ey) fun _ => true

def fsqrtR (rm a : Nat) : Nat := roundFp fF32 rm false (unpack fF32 a).sqrt

def fexp2R (choice : Nat) (a : Nat) : Nat :=
  match unpack fF32 a with
  | .nan => fF32.nan
  | .inf neg => if neg then 0 else fF32.infBits
  | .fin neg m e _ =>
    let v := fxOf neg m e
    if v ≥ 128 * (fxOne : Int) then fF32.infBits
    else if v ≤ -150 * (fxOne : Int) then 0
    else
      let i := v / (fxOne : Int)
      let f := (v % (fxOne : Int)).toNat
      if f = 0 then roundFp fF32 0 false (.fin false 1 i false)
      else
        let y := expSeries (f * fxLn2 / fxOne) 110 0 fxOne
        let ey := i - fxBits
        bounded choice y ey 2 (ulpExp y ey) fun _ => true

def flog2R (choice : Nat) (a : Nat) : Nat :=
  match unpack fF32 a with
  | .nan => fF32.nan
  | .inf neg => if neg then fF32.nan else fF32.infBits
  | .fin neg m e _ =>
    if m = 0 then fF32.sign true + fF32.infBits
    else if neg then fF32.nan
    else
      let k := (Nat.log2 m : Int) + e
      if isPow2 m then roundFp fF32 0 false (ofSigned k 0 false)
      else
        let mant := m * 2 ^ (fxBits - Nat.log2 m)
        let y := k * fxOne + fxLn mant * fxOne / fxLn2
        if k = 0 ∨ k = -1 then bounded choice y (-fxBits) 1 (-22) fun _ => true
        else bounded choice y (-fxBits) 2 (ulpExp y.natAbs (-fxBits)) fun _ => true

/-- Is an encoding within [-1, 1]? -/
def unitRange (r : Nat) : Bool := decide (r % 2 ^ 31 ≤ 0x3F800000)

def fsinR (choice : Nat) (a : Nat) : Nat :=
  match unpack fF32 a with
  | .nan | .inf _ => fF32.nan
  | .fin neg m e _ =>
    if m = 0 then fF32.sign neg else bounded choice (fxTrig false (fxOf neg m e)) (-fxBits) 1 (-22) unitRange

def fcosR (choice : Nat) (a : Nat) : Nat :=
  match unpack fF32 a with
  | .nan | .inf _ => fF32.nan
  | .fin neg m e _ =>
    if m = 0 then 0x3F800000 else bounded choice (fxTrig true (fxOf neg m e)) (-fxBits) 1 (-22) unitRange

/-- FRND: round_int as binary32; a zero result keeps the sign of a. -/
def frndR (rm a : Nat) : Nat :=
  match unpack fF32 a with
  | .nan => fF32.nan
  | .inf neg => fF32.sign neg + fF32.infBits
  | .fin neg m e _ => roundFp fF32 0 false (ofSigned (roundInt neg m e rm) 0 neg)

/-- FCLS: one bit of Table 80. -/
def fclsR (a : Nat) : Nat :=
  let neg := bitOf a 31
  match unpack fF32 a with
  | .nan => 2 ^ 8
  | .inf _ => if neg then 1 else 2 ^ 7
  | .fin _ m _ _ =>
    if m = 0 then (if neg then 2 ^ 3 else 2 ^ 4)
    else if m < 2 ^ 23 then (if neg then 2 ^ 2 else 2 ^ 5)
    else if neg then 2 ^ 1 else 2 ^ 6

end Sys2Proof.Machine
end

