-- ==== Sys2Proof/Machine/LaneFloat.lean ====
section
/-! DEFINITION. Machine/LaneFloat.lean: the lane floating-point, conversion and dot-product instructions (11 R241 to R252). -/

namespace Sys2Proof.Machine

/-- Source A as an encoding of `f`, after .ABS and .NEG (R232). -/
def modA (f : Fmt) (x : Args) (a : Nat) : Nat := signMods f x.neg x.abs a

/-! ### binary32 (R241 to R243) -/

def execFadd (x : Args) (s : State) : Out := lane2 s x fun a b => addF fF32 x.rm x.sat (modA fF32 x a) b
def execFsub (x : Args) (s : State) : Out := lane2 s x fun a b => subF fF32 x.rm x.sat (modA fF32 x a) b
def execFmul (x : Args) (s : State) : Out := lane2 s x fun a b => mulF fF32 x.rm x.sat (modA fF32 x a) b
def execFfma (x : Args) (s : State) : Out := lane3 s x fun a b c => fmaF fF32 x.rm x.sat (modA fF32 x a) b c
def execFdiv (x : Args) (s : State) : Out := lane2 s x fun a b => divF fF32 x.rm x.sat (modA fF32 x a) b
def execFmin (x : Args) (s : State) : Out := lane2 s x fun a b => minF fF32 (modA fF32 x a) b
def execFmax (x : Args) (s : State) : Out := lane2 s x fun a b => maxF fF32 (modA fF32 x a) b
def execFcmp (x : Args) (s : State) : Out :=
  laneCmp s x fun a b => condFloat (field x.sub.toNat 2 0) (modA fF32 x a) b

/-! ### The FUN family (R244) -/

/-- The design's own choice for a bounded member (log 4). -/
def funChoice (member a : Nat) : Nat := (Config.funValue member (BitVec.ofNat 32 a)).toNat

def execFrcp (x : Args) (s : State) : Out := lane1 s x fun a => frcpR (funChoice 0 (modA fF32 x a)) (modA fF32 x a)
def execFrsq (x : Args) (s : State) : Out := lane1 s x fun a => frsqR (funChoice 1 (modA fF32 x a)) (modA fF32 x a)
def execFsqrt (x : Args) (s : State) : Out := lane1 s x fun a => fsqrtR x.rm (modA fF32 x a)
def execFexp2 (x : Args) (s : State) : Out := lane1 s x fun a => fexp2R (funChoice 3 (modA fF32 x a)) (modA fF32 x a)
def execFlog2 (x : Args) (s : State) : Out := lane1 s x fun a => flog2R (funChoice 4 (modA fF32 x a)) (modA fF32 x a)
def execFsin (x : Args) (s : State) : Out := lane1 s x fun a => fsinR (funChoice 5 (modA fF32 x a)) (modA fF32 x a)
def execFcos (x : Args) (s : State) : Out := lane1 s x fun a => fcosR (funChoice 6 (modA fF32 x a)) (modA fF32 x a)
def execFrnd (x : Args) (s : State) : Out := lane1 s x fun a => frndR x.rm (modA fF32 x a)
def execFcls (x : Args) (s : State) : Out := lane1 s x fun a => fclsR (modA fF32 x a)

/-! ### Packed 16-bit and binary64 (R245) -/

/-- The element format of a packed instruction. -/
def packedFmt (x : Args) : Fmt := if bitOf x.sub.toNat 0 then fBF16 else fF16

/-- Both 16-bit elements of a result. -/
def packed (g : Nat → Nat) : Nat := g 0 + g 1 * 2 ^ 16

def execHadd2 (x : Args) (s : State) : Out :=
  let f := packedFmt x
  lane2 s x fun a b => packed fun i => addF f x.rm x.sat (modA f x (elem a 16 i)) (elem b 16 i)
def execHmul2 (x : Args) (s : State) : Out :=
  let f := packedFmt x
  lane2 s x fun a b => packed fun i => mulF f x.rm x.sat (modA f x (elem a 16 i)) (elem b 16 i)
def execHfma2 (x : Args) (s : State) : Out :=
  let f := packedFmt x
  lane3 s x fun a b c => packed fun i => fmaF f x.rm x.sat (modA f x (elem a 16 i)) (elem b 16 i) (elem c 16 i)

/-- Both registers of a pair. -/
def pairRegs (n : Nat) : List Nat := [n, n + 1]

/-- pair d := f(pair A, pair B) per executing lane, in passes of 2 cycles (R230). -/
def lanePair (s : State) (x : Args) (f : Nat → Nat → Nat) : Out :=
  let ls := s.lanesFor x
  let srcs := pairRegs x.a.toNat ++ pairRegs x.b.toNat
  let regs := pairRegs x.d.toNat ++ srcs
  laneRun s x 2 regs regs [s.poisonV ls srcs] (s.writePairs ls x.d.toNat fun l => f (s.vpair l x.a.toNat) (s.vpair l x.b.toNat))

def execDadd (x : Args) (s : State) : Out := lanePair s x fun a b => addF fF64 x.rm x.sat (modA fF64 x a) b
def execDmul (x : Args) (s : State) : Out := lanePair s x fun a b => mulF fF64 x.rm x.sat (modA fF64 x a) b
def execDfma (x : Args) (s : State) : Out :=
  let ls := s.lanesFor x
  let srcs := pairRegs x.a.toNat ++ pairRegs x.b.toNat ++ pairRegs (third x)
  let regs := pairRegs x.d.toNat ++ srcs
  laneRun s x 2 regs regs [s.poisonV ls srcs] (s.writePairs ls x.d.toNat fun l =>
    fmaF fF64 x.rm x.sat (modA fF64 x (s.vpair l x.a.toNat)) (s.vpair l x.b.toNat) (s.vpair l (third x)))

/-! ### Conversions (R246 to R250) -/

/-- CVT (R246, R247): codes in b, .NS in sub[0]; pairs hold binary64. -/
def execCvt (x : Args) (s : State) : Out :=
  let ls := s.lanesFor x
  let dc := field x.b.toNat 7 4
  let sc := field x.b.toNat 3 0
  let d := x.d.toNat
  let f := convert (numFmt sc) (numFmt dc) x.rm (bitOf x.sub.toNat 0)
  let val (l : Nat) : Nat := f (if sc = 11 then s.vpair l x.a.toNat else s.a x l)
  let dregs := if dc = 11 then pairRegs d else [d]
  let aregs := if sc = 11 then pairRegs x.a.toNat else s.regsA x
  let named := dregs ++ (if x.xmode = 1 then [] else aregs)
  let eff := if dc = 11 then s.writePairs ls d val else s.writeLanes ls d val
  laneRun s x (if dc = 11 ∨ sc = 11 then 2 else 1) named (dregs ++ aregs)
    [s.xmodeCheck x, if sc = 11 then s.poisonV ls aregs else s.poisonA x ls] eff

/-- The element format code of PACK and UNPK (R248, R249): sub[3:0], or binary16 in the short format. -/
def elemCode (x : Args) : Nat := if x.long then field x.sub.toNat 3 0 else 8

/-- The element that PACK converts a 32-bit value to. -/
def packElem (code rm : Nat) (ns : Bool) (a : Nat) : Nat :=
  match numFmt code with
  | .int n t => convert (.int 32 true) (.int n t) rm ns a
  | .flt f => convert (.flt fF32) (.flt f) rm ns a

/-- PACK shifts two converted elements into v_d (R248). -/
def execPack (x : Args) (s : State) : Out :=
  let ls := s.lanesFor x
  let code := elemCode x
  let w := (numFmt code).width
  let e := packElem code x.rm (x.long && bitOf x.sub.toNat 4)
  let d := x.d.toNat
  let srcs := [x.a.toNat, x.b.toNat] ++ (if w < 16 then [d] else [])
  let regs := [d, x.a.toNat, x.b.toNat]
  laneRun s x 1 regs regs [s.poisonV ls srcs] (s.writeLanes ls d fun l =>
    (s.v l d * 2 ^ (2 * w) + e (s.v l x.b.toNat) * 2 ^ w + e (s.v l x.a.toNat)) % 2 ^ 32)

/-- UNPK writes element B mod (32 ÷ w) of A (R249). -/
def execUnpk (x : Args) (s : State) : Out :=
  lane2 s x fun a b => unpackElem (elemCode x) (b % (32 / (numFmt (elemCode x)).width)) a

/-- SCL: A, binary32 or INT32, times binary32 B, rounded once (R250). -/
def execScl (x : Args) (s : State) : Out :=
  lane2 s x fun a b =>
    let av := if bitOf x.sub.toNat 0 then ofSigned (s32 a) 0 false else unpack fF32 a
    roundFp fF32 x.rm x.sat (av.mul (unpack fF32 b))

/-! ### Dot products (R251, R252) -/

/-- IDP4 and IDP8: sub[0] and sub[1] read A and B as unsigned. -/
def idp (w n : Nat) (x : Args) (a b c : Nat) : Nat :=
  let p := intDot w n (!bitOf x.sub.toNat 0) (!bitOf x.sub.toNat 1) a b
  intResult x.sat (s32 c + p) (s32 c + p) 32
def execIdp4 (x : Args) (s : State) : Out := lane3 s x (idp 8 4 x)
def execIdp8 (x : Args) (s : State) : Out := lane3 s x (idp 4 8 x)

/-- The design's own choice for one R162 step of a kind of dot product (log 4). -/
def dotChoice (kind : Nat) (c : Word) (ps : List Int) : Nat := (Config.dotValue kind c ps).toNat

/-- FDP4: kinds 0 to 3 by the formats of A and B. -/
def execFdp4 (x : Args) (s : State) : Out :=
  let fa := if bitOf x.sub.toNat 0 then fE5M2 else fE4M3
  let fb := if bitOf x.sub.toNat 1 then fE5M2 else fE4M3
  lane3 s x fun a b c => dotStep (dotChoice (x.sub.toNat % 4)) (elemProducts fa fb 4 a b) c

/-- FDP2: kinds 4 and 5. -/
def execFdp2 (x : Args) (s : State) : Out :=
  let f := packedFmt x
  lane3 s x fun a b c => dotStep (dotChoice (4 + x.sub.toNat % 2)) (elemProducts f f 2 a b) c

end Sys2Proof.Machine
end

