-- ==== Sys2Proof/Machine/Control.lean ====
section
/-! DEFINITION. Machine/Control.lean: clause headers and REP (10 R205 to R207), control flow (10 R208 to R215; 02 R34 to R39), regions (10 R225,
R226), and the events of pipes, regions, sleep and task records (05 R128; 02 R44). -/

namespace Sys2Proof.Machine

/-! ### Headers, repetition, transfers -/

/-- The unit in issue behind the header `h`, its run not yet begun. -/
def MUnit.pass (u : MUnit) (h : ClhArgs) : MUnit :=
  { u with pc := pcCut (u.pc + 4), run := { start := u.pc, wait := h.wait, seta := h.seta, setb := h.setb, left := h.len.toNat, rep := none } }

/-- CLH: the unit is Waiting until the wait is met, Loading until its region is resident, then Ready (R205), and then eligible since it reached
the header (R128). A unit that has entered a trap handler keeps its pipe and begins its run at once (Table 14). -/
def execClh (h : ClhArgs) (s : State) : Out :=
  let t := { s with cur := s.cur.pass h }
  .next (
    if !s.grp.r.waitMet h.wait then { t with cur := { t.cur with st := .waiting } }
    else if s.cur.st = .issuing then t.beginRun t
    else { t with cur := { t.cur with st := s.grp.readyAs t.cur } })

/-- REP: the instruction after it is issued count times (R207). -/
def execRep (r : RepArgs) (s : State) : Out :=
  .next { s with cur := { s.cur with pc := pcCut (s.cur.pc + 4), run := { s.cur.run with rep := some { args := r, k := 0 } } } }

/-- next + 4 × off (R209). -/
def State.branchTo (s : State) (size : Nat) {w : Nat} (off : BitVec w) : DWord := pcCut (s.next size + BitVec.ofInt 64 (4 * off.toInt))

def execBra (off : BitVec 25) (s : State) : Out := .next (s.jump (s.branchTo 4 off) 1)

def brBytes (x : BrArgs) : Nat := if x.long then 8 else 4

def execBrq (x : BrArgs) (s : State) : Out :=
  .next (if s.guardU x.gp x.gn && xor (s.q x.pn.toNat) x.sense then s.jump (s.branchTo (brBytes x) x.off) 1 else s.advance (brBytes x) 1)

def execCall (off : BitVec 25) (s : State) : Out :=
  .next ((s.setSpair 126 (s.next 4).toNat).jump (s.branchTo 4 off) 1)

/-- RET and BRX: BAD_TARGET, else the address in an s-register pair (R209). -/
def jumpPair (x : Args) (s : State) : Out :=
  let a := x.a.toNat
  let t := s.spair a
  if s.guardU x.gp x.gn then
    outcome s false (firstCode [s.poisonS [a, a + 1], need (isPc t) cBadTarget t]) (s.jump (BitVec.ofNat 64 t) 1)
  else .next (s.doneU x)
def execRet (x : Args) (s : State) : Out := jumpPair x s
def execBrx (x : Args) (s : State) : Out := jumpPair x s

/-- NOP (R211). -/
def execNop (x : Args) (s : State) : Out := .next (s.doneU x)

/-! ### Divergence -/

/-- Puts the units of the group in issue back, with the unit in issue among them or ended. -/
def State.setUnits (s : State) (us : List MUnit) : State :=
  match us.find? fun u => u.id = s.cur.id with
  | some u => { s with cur := u, grp := { s.grp with units := us.filter fun v => decide (v.id ≠ u.id) } }
  | none => { s with cur := { s.cur with st := .ended }, grp := { s.grp with units := us } }

/-- The record number of a new fragment (R127). -/
def State.freeRecord (s : State) : Option Nat :=
  ((List.range 16).map fun n => n + 1).find? fun n =>
    (s.units.all fun u => u.id != n) && (List.range 16).all fun i => (s.entry i).kind == .none || (s.entry i).owner != n

/-- The lanes of a mask where a predicate, inverted by `sense`, is 1. -/
def State.takenLanes (s : State) (pn : Nat) (sense : Bool) : Mask :=
  maskOfList ((lanesOf s.cur.mask).filter fun l => decide (l < s.grp.lanes) && xor (s.p l pn) sense)

/-- A divergent BRD: the larger side goes on as this unit, the smaller one, or the taken one of two equal sides, becomes fragment `n` (R34). -/
def State.split (s : State) (ei n : Nat) (token : BitVec 8) (taken fall : Mask) (target next : DWord) : State :=
  let t := s.releaseRegion
  let e : StackEntry := { kind := .token, token := token, rpc := none, mask := 0, outstanding := 2, owner := t.cur.id, link := t.cur.top }
  let swap := decide ((lanesOf taken).length ≤ (lanesOf fall).length)
  let minor := if swap then (taken, target) else (fall, next)
  let major := if swap then (fall, next) else (taken, target)
  let now := t.cycle + 1
  let u := { ((t.cur.goTo major.2).settle now) with mask := major.1, top := some ei }
  let f : MUnit := { id := n, pc := pcOf minor.2, mask := minor.1, top := some ei, st := .ready, since := now, mopfV := u.mopfV, mopfW := u.mopfW, wrote := u.wrote }
  { t with cur := u, grp := { t.grp with stack := sset {} t.grp.stack ei e, units := insUnit f t.grp.units }, cycle := now }

/-- BRD (R34, R210): STACK_FULL, then UNIT_LIMIT, where the branch diverges. A divergent one waits for pending registers of its region (R265). -/
def execBrd (x : BrArgs) (s : State) : Out :=
  let next := s.next (brBytes x)
  let target := s.branchTo (brBytes x) x.off
  let taken := s.takenLanes x.pn.toNat x.sense
  let fall := s.cur.mask &&& ~~~ taken
  if !s.guardU x.gp x.gn ∨ taken = 0 then .next (s.jump next 1)
  else if fall = 0 then .next (s.jump target 1)
  else if s.waitsRelease then .next s.stall
  else match freeIndex s.grp.stack with
    | none => .next (s.raise ⟨cStackFull, 1⟩)
    | some ei =>
      if s.units.length ≥ 12 then .next (s.raise ⟨cUnitLimit, 0⟩)
      else match s.freeRecord with
        | none => .next (s.raise ⟨cUnitLimit, 1⟩)
        | some n => .next (s.split ei n x.token taken fall target next)

/-! ### Reconvergence (R35 to R37) -/

/-- A chain with its trap entries on top discarded (R37): the stack and the new top. -/
def dropTraps (stack : List (Nat × StackEntry)) : Nat → Option Nat → List (Nat × StackEntry) × Option Nat
  | 0, t => (stack, t)
  | _, none => (stack, none)
  | n + 1, some i =>
    let e := sget {} stack i
    if e.kind = .trap then dropTraps (sset {} stack i {}) n e.link else (stack, some i)

/-- finish(E) of R36 on the units and the stack of a group: the owner continues with the merged mask, and every other unit that waits at E
ends; or, with every lane gone, the owner ends as by EXIT and a part of the entry below is gone. -/
def finishEntry (now : Nat) : Nat → List MUnit × List (Nat × StackEntry) → Nat → List MUnit × List (Nat × StackEntry)
  | 0, us, _ => us
  | fuel + 1, (us, stack), i =>
    let e := sget ({} : StackEntry) stack i
    let stack1 := sset ({} : StackEntry) stack i {}
    if e.mask ≠ 0 then
      let w := (us.find? fun u => u.id = e.owner).getD { id := e.owner }
      let w1 := { (w.goTo (e.rpc.getD 0)) with mask := e.mask, top := e.link, st := .ready, since := now, region := none }
      (insUnit w1 (us.filter fun u => decide (u.id ≠ e.owner) && !(u.st == .tokenWait && u.top == some i)), stack1)
    else
      let us1 := us.filter fun u => decide (u.id ≠ e.owner)
      let (stack2, top) := dropTraps stack1 16 e.link
      match top with
      | none => (us1, stack2)
      | some j =>
        let p := sget ({} : StackEntry) stack2 j
        if p.kind ≠ .token then (us1, stack2)
        else
          let stack3 := sset {} stack2 j { p with outstanding := p.outstanding - 1 }
          if p.outstanding ≤ 1 then finishEntry now fuel (us1, stack3) j else (us1, stack3)

/-- part_gone(P) of R36. -/
def partGone (now : Nat) (us : List MUnit) (stack : List (Nat × StackEntry)) (j : Nat) : List MUnit × List (Nat × StackEntry) :=
  let p := sget ({} : StackEntry) stack j
  let stack1 := sset {} stack j { p with outstanding := p.outstanding - 1 }
  if p.outstanding ≤ 1 then finishEntry now 16 (us, stack1) j else (us, stack1)

/-- Writes the units and the stack back. -/
def State.setParts (s : State) (r : List MUnit × List (Nat × StackEntry)) : State :=
  { s with grp := { s.grp with stack := r.2 } }.setUnits r.1

/-- WPT with its entry E on top: the unit arrives; the last arrival finishes E (R35). -/
def State.arrive (s : State) (i : Nat) (next : DWord) : State :=
  let t := s.releaseRegion
  let e := t.entry i
  let e1 := { e with mask := e.mask ||| t.cur.mask, outstanding := e.outstanding - 1, rpc := some (e.rpc.getD next) }
  let now := t.cycle + 1
  let u := { (t.cur.goTo next) with st := .tokenWait }
  let t1 := { t with cur := u, grp := { t.grp with stack := sset {} t.grp.stack i e1 }, cycle := now }
  if e1.outstanding > 0 then t1 else t1.setParts (finishEntry now 16 (t1.units, t1.grp.stack) i)

/-- WPT (R35), which waits for pending registers of its region (R265). -/
def execWpt (x : Args) (s : State) : Out :=
  let next := s.next x.bytes
  if !s.guardU x.gp x.gn then .next (s.jump next 1)
  else if s.waitsRelease then .next s.stall
  else match s.cur.top with
    | none => .next (s.releaseRegion.jump next 1)
    | some i =>
      if (s.entry i).kind = .token ∧ (s.entry i).token.toNat = x.imm then .next (s.arrive i next)
      else .next (s.releaseRegion.jump next 1)

/-- A group without units has ended: in task mode inflight falls and the group is idle (R44), else it has ended (R37). -/
def State.groupEnd (s : State) : State :=
  if s.units ≠ [] then s
  else if s.team.taskMode then
    let part := s.team.part
    let va := s.team.taskQueue.toNat
    let d := s.readRange part s.grp.sys.domain va 64
    let t := s.writeRange part s.grp.sys.domain va 64 (setField d 383 352 (tqInflight d + 2 ^ 32 - 1))
    { t with grp := { t.grp with st := .idle, task := false } }
  else { s with grp := { s.grp with st := .ended } }

/-- EXIT outside gate calls (R37). -/
def State.exitUnit (s : State) : State :=
  let t := s.releaseRegion
  let now := t.cycle + 1
  let (stack, top) := dropTraps t.grp.stack 16 t.cur.top
  let others := t.grp.units
  let r := match top with
    | none => (others, stack)
    | some j => partGone now others stack j
  ({ t with cycle := now }.setParts r).groupEnd

/-- EXIT (R37): EXIT_IN_GATE inside a call. -/
def execExit (x : Args) (s : State) : Out :=
  if !s.guardU x.gp x.gn then .next (s.jump (s.next x.bytes) 1)
  else outcome s s.waitsRelease (need (!s.inGate) cExitInGate s.gateDepth) s.exitUnit

/-! ### Traps -/

/-- TRAP n (R212): CALLEE_TRAP inside a gate call, else delivery by R385, in one cycle (R203). -/
def execTrap (x : Args) (s : State) : Out :=
  let n := x.imm
  if !s.guardU x.gp x.gn then .next (s.jump (s.next x.bytes) 1)
  else if s.inGate then .next (s.raiseAs ⟨cCalleeTrap, n⟩ (0x10000 + n))
  else if s.waitsRelease then .next s.stall
  else .next (s.deliver (0x10000 + n) (s.next x.bytes) 1)

/-- The kind of a stack entry as a number (Table 10). -/
def EKind.code : EKind → Nat
  | .none => 0
  | .token => 1
  | .trap => 2
  | .gate => 3

/-- The kind of the top entry of the unit's chain, 0 when there is none. -/
def State.topKind (s : State) : EKind := match s.cur.top with
  | some i => (s.entry i).kind
  | none => .none

/-- TRET (R213): NO_TRAP_ENTRY, else the return. -/
def execTret (x : Args) (s : State) : Out :=
  if !s.guardU x.gp x.gn then .next (s.jump (s.next x.bytes) 1)
  else match s.cur.top with
    | some i => outcome s s.waitsRelease (need ((s.entry i).kind == .trap) cNoTrapEntry s.topKind.code) (s.trapReturn i)
    | none => .next (s.raise ⟨cNoTrapEntry, 0⟩)

/-- HALT (R215): PRIVILEGED in slots 0 to 15; in slot 16 the pilot's unit ends and the slot stops issuing. -/
def execHalt (x : Args) (s : State) : Out :=
  if !s.guardU x.gp x.gn then .next (s.jump (s.next x.bytes) 1)
  else if s.grp.slot = 16 then
    .next { s.stopPilot with cycle := s.cycle + 1 }
  else .next (s.raise ⟨cPrivileged, 0⟩)

/-! ### SLEEP -/

/-- SLEEP (R211): parks for s_a cycles; with 0 the unit yields its pipe. `aux` holds the cycle of its end. -/
def execSleep (x : Args) (s : State) : Out :=
  let n := s.sr x.a.toNat
  if !s.guardU x.gp x.gn then .next (s.jump (s.next x.bytes) 1)
  else outcome s false (s.poisonS [x.a.toNat])
    (if n = 0 then s.doneU x else s.stamp.park .sleep (.sleep x) (s.serial + 1) 0 (s.cycle + n) 0)

/-- SLEEP_EXPIRY. -/
def execSleepExpiry (u : UnitRef) (s : State) : Out :=
  onParked s u .sleep fun t p => if p.aux ≤ t.cycle then some (t.wake p.instr.size) else none

/-! ### Regions -/

/-- Units of a pipe of a core that hold a region slot. -/
def State.regionHolders (s : State) (core pipe : Nat) : List (UnitRef × MUnit) :=
  ((s.allGroups.filter fun g => g.core = core ∧ g.pipe = pipe).map fun g =>
    (g.units.filter fun u => u.region.any fun r => r.resident).map fun u => (⟨g.key, u.id⟩, u)).flatten

/-- The unit that loses its slot: the one that issued least recently and is not issuing (R225). -/
def regionVictim (us : List (UnitRef × MUnit)) : Option (UnitRef × MUnit) :=
  (us.filter fun e => e.2.st != .issuing).foldl (fun b e => match b with
    | none => some e
    | some x => if e.2.lastIssue < x.2.lastIssue then some e else some x) none

/-- Eviction: the region is written back, and the unit is Loading once it may go on (R226). -/
def State.evict (s : State) (v : UnitRef) : State :=
  s.modGroup v.group fun g =>
    match g.units.find? fun u => u.id = v.unit with
    | some u => match u.region with
      | some r => { g with r := writeBack g.r r, units := modUnitIn g.units v.unit fun u =>
          { u with region := some { r with resident := false, main := [], dirty := [] }, st := if u.st = .ready then .loading else u.st } }
      | none => g
    | none => g

/-- A free region slot of a list of holders. -/
def freeRegionSlot (us : List (UnitRef × MUnit)) : Option Nat :=
  (List.range 4).find? fun n => us.all fun e => e.2.region.all fun r => r.slot != n

/-- The unit that an RGN of the unit in issue evicts: none while a slot is free, its own counting as free (R225). -/
def State.evicts (s : State) : Option (UnitRef × MUnit) :=
  let others := (s.regionHolders s.grp.core s.grp.pipe).filter fun e => decide (e.1 ≠ s.unitRef)
  match freeRegionSlot others with
  | some _ => none
  | none => regionVictim others

/-- Takes a region slot on the unit's pipe, by eviction where none is free, and begins the load of the list (R225). -/
def State.takeRegion (s : State) (regs : List Nat) : State :=
  let t := match s.evicts with
    | some v => s.evict v.1
    | none => s
  let n := (freeRegionSlot (t.regionHolders s.grp.core s.grp.pipe)).getD 0
  { t with cur := { t.cur with region := some { slot := n, regs := regs, lanes := t.cur.mask, loading := true } } }

/-- RGN (R225): REG_BUDGET for a register of the list, else the current region is released and the list is loaded. It waits for the pending
registers that it would load, and that it or the eviction it makes would write back (R265). -/
def execRgn (regs : List (BitVec 8)) (s : State) : Out :=
  let ns := (regs.map fun r => r.toNat).dedup
  let t := s.releaseRegion
  let t1 := if ns.isEmpty then t else t.takeRegion (ns.map fun r => s.grp.budget - s.budget + r)
  let evicted := !ns.isEmpty && s.evicts.any fun v => s.releaseWaits v.1.group v.2
  outcome s (s.waitsRelease || s.pendingV ns || evicted) (s.budgetCheck ns) (t1.advance (4 * (1 + ceilDiv regs.length 4)) 1)

/-- REGION_LOAD_COMPLETE: the registers of the region are present (R225). -/
def execRegionLoadComplete (u : UnitRef) (s : State) : Out :=
  .next (s.modUnit u fun x => { x with region := x.region.map fun r => if r.resident then { r with loading := false } else r })

/-- REGION_RELOAD: a slot has freed; the evicted unit's list is loaded again and the unit becomes Ready (R226). -/
def execRegionReload (u : UnitRef) (s : State) : Out :=
  match s.select u with
  | none => .next s
  | some t =>
    match t.cur.region with
    | some r =>
      if r.resident then .next s
      else match freeRegionSlot (t.regionHolders t.grp.core t.grp.pipe) with
        | none => .next s
        | some n =>
          let x := { t.cur with region := some { r with slot := n, resident := true, loading := false, main := [], dirty := [] } }
          .next { t with cur := { x with st := if x.st = .loading then t.grp.readyAs x else x.st, since := t.cycle } }
    | none => .next s

/-! ### Pipes (R128) -/

/-- Units eligible on a pipe, each with its place in the order: earliest first, then round robin by slot after the last winner, then unit
number. -/
def State.eligible (s : State) (core pipe : Nat) : List (Nat × UnitRef) :=
  let last := (sget (16, 0) (s.core core).lastWin pipe).1
  ((s.allGroups.filter fun g => g.core = core ∧ g.pipe = pipe).map fun g =>
    (g.units.filter fun u => u.st == .ready && decide (u.run.left > 0)).map fun u =>
      (u.since * 2 ^ 12 + (g.slot + 16 - last) % 17 * 2 ^ 6 + u.id, (⟨g.key, u.id⟩ : UnitRef))).flatten

/-- Does a unit that may issue stand on a pipe at a header that it has not read? It is eligible if the header lets it pass (R128). -/
def State.headerDue (s : State) (core pipe : Nat) : Bool :=
  s.allGroups.any fun g => g.core = core && g.pipe = pipe && g.units.any fun u => u.st == .ready && u.run.left == 0 &&
    (match s.select ⟨g.key, u.id⟩ with
     | some t => t.mayIssue
     | none => false)

/-- Is a unit of a pipe issuing? -/
def State.pipeBusy (s : State) (core pipe : Nat) : Bool :=
  s.allGroups.any fun g => g.core = core && g.pipe = pipe && g.units.any fun u => u.st == .issuing

/-- The first of the eligible units that may issue. -/
def firstEligible (s : State) : List (Nat × UnitRef) → Option State
  | [] => none
  | es =>
    let ok := es.filterMap fun e => match s.select e.2 with
      | some t => if t.mayIssue then some e else none
      | none => none
    match ok.foldl (fun b e => match b with
      | none => some e
      | some (x : Nat × UnitRef) => if e.1 < x.1 then some e else some x) none with
    | some e => s.select e.2
    | none => none

/-- The winner issues; a run that begins is fetched whole (R438). -/
def State.winPipe (t : State) (core pipe : Nat) : State :=
  let u := { t.cur with st := .issuing, lastIssue := t.serial + 1 }
  let won := { t with cur := u, serial := t.serial + 1 }.modCore core fun c =>
    { c with lastWin := sset (16, 0) c.lastWin pipe (t.grp.slot, u.id), lastUnit := sset (0, 0) c.lastUnit pipe (t.grp.slot, u.id),
             served := sset (0, 0) c.served pipe (t.grp.key.stream, t.team.number) }
  if t.cur.pc = pcCut (t.cur.run.start + 4) && t.cur.run.rep.isNone then t.beginRun won else won

/-- PIPE_ARBITRATION (R128): an idle pipe, whose units have read the headers that they reached, chooses the unit that became eligible earliest. -/
def execPipeArbitration (core pipe : Nat) (s : State) : Out :=
  if s.pipeBusy core pipe || s.headerDue core pipe then .next s
  else match firstEligible s (s.eligible core pipe) with
    | none => .next s
    | some t => .next (t.winPipe core pipe)

/-! ### Task records (R44) -/

/-- The next record of a task queue and the descriptor after its pop; none while both areas are empty. Where the capacity of the area is 0 the spec
gives `i mod 0` no value and no fault: the model takes the record at the base plus 48 i (DESIGN CHOICE, log 49). -/
def tqPop (d : Nat) : Option (Nat × Nat) :=
  let busy (x : Nat) : Nat := setField x 383 352 (tqInflight d + 1)
  if tqHeld d ≠ 0 then some (tqRingBase d + 48 * (tqHead d % tqRing d), busy (setField d 159 128 (tqHead d + 1)))
  else if tqOvfCount d ≠ 0 then
    some (tqOvfBase d + 48 * (tqOvfHead d % tqOvfEntries d),
      busy (setField (setField d 351 320 (tqOvfHead d + 1)) 319 288 (tqOvfCount d - 1)))
  else none

/-- The group begins a record: full mask, empty stack, s0 to s7 and the PC; everything else is kept (R44). -/
def Group.startTask (g : Group) (rec : Nat) (bad : Nat → Bool) (now : Nat) : Group :=
  let s := (List.range 8).foldl (fun m i => sset {} m i ⟨BitVec.ofNat 32 (rec / 2 ^ (64 + 32 * i)), bad i⟩) g.r.s
  let u : MUnit := { id := 0, pc := BitVec.ofNat 64 (field rec 63 0), mask := fullMask g.lanes, since := now }
  { g with st := .live, task := true, stack := [], r := { g.r with s := s }, units := [u] }

/-- TASK_POP: an idle group of an admitted team pops a record in one device-scope step, which is an acquire (R44, R229). A translation code
or TASK_PC halts in the popping group. -/
def execTaskPop (k : GKey) (s : State) : Out :=
  match s.group? k, s.team? k.stream with
  | some g, some t =>
    let part := t.part
    let dom := g.sys.domain
    let va := t.taskQueue.toNat
    if g.st ≠ .idle ∨ !t.taskMode ∨ t.st ≠ .admitted ∨ (s.part part).halt.state ≠ 0 then .next s
    else
      let fail (c : Code) (pc : Nat) : Out := .next (s.halt part g.core g.pipe c.code c.detail pc)
      match s.rangeCode part dom va 64 true with
      | some c => fail c 0
      | none => match tqPop (s.readRange part dom va 64) with
        | none => .next s
        | some (at_, d) => match s.rangeCode part dom at_ 48 false with
          | some c => fail c 0
          | none =>
            let r := s.readRange part dom at_ 48
            let bad (i : Nat) : Bool := s.rangeBad part dom (at_ + (8 + 4 * i) / 16 * 16) 16
            let pc := field r 63 0
            if s.rangeBad part dom at_ 16 then
              .next ((s.countPoison g.core).halt part g.core g.pipe cPoison (Config.freeValue s.free % 2 ^ 64) pc)
            else if !isPc pc then fail ⟨cTaskPc, pc⟩ pc
            else .next (((s.writeRange part dom va 64 d).modGroup k fun g => g.startTask r bad s.cycle).l1DropAll g.core)
  | _, _ => .next s

end Sys2Proof.Machine
end

