-- ==== Sys2Proof/Machine/Gate.lean ====
section
/-! DEFINITION. Machine/Gate.lean: gate calls (06 R138 to R145; 10 R214): GATE, GRET and the ends of their quiesces. -/

namespace Sys2Proof.Machine

/-! ### Quiesce -/

/-- Does a list of participants hold one of a group issued before the stamp? -/
def partsHold (ps : List MPart) (g : GKey) (before : Nat) : Bool := ps.any fun p => p.who.group = g && decide (p.serial < before)

/-- Is a matrix instruction that the group issued before the stamp still incomplete, in a context queue, in a join record, or waiting for its
queue place (R319, R323)? -/
def State.matrixBusy (s : State) (g : GKey) (before : Nat) : Bool :=
  (s.cores.any fun c => c.2.mctx.any fun m => m.2.queue.any fun e => e.bundle.isNone && partsHold e.parts g before) ||
  (match s.team? g.stream with
   | some t => t.mjoins.any fun j => partsHold j.parts g before
   | none => false) ||
  (s.allGroups.any fun h => h.key.stream = g.stream && h.units.any fun u => match u.st with
    | .parked p => p.entry.any fun e => partsHold e.parts g before
    | _ => false)

/-- Does an instruction return data to lane registers? -/
def returnsData : Instr → Bool
  | .ld _ | .ldfe _ | .ldr _ | .popq _ | .atom _ | .cas _ => true
  | _ => false

/-- The quiesce of GATE and GRET: earlier data has been written, earlier matrix instructions are complete, every flag's count is 0 (R141, R206). -/
def State.quiesced (s : State) (before : Nat) : Bool :=
  let g := s.grp.key
  !(s.flights.any fun f => f.who.group = g && f.copy.isNone && decide (f.serial < before) && f.kind.returns && !f.returned) &&
  !(s.units.any fun u => match u.st with
    | .parked p => decide (p.serial < before) && returnsData p.instr
    | _ => false) &&
  !s.matrixBusy g before && s.grp.r.fcnt == []

/-! ### The call -/

/-- The checks of R141 on entry `e` for gate `n`, in its order; `ei` is the free stack entry. -/
def State.gateChecks (s : State) (n : Nat) (e : BitVec 128) : Option Code :=
  let b := s.budget
  let cb := geCb e
  let nestOk := match s.frame? with
    | some f => geNest f.entry
    | none => true
  firstCode [
    need (geValid e && domValid (s.myPart.domain (geDomain e))) cGateInvalid n,
    need (domGate s.myDomain n) cGateDenied n,
    need (decide (s.gateDepth < 4) && nestOk) cGateDepth n,
    need (decide (cb ≤ b)) cGateEntryBad (n + 1 * 2 ^ 32),
    need (decide (geVargs e ≤ cb ∧ geVret e ≤ cb ∧ geSargs e ≤ 128 ∧ geSret e ≤ 128)) cGateEntryBad (n + 2 * 2 ^ 32),
    need (decide (geSpBase e + geSpSize e ≤ s.team.size / 16384)) cGateEntryBad (n + 3 * 2 ^ 32),
    need (freeIndex s.grp.stack).isSome cStackFull 3]

/-- Registers of the callee: the arguments in the top cb registers of the caller's budget, zero elsewhere in the window, the first sargs
s-registers kept and all other uniform state zero (R140, R141). `off` is the caller's register 0 in the main file. -/
def enterRegs (r : Regs) (e : BitVec 128) (off b lanes : Nat) : Regs :=
  let cb := geCb e
  let lo := off + b - cb
  let v0 := r.v.filter fun x => decide (x.1 % 256 < lo) || decide (x.1 % 256 ≥ off + b)
  let v := (List.range lanes).foldl (fun m l => (List.range (geVargs e)).foldl (fun m k =>
    sset {} m (l * 256 + lo + k) (sget {} r.v (l * 256 + off + k))) m) v0
  { r with v := v, vw := r.vw.noteSpan lo cb, p := [], s := r.s.filter fun x => decide (x.1 < geSargs e), q := 0, x := [], fbits := 0 }

/-- Other units of the group are Held while the call runs (R38), and keep no value in the window. -/
def holdUnit (lo hi : Nat) (u : MUnit) : MUnit :=
  let st := if u.st = .ready ∨ u.st = .issuing ∨ u.st = .loading then .held else u.st
  { u with st := st, region := u.region.map fun r => { r with main := r.main.filter fun x => decide (x.1 % 256 < lo) || decide (x.1 % 256 ≥ hi) } }

/-- The call of R141 after its checks, for the unit in issue at its GATE of `size` bytes. -/
def State.enterGate (s : State) (e : BitVec 128) (ei size : Nat) : State :=
  let t := s.releaseRegion
  let b := s.budget
  let off := s.grp.budget - b
  let entry : StackEntry := { kind := .gate, rpc := some (t.next size), mask := t.cur.mask, outstanding := 0, owner := t.cur.id, link := t.cur.top }
  let slots := t.loadBank t.team.part (geDomain e) (domBank (t.myPart.domain (geDomain e)))
  let frame : GateFrame := { entry := e, domain := t.dom, budget := b, s := t.grp.r.s, q := t.grp.r.q, x := t.grp.r.x, fbits := t.grp.r.fbits,
                             slots := slots }
  let g := { t.grp with r := enterRegs t.grp.r e off b t.grp.lanes, stack := sset {} t.grp.stack ei entry, frames := frame :: t.grp.frames,
                        sys := { t.grp.sys with domain := geDomain e },
                        units := t.grp.units.map (holdUnit (off + b - geCb e) (off + b)) }
  let g1 := t.rederive t.team g
  { t with grp := g1, cur := { (t.cur.goTo (BitVec.ofNat 64 (gePc e))) with top := some ei, st := .ready, since := t.cycle } }

/-- GATE n (R214): the unit parks for its quiesce. `aux` holds the gate number. -/
def State.parkGate (s : State) (i : Instr) (n : Nat) : State := s.stamp.park .gate i (s.serial + 1) 0 n 0

/-- The immediate form. -/
def execGate (x : Args) (s : State) : Out :=
  if s.guardU x.gp x.gn then .next (s.parkGate (.gate x) x.imm) else .next (s.jump (s.next x.bytes) 1)

/-- The register form: 256 or more is GATE_ENTRY_BAD, check 4. -/
def execGateRegister (x : Args) (s : State) : Out :=
  let n := s.sr x.a.toNat
  if s.guardU x.gp x.gn then
    outcome s false (firstCode [s.poisonS [x.a.toNat], need (decide (n < 256)) cGateEntryBad (n + 4 * 2 ^ 32)])
      (s.parkGate (.gateRegister x) n)
  else .next (s.jump (s.next x.bytes) 1)

/-- GATE_QUIESCE_END (R141): the entry is read, checked, and the call entered, unless a call runs that the unit is not in (R38). -/
def execGateQuiesceEnd (u : UnitRef) (s : State) : Out :=
  onParked s u .gate fun t p =>
    if t.grp.holds t.cur || !t.quiesced p.serial then none
    else
      let e := sget (0 : BitVec 128) t.myPart.gates p.aux
      match t.gateChecks p.aux e with
      | some c => some (t.raise c)
      | none => match freeIndex t.grp.stack with
        | some ei => some (t.enterGate e ei p.instr.size)
        | none => none

/-- GRET (R142): GATE_NO_GATE, else the unit parks for its quiesce. -/
def execGret (x : Args) (s : State) : Out :=
  if !s.guardU x.gp x.gn then .next (s.jump (s.next x.bytes) 1)
  else outcome s false (need (s.topKind == .gate) cGateNoGate s.topKind.code) (s.stamp.park .gret (.gret x) (s.serial + 1) 0 0 0)

/-- GRET_QUIESCE_END (R142): the caller's state is restored, with the results in place and q15 = 0. -/
def execGretQuiesceEnd (u : UnitRef) (s : State) : Out :=
  onParked s u .gret fun t p =>
    match t.cur.top, t.grp.frames with
    | some gi, f :: _ =>
      if !t.quiesced p.serial then none
      else
        let t1 := t.releaseRegion
        let lo := t1.grp.budget - geCb f.entry
        let t2 := t1.gateReturn f (t1.entry gi) gi (fun l k => sget {} t1.grp.r.v (l * 256 + lo + k)) (fun k => sget {} t1.grp.r.s k) false
        some { t2 with cur := { t2.cur with st := t2.grp.readyAs t2.cur, since := t2.cycle } }
    | _, _ => none

end Sys2Proof.Machine
end

