-- ==== Sys2Proof/Machine/Matrix.lean ====
section
/-! DEFINITION. Machine/Matrix.lean: the matrix instructions at issue (13 R295 to R305, R308, R313, R314; 21 Table 153), MOPF, MWAIT and MQRY
(13 R317 to R320). Engine.lean holds the engine. -/

namespace Sys2Proof.Machine

/-! ### Format words, shapes and blocks -/

/-- Fields of a format word (Table 44). -/
def mfA (f : Nat) : Nat := field f 3 0
def mfB (f : Nat) : Nat := field f 7 4
def mfAcc (f : Nat) : Nat := field f 11 10
def mfFusion (f : Nat) : Nat := field f 13 12

/-- Is a format word well formed (R160)? -/
def mfOk (f : Nat) : Bool :=
  let a := mfA f
  let b := mfB f
  field f 31 14 == 0 &&
  (if a ≤ 1 then a == b && decide (mfAcc f ≤ 1)
   else mfAcc f == 2 && field f 9 8 == 0 && (((a == 2 || a == 3) && (b == 2 || b == 3)) || ((a == 4 || a == 5) && a == b)))

/-- Does MRSUM take a format word (R309)? -/
def mfSumOk (f : Nat) : Bool := field f 31 14 == 0 && decide (mfA f ≤ 1) && decide (mfAcc f ≤ 1)

/-- M and N of a fusion (Table 101). -/
def mShape (fusion : Nat) : Nat × Nat :=
  match fusion with
  | 0 => (16, 16)
  | 1 => (16, 64)
  | 2 => (32, 32)
  | _ => (64, 16)
/-- Tiles of a stepping instruction. -/
def mTiles (f : Nat) : Nat := if mfFusion f = 0 then 1 else 4
/-- The K-step (Table 45), and the width of an element of A and B in bits. -/
def mKs (f : Nat) : Nat := if mfA f = 1 then 32 else if mfA f ≤ 3 then 16 else 8
def mWidth (f : Nat) : Nat := 128 / mKs f

/-- Fields of the descriptors (Tables 105, 106; R313). -/
def mdWord (d : List Word) (i : Nat) : Nat := (d.getD i 0).toNat
def mdSteps (d : List Word) : Nat := field (mdWord d 0) 11 0 + 1
def mdTile (d : List Word) : Nat := field (mdWord d 0) 24 16
def mdASlot (d : List Word) : Nat := field (mdWord d 1) 4 0
def mdBSlot (d : List Word) : Nat := field (mdWord d 1) 12 8
def mtTile (d : List Word) : Nat := field (mdWord d 0) 8 0
def mtCount (d : List Word) : Nat := field (mdWord d 0) 24 16 + 1
def mtMode (d : List Word) : Nat := field (mdWord d 1) 10 8
def mtDSlot (d : List Word) : Nat := field (mdWord d 1) 4 0
def mtPSlot (d : List Word) : Nat := field (mdWord d 1) 20 16

def MKind.steps : MKind → Bool
  | .mloop | .mrsum => true
  | _ => false

/-- The tiles that an instruction names, from the start of its grant. -/
def MEntry.span (e : MEntry) : Nat × Nat := if e.kind.steps then (mdTile e.desc, mTiles e.fmt.toNat) else (mtTile e.desc, mtCount e.desc)

/-! ### Checks (R298, R299, R305, R309, R313, R314) -/

/-- MATRIX_TILE: the lowest tile at or above the grant. -/
def tileCheck (t n grant : Nat) : Option Code := need (decide (t + n ≤ grant)) cMatrixTile (max t grant % 512 + grant * 2 ^ 16)

/-- The checks of a stepping instruction between its vote and its operands. -/
def stepChecks (kind : MKind) (amode f : Nat) (d : List Word) (bound : Bool) (grant : Nat) : Option Code :=
  let d1 := mdWord d 1
  firstCode [
    need (if kind = .mrsum then mfSumOk f else mfOk f) cMatrixFormat f,
    need (Nat.land (mdWord d 0) 0xFE00F000 == 0 && (decide (amode < 2) || decide (mdSteps d ≤ 64))) cMatrixDesc 0,
    need (Nat.land d1 0xE0E0 == 0 && (kind == .mrsum || d1 / 2 ^ 16 == 0)) cMatrixDesc 1,
    need bound cMatrixNoContext 0,
    tileCheck (mdTile d) (mTiles f) grant]

/-- The checks of a transfer before its operands. -/
def transferChecks (kind : MKind) (d : List Word) (bound : Bool) (grant : Nat) : Option Code :=
  let d0 := mdWord d 0
  let d1 := mdWord d 1
  firstCode [
    need (Nat.land d0 0xFE00FE00 == 0) cMatrixDesc 0,
    if kind = .mzero then none
    else need (Nat.land d1 0x0060F8E0 == 0 && decide (mtMode d ≤ (if kind = .mlda then 0 else 2))) cMatrixDesc 1,
    need bound cMatrixNoContext 0,
    tileCheck (mtTile d) (mtCount d) grant]

def operandCode (slot why : Nat) : Code := ⟨cMatrixOperand, slot + why * 2 ^ 5⟩

/-- The slice offset of `w` bytes at address `a` of a slot: on the core's own slice, within the allocation. -/
def mPlace (v : SpadEnv) (y : BitVec 512) (slot : Nat) (a : Int) (w : Nat) : Except Code Nat :=
  if !inRange32 a then .error (operandCode slot 5)
  else if (spadCore v a.toNat).any fun c => c != v.core then .error (operandCode slot 2)
  else match spadPlace v a.toNat w with
    | .ok (_, b, o) => .ok (b + permute y o)
    | .error _ => .error (operandCode slot 5)

/-- The results of a list of checked computations, or the first error. -/
def allOk {α : Type} : List (Except Code α) → Except Code (List α)
  | [] => .ok []
  | .error c :: _ => .error c
  | .ok x :: xs => match allOk xs with
    | .ok ys => .ok (x :: ys)
    | .error c => .error c

/-- A block of `h` chunks (R299): for each chunk the slice offsets of its 16 bytes; none when it is out of extent under oob = 1. -/
def blockOf (v : SpadEnv) (y : BitVec 512) (slot : Nat) (c : Nat × Nat) (h : Nat) : Except Code (Option (List (List Nat))) :=
  if y = 0 then .error (operandCode slot 7)
  else if lySpace y ≠ 0 then .error (operandCode slot 1)
  else match layoutOffset y [c.1, c.2, 0, 0, 0] with
    | .error _ => if lyOob y then .ok none else .error (operandCode slot 4)
    | .ok o =>
      if o % 16 ≠ 0 then .error (operandCode slot 3)
      else
        let byte (i : Nat) : Except Code Nat := mPlace v y slot ((lyBase y : Int) + o + i) 1
        match allOk ((List.range h).map fun m => allOk ((List.range 16).map fun i => byte (16 * m + i))) with
        | .ok bs => .ok (some bs)
        | .error c => .error c

/-- One element of `w` bytes of a transfer slot (R314, R316): its slice offset, none when it is out of extent under oob = 1. -/
def elemOf (v : SpadEnv) (y : BitVec 512) (slot : Nat) (c : Nat × Nat) (w : Nat) : Except Code (Option Nat) :=
  if lySpace y ≠ 0 then .error (operandCode slot 1)
  else match layoutOffset y [c.1, c.2, 0, 0, 0] with
    | .error _ => if lyOob y then .ok none else .error (operandCode slot 4)
    | .ok o => match mPlace v y slot ((lyBase y : Int) + o) w with
      | .ok p => .ok (some p)
      | .error c => .error c

/-- An element of a tile and its place in the data slot. -/
structure MCell where
  tile : Nat
  r : Nat
  j : Nat
  off : Option Nat
deriving DecidableEq, Repr, Inhabited

/-- Width in bytes of an element of the data slot (R314). -/
def mtBytes (d : List Word) : Nat := if mtMode d = 0 then 4 else 1

/-- The elements of a transfer that MLDA or MDRN moves (R314). -/
def transferCells (v : SpadEnv) (y : BitVec 512) (d : List Word) : Except Code (List MCell) :=
  let slot := mtDSlot d
  if y = 0 then .error (operandCode slot 7)
  else if lyEsize y ≠ (if mtMode d = 0 then 2 else 0) then .error (operandCode slot 6)
  else
    let cell (i r j : Nat) : Except Code MCell :=
      match elemOf v y slot (mdWord d 2 + 16 * i + j, mdWord d 3 + r) (mtBytes d) with
      | .ok p => .ok ⟨i, r, j, p⟩
      | .error c => .error c
    allOk ((List.range (mtCount d)).flatMap fun i => (List.range 16).flatMap fun r => (List.range 16).map fun j => cell i r j)

/-- The parameter records of MDRN in modes 1 and 2, by column (R316). -/
def paramCells (v : SpadEnv) (y : BitVec 512) (d : List Word) : Except Code (List (Option Nat)) :=
  let slot := mtPSlot d
  if y = 0 then .error (operandCode slot 7)
  else if lyEsize y ≠ 3 then .error (operandCode slot 6)
  else allOk ((List.range (16 * mtCount d)).map fun q => elemOf v y slot (q, 0) 8)

/-- MATRIX_OPERAND at issue: the blocks of the first step, or every element of a transfer. -/
def MEntry.operandCheck (e : MEntry) (v : SpadEnv) : Option Code :=
  let (m, n) := mShape (mfFusion e.fmt.toNat)
  match e.kind with
  | .mloop => firstCode [if e.amode < 2 then errorOf (blockOf v e.aslot (mdASlot e.desc) e.ca m) else none,
                         errorOf (blockOf v e.bslot (mdBSlot e.desc) e.cb n)]
  | .mrsum => if e.amode < 2 then errorOf (blockOf v e.aslot (mdASlot e.desc) e.ca m) else none
  | .mzero => none
  | .mlda => errorOf (transferCells v e.aslot e.desc)
  | .mdrn => firstCode [errorOf (transferCells v e.aslot e.desc), if mtMode e.desc = 0 then none else errorOf (paramCells v e.bslot e.desc)]

/-! ### Issue (R303, R304) -/

/-- The vote of R304: the word of the lowest active lane, and whether every active lane holds it. -/
def State.vote (s : State) (vf : Nat) : Nat × Bool :=
  let ws := ((lanesOf s.cur.mask).filter fun l => decide (l < s.grp.lanes)).map fun l => s.v l vf
  let f := ws.headD 0
  (f, ws.all fun w => w == f)

/-- The address of the word after a run's last instruction, of `n` left from `pc` (R385). -/
def State.runEnd (s : State) (pc : Nat) : Nat → Except Code Nat
  | 0 => .ok pc
  | n + 1 => match s.extent pc with
    | .error c => .error c
    | .ok k => s.runEnd (pc + 4 * k) n

/-- The passes of an MTX instruction, and the stalls of a format register outside the region (R25, R227). -/
def State.costM (s : State) (used : List Nat) : Nat := passes s.cur.mask * (1 + 4 * s.outside used)
def State.doneM (s : State) (x : Args) (used : List Nat) : State := s.advance x.bytes (s.costM used)

/-- FORMAT_DIVERGENCE is delivered as a trap that resumes behind the run (R304, R385). -/
def State.divergence (s : State) (vf : Nat) : State :=
  if s.waitsRelease then s.stall
  else match s.runEnd s.cur.pc.toNat s.cur.run.left with
  | .ok pc => s.deliver cFormatDivergence (BitVec.ofNat 64 pc) (s.costM [vf])
  | .error c => s.raise c

def State.descWords (s : State) (c n : Nat) : List Word := (List.range n).map fun i => (s.sreg (c + i)).val

/-- The unit in issue as the issuer of a matrix instruction, or as participant `p`. -/
def State.mpart (s : State) (x : Args) (p serial f : Nat) (d : List Word) : MPart :=
  { who := s.unitRef, p := p, mask := s.cur.mask, areg := x.a.toNat, flag := s.countedFlag x.mflag, serial := serial,
    fmt := BitVec.ofNat 32 f, desc := d, vat := s.cur.mopfV, wat := s.cur.mopfW, stale := s.cur.wrote }

/-- The queue entry of an instruction of the team in issue, with what R303 reads at issue. -/
def State.mentry (s : State) (kind : MKind) (amode f : Nat) (d : List Word) (parts : List MPart) : MEntry :=
  let (sa, sb) := if kind.steps then (mdASlot d, mdBSlot d) else (mtDSlot d, mtPSlot d)
  { id := s.serial, kind := kind, stream := s.team.stream, part := s.team.part, domain := s.dom, core := s.grp.core, parts := parts,
    fmt := BitVec.ofNat 32 f, desc := d, amode := amode, aslot := s.slot sa, bslot := s.slot sb, tile0 := s.team.tile0, tiles := s.team.tiles,
    ca := (mdWord d 2, mdWord d 3), cb := (mdWord d 4, mdWord d 5), issued := s.mem.log.count, since := s.cycle }

def matrixQueueSize : Nat := 16

/-- Appends an entry to a context queue. -/
def State.enqueueM (s : State) (core ctx : Nat) (e : MEntry) : State :=
  s.modCore core fun c => c.setCtx ctx { c.ctx ctx with queue := (c.ctx ctx).queue ++ [e] }

/-- Is there a place in a context's queue for an instruction with an issue stamp: the queue is not full, and no unit waits there with an earlier
instruction (R303, R310)? -/
def State.placeOpen (s : State) (core ctx before : Nat) : Bool :=
  decide (((s.core core).ctx ctx).queue.length < matrixQueueSize) &&
  !(s.allGroups.any fun g => g.core == core && g.st == .live && (match s.team? g.key.stream with
    | some t => t.st == .admitted && t.ctx.getD 0 == ctx
    | none => false) && g.units.any fun u => match u.st with
      | .parked p => p.why == .matrixPlace && decide (p.serial < before)
      | _ => false)

/-- The entry takes its queue place and the instruction completes, or the unit parks until a place frees (R303). `used` are the registers that the
instruction reads. -/
def State.placeM (s : State) (i : Instr) (x : Args) (used : List Nat) (e : MEntry) : State :=
  let ctx := s.team.ctx.getD 0
  if s.placeOpen s.grp.core ctx e.id then (s.enqueueM s.grp.core ctx e).doneM x used
  else
    let t := { s with cycle := s.cycle + s.costM used }
    { t with cur := { t.cur with st := .parked { why := .matrixPlace, instr := i, serial := e.id, since := t.cycle, entry := some e } } }

/-- The shape of an MTX instruction: nothing without an executing lane, else GATE_FORBIDDEN, POISON, and the rest. -/
def mtxRun (i : Instr) (x : Args) (named vregs sregs : List Nat) (s : State) (go : State → Out) : Out :=
  let ls := s.lanesFor x
  if s.waitsV vregs then .next s.stall
  else match s.budgetCheck named with
    | some c => .next (s.raise c)
    | none =>
      if ls.isEmpty then .next (s.doneM x vregs)
      else match firstCode [s.forbidden (firstWord i), s.poisonV ls vregs, s.poisonS sregs] with
        | some c => .next (s.raise c)
        | none => go s.stamp

/-- Registers that a stepping instruction names: vf, and register A over all its steps (R298). -/
def State.stepRegs (s : State) (x : Args) : List Nat :=
  [x.d.toNat] ++ (if x.amode ≥ 2 then (List.range (4 * (field (s.sr x.c.toNat) 11 0 + 1))).map fun i => x.a.toNat + i else [])

def regList (c n : Nat) : List Nat := (List.range n).map fun i => c + i

/-- MLOOP and MRSUM at issue (R303 to R306, R309). -/
def stepRun (i : Instr) (kind : MKind) (x : Args) (s : State) : Out :=
  mtxRun i x (s.stepRegs x) [x.d.toNat] (regList x.c.toNat 8) s fun t =>
    let (f, agreed) := t.vote x.d.toNat
    let d := t.descWords x.c.toNat 8
    if !agreed then .next (s.divergence x.d.toNat)
    else
      let e := t.mentry kind x.amode f d [t.mpart x 0 t.serial f d]
      outcome s false (firstCode [stepChecks kind x.amode f d t.team.ctx.isSome t.team.tiles, e.operandCheck (t.spadEnv t.team t.dom none)])
        ((t.flagIssue (t.countedFlag x.mflag)).placeM i x [x.d.toNat] e)

/-- MLOOP (R306). -/
def execMloop (x : Args) (s : State) : Out := stepRun (.mloop x) .mloop x s
/-- MRSUM (R309). -/
def execMrsum (x : Args) (s : State) : Out := stepRun (.mrsum x) .mrsum x s

/-- MZERO, MLDA and MDRN at issue (R303, R313). -/
def transferRun (i : Instr) (kind : MKind) (x : Args) (s : State) : Out :=
  let n := if kind = .mzero then 1 else 4
  mtxRun i x [] [] (regList x.c.toNat n) s fun t =>
    let d := t.descWords x.c.toNat n
    let e := t.mentry kind 0 0 d [t.mpart x 0 t.serial 0 d]
    outcome s false (firstCode [transferChecks kind d t.team.ctx.isSome t.team.tiles, e.operandCheck (t.spadEnv t.team t.dom none)])
      ((t.flagIssue (t.countedFlag x.mflag)).placeM i x [] e)

def execMzero (x : Args) (s : State) : Out := transferRun (.mzero x) .mzero x s
def execMlda (x : Args) (s : State) : Out := transferRun (.mlda x) .mlda x s
def execMdrn (x : Args) (s : State) : Out := transferRun (.mdrn x) .mdrn x s

/-! ### MLOOPJ (R308) -/

def jN (x : Args) : Nat := field x.b.toNat 7 6 + 1
def jP (x : Args) : Nat := field x.b.toNat 5 4
def jTag (x : Args) : Nat := field x.b.toNat 3 0
def joinCode (x : Args) (why : Nat) : Code := ⟨cMatrixJoin, jTag x + (jN x - 1) * 2 ^ 4 + jP x * 2 ^ 6 + why * 2 ^ 8⟩

/-- Discards a join record; each recorded participant's flag count falls by 1 (R308). -/
def State.discardJoin (s : State) (tag : Nat) : State :=
  match s.team.mjoins.find? fun j => j.tag = tag with
  | none => s
  | some j =>
    let t := { s with team := { s.team with mjoins := s.team.mjoins.filter fun k => decide (k.tag ≠ tag) } }
    j.parts.foldl (fun (t : State) p => t.flagDone p.who.group p.flag) t

/-- Adds a participant to its record, which it creates when there is none. -/
def addPart (js : List MJoin) (x : Args) (p : MPart) : List MJoin :=
  if js.any fun j => j.tag = jTag x then js.map fun j => if j.tag = jTag x then { j with parts := j.parts ++ [p] } else j
  else js ++ [{ tag := jTag x, n := jN x, parts := [p] }]

/-- MLOOPJ (R308): the participant votes and is checked, and is recorded, or, as the last one, queues the joint instruction. No compared word holds the
amode, in which participants may differ: the joint instruction takes the last one's (DESIGN CHOICE, log 27). -/
def execMloopj (x : Args) (s : State) : Out :=
  mtxRun (.mloopj x) x (s.stepRegs x) [x.d.toNat] (regList x.c.toNat 8) s fun t =>
    let (f, agreed) := t.vote x.d.toNat
    let d := t.descWords x.c.toNat 8
    let me := t.mpart x (jP x) t.serial f d
    let old := t.team.mjoins.find? fun j => j.tag = jTag x
    let parts := match old with
      | some j => j.parts
      | none => []
    let sameN := match old with
      | some j => j.n == jN x
      | none => true
    let newP := parts.all fun p => p.p != jP x
    let last := sameN && newP && parts.length + 1 == jN x
    let equal := parts.all fun p => p.fmt == me.fmt && p.desc == me.desc
    let shapeOk := decide (x.amode < 2) || (mShape (mfFusion f)).1 == 16 * jN x
    let e := t.mentry .mloop x.amode f d (parts ++ [me])
    if !agreed || (last && !equal) then .next (if last && !s.waitsRelease then (s.discardJoin (jTag x)).divergence x.d.toNat else s.divergence x.d.toNat)
    else match stepChecks .mloop x.amode f d t.team.ctx.isSome t.team.tiles with
      | some c => .next (s.raise c)
      | none =>
        if !sameN then .next (s.raise (joinCode x 1))
        else if !newP then .next (s.raise (joinCode x 2))
        else if last && !shapeOk then .next ((s.discardJoin (jTag x)).raise (joinCode x 3))
        else match e.operandCheck (t.spadEnv t.team t.dom none) with
          | some c => .next (s.raise c)
          | none =>
            let t1 := t.flagIssue me.flag
            if last then
              let t2 := { t1 with team := { t1.team with mjoins := t1.team.mjoins.filter fun j => decide (j.tag ≠ jTag x) } }
              .next (t2.placeM (.mloopj x) x [x.d.toNat] e)
            else .next ({ t1 with team := { t1.team with mjoins := addPart t1.team.mjoins x me } }.doneM x [x.d.toNat])

/-- MATRIX_QUEUE_PLACE: a place has freed, and no earlier instruction waits for it (R310). -/
def execMatrixQueuePlace (u : UnitRef) (s : State) : Out :=
  onParked s u .matrixPlace fun t p =>
    match p.entry with
    | none => none
    | some e =>
      let ctx := t.team.ctx.getD 0
      if t.placeOpen t.grp.core ctx e.id then
        let e1 := { e with core := t.grp.core, tile0 := t.team.tile0 }
        some ((t.enqueueM t.grp.core ctx e1).wake p.instr.size)
      else none

/-! ### MOPF, MWAIT and MQRY (R317 to R320) -/

/-- The operands that the unit's later matrix instructions read are those of now (R318). -/
def State.mopfDone (s : State) : State := { s with cur := { s.cur with mopfV := s.grp.r.vw.count, mopfW := s.mem.log.count, wrote := [] } }

def execMopf (x : Args) (s : State) : Out :=
  uniformPark s x [s.forbidden (firstWord (.mopf x))] fun t =>
    if t.localDone t.unitRef t.serial then t.mopfDone.doneU x else t.park .mopf (.mopf x) t.serial 0 0 0

def execMopfComplete (u : UnitRef) (s : State) : Out :=
  onParked s u .mopf fun t p => if t.localDone u p.serial then some (t.mopfDone.wake p.instr.size) else none

def execMwait (x : Args) (s : State) : Out :=
  uniformPark s x [] fun t => if t.matrixBusy t.grp.key t.serial then t.park .mwait (.mwait x) t.serial 0 0 0 else t.doneU x

def execMwaitComplete (u : UnitRef) (s : State) : Out :=
  onParked s u .mwait fun t p => if t.matrixBusy t.grp.key p.serial then none else some (t.wake p.instr.size)

/-- The owner of a context's latch; a latch whose owner has ended with no instruction of it left is released (R307). -/
def State.latch? (s : State) (core ctx : Nat) : Option (GKey × Nat × Nat × Nat) :=
  match ((s.core core).ctx ctx).latch with
  | none => none
  | some l =>
    let gone := match s.group? l.1 with
      | some g => g.st == .ended
      | none => true
    if gone && !s.matrixBusy l.1 (s.serial + 1) then none else some l

/-- The matrix instructions of a group that are not complete: participations queued, recorded or waiting for a place. -/
def State.matrixCount (s : State) (g : GKey) : Nat :=
  let n (ps : List MPart) : Nat := (ps.filter fun p => decide (p.who.group = g)).length
  (s.cores.map fun c => (c.2.mctx.map fun m => (m.2.queue.map fun e => if e.bundle.isNone then n e.parts else 0).sum).sum).sum +
  (match s.team? g.stream with
   | some t => (t.mjoins.map fun j => n j.parts).sum
   | none => 0) +
  (s.allGroups.map fun h => (h.units.map fun u => match u.st with
    | .parked p => match p.entry with
      | some e => n e.parts
      | none => 0
    | _ => 0).sum).sum

/-- Table 108. -/
def State.matrixQuery (s : State) (sel : Nat) : Nat :=
  match sel with
  | 0 => s.team.tiles * 2 ^ 16 + (match s.team.ctx with
    | some c => 2 + c
    | none => 0)
  | 1 =>
    let (queued, owns) := match s.team.ctx with
      | some c => (((s.core s.grp.core).ctx c).queue.length, (s.latch? s.grp.core c).any fun (l : GKey × Nat × Nat × Nat) => l.1 == s.grp.key)
      | none => (0, false)
    (if owns then 2 ^ 16 else 0) + queued * 2 ^ 8 + min (s.matrixCount s.grp.key) 31
  | _ => s.team.tileSteps % 2 ^ 32

def execMqry (x : Args) (s : State) : Out := uniformOp s x [] fun t => t.setSw x.d.toNat (s.matrixQuery x.a.toNat)

end Sys2Proof.Machine
end

