-- ==== Sys2Proof/Machine/Room.lean ====
section
/-! DEFINITION. Machine/Room.lean: what a team or a matrix stream takes of a core (05 R118, Table 32), what a core has left (R112, R116), and
where the parts go (R62, R119). Launch descriptors are those of 08 Tables 50 and 51. -/

namespace Sys2Proof.Machine

/-! ### Launch descriptors (Tables 50 and 51) -/

def ldGroups (d : Nat) : Nat := field d 56 52
def ldRoles (d : Nat) : Nat := field d 51 48
def ldSp16 (d : Nat) : Nat := field d 584 576
def ldTiles (d : Nat) : Nat := field d 594 585
def ldReplies (d : Nat) : Nat := field d 605 595
def ldQueues (d : Nat) : Nat := field d 613 606
def ldCx (d : Nat) : Nat := field d 616 614 + 1
def ldCy (d : Nat) : Nat := field d 619 617 + 1
def ldCz (d : Nat) : Nat := field d 622 620 + 1
def ldCluster (d : Nat) : Nat := ldCx d * ldCy d * ldCz d
def ldNvec (d : Nat) : Nat := field d 625 623
/-- Vector `i`: dx, dy, dz. -/
def ldVec (d i : Nat) : Int × Int × Int :=
  (signedOf (field d (643 + 12 * i) (640 + 12 * i)) 4, signedOf (field d (647 + 12 * i) (644 + 12 * i)) 4,
   signedOf (field d (651 + 12 * i) (648 + 12 * i)) 4)
/-- Role record `i`. -/
def ldRole (d i : Nat) : Nat := field d (191 + 128 * i) (64 + 128 * i)
def lrPc (r : Nat) : Nat := field r 56 0
def lrGroups (r : Nat) : Nat := field r 68 64
def lrLanes (r : Nat) : Nat := 32 * (field r 73 69 + 1)
def lrBudget (r : Nat) : Nat := 8 * (field r 78 74 + 1)
/-- The roles in use. -/
def ldRoleList (d : Nat) : List Nat := (List.range (ldRoles d)).map fun i => ldRole d i

/-! ### Matrix-stream descriptors (Table 109) -/

def msBase (n : Nat) : Nat := field n 63 0
def msSlots (n : Nat) : Nat := field n 95 64
def msSp16 (n : Nat) : Nat := field n 104 96
def msTiles (n : Nat) : Nat := field n 121 112
def msLayouts (n : Nat) : Nat := field n 191 128

def State.ctxQueue (s : State) (core ctx : Nat) : List MEntry := ((s.core core).ctx ctx).queue

/-- The work of a stream that is not complete: matrix entries and copy requests. -/
def State.streamBusy (s : State) (m : MStream) (bundle : Nat) : Bool :=
  ((List.range 2).any fun c => (s.ctxQueue m.core c).any fun e => e.bundle == some (bundle, m.sub)) ||
  (s.core m.core).copies.any fun r => r.bundle == some (bundle, m.sub)

/-- Is a stream complete: every command has completed (R325)? -/
def State.streamDone (s : State) (m : MStream) (bundle : Nat) : Bool :=
  m.placed && decide (msSlots m.desc.toNat ≤ m.next) && !s.streamBusy m bundle

/-! ### Amounts (Table 32) -/

/-- What a team or a stream takes of one core. -/
structure Need where
  slots : Nat := 0
  regs : Nat := 0
  size : Nat := 0
  tiles : Nat := 0
  replies : Nat := 0
  hqs : BitVec 8 := 0
  tables : Nat := 1
  chans : Nat := 0
deriving DecidableEq, Repr, Inhabited

/-- The amounts of a team of a launch descriptor. -/
def needOf (d : Nat) : Need :=
  { slots := ldGroups d, regs := ((ldRoleList d).map fun r => lrGroups r * lrLanes r * lrBudget r).sum, size := 16384 * ldSp16 d,
    tiles := ldTiles d, replies := ldReplies d, hqs := BitVec.ofNat 8 (ldQueues d) }

/-- The amounts of a matrix stream (R324). -/
def streamNeed (d : Nat) : Need := { size := 16384 * msSp16 d, tiles := msTiles d }

/-- The grid of a team. -/
def State.gridOf (s : State) (t : Team) : Grid := ((s.part t.part).grids.find? fun g => g.id = t.grid).getD {}

/-- The room of one holder on a core: its amounts, and where its allocation and its tiles stand. -/
structure Holder where
  need : Need
  room : Room
deriving DecidableEq, Repr, Inhabited

/-- What a core's admitted teams, Reserved teams and matrix streams hold; `gone` names the streams of teams to leave out (R130). -/
def State.holders (s : State) (part core : Nat) (gone : List Nat) : List Holder :=
  let p := s.part part
  let teams := s.allTeams.filter fun t => decide (t.core = core) && t.st.resident && !gone.contains t.stream
  let a := teams.map fun t => ⟨needOf (s.gridOf t).desc.toNat, { core := core, base := t.base, ctx := t.ctx, tile0 := t.tile0 }⟩
  let b := p.grids.flatMap fun g => g.reserved.flatMap fun r => (r.rooms.filter fun x => decide (x.core = core)).map fun x => ⟨needOf g.desc.toNat, x⟩
  let c := p.bundles.flatMap fun b => (b.streams.filter fun m => m.placed && decide (m.core = core) && !s.streamDone m b.id).map fun m =>
    ⟨streamNeed m.desc.toNat, { core := core, base := m.base, ctx := some m.ctx, tile0 := m.tile0 }⟩
  a ++ b ++ c

/-- Lowest start, in steps, of a free stretch of `size` among taken stretches; `limit` is the end. -/
def firstFit (limit step size : Nat) (taken : List (Nat × Nat)) : Option Nat :=
  ((List.range (limit / step)).map fun i => i * step).find? fun b =>
    decide (b + size ≤ limit) && taken.all fun t => decide (b + size ≤ t.1) || decide (t.1 + t.2 ≤ b)

/-- Tiles for a need: the context with fewer bound holders, then context 0, and the place in its bank (R119). -/
def placeTiles (hs : List Holder) (n : Nat) : Option (Option Nat × Nat) :=
  if n = 0 then some (none, 0)
  else
    let of_ (c : Nat) : List Holder := hs.filter fun h => h.room.ctx == some c
    let fit (c : Nat) : Option (Option Nat × Nat) :=
      (firstFit 512 1 n ((of_ c).map fun h => (h.room.tile0, h.need.tiles))).map fun t => (some c, t)
    let order := if (of_ 1).length < (of_ 0).length then [1, 0] else [0, 1]
    order.findSome? fit

/-- Channel state entries of a core that cannot be evicted (R89). -/
def State.busyChans (s : State) (core : Nat) : Nat := ((s.core core).chans.filter fun e => decide (e.unacked > 0)).length

/-- The room that a need would have among some holders of a core, `busy` channel entries being in use; none when it does not fit. -/
def fitAmong (core busy : Nat) (hs : List Holder) (n : Need) : Option Room :=
  let sum (f : Need → Nat) : Nat := (hs.map fun h => f h.need).sum
  if sum Need.slots + n.slots ≤ 16 ∧ sum Need.regs + n.regs ≤ 1048576 ∧ sum Need.replies + n.replies ≤ 4096 ∧
     sum Need.tables + n.tables ≤ 16 ∧ busy + n.chans ≤ 4096 ∧ (hs.all fun h => h.need.hqs &&& n.hqs == 0) then
    match firstFit (2 ^ 22) 16384 n.size (hs.map fun h => (h.room.base, h.need.size)), placeTiles hs n.tiles with
    | some b, some (c, t) => some { core := core, base := b, ctx := c, tile0 := t }
    | _, _ => none
  else none

/-- Does a need fit an empty core (R112, R391)? -/
def fitsEmpty (n : Need) : Bool := (fitAmong 0 0 [] n).isSome

/-- Do several needs fit an empty core together (R418)? -/
def fitsTogether (ns : List Need) : Bool :=
  (ns.foldl (fun (acc : Option (List Holder)) n => match acc with
    | none => none
    | some hs => (fitAmong 0 0 hs n).map fun r => hs ++ [⟨n, r⟩]) (some [])).isSome

/-! ### Floors (R112, R418) -/

/-- Cores of a partition in ascending number, and those in service (R434). -/
def Partition.coreList (p : Partition) : List Nat := onesFrom p.cores.toNat 0 256
def State.liveCores (s : State) (part : Nat) : List Nat := (s.part part).coreList.filter fun c => !sget false s.health.fenced c

/-- Needs that a core must be able to take beside a team of grid `g`: one producer team of every other floor in force there. -/
def State.floorNeeds (s : State) (part core g : Nat) : List Need :=
  ((s.part part).grids.filter fun x => decide (x.id ≠ g) && x.floor.contains core).map fun x => needOf x.desc.toNat

/-- The holders of a core with the room that every floor in force there keeps beside them; none when a floor finds none (R112, R418). -/
def State.withFloors (s : State) (part core g : Nat) (hs : List Holder) : Option (List Holder) :=
  (s.floorNeeds part core g).foldl (fun (acc : Option (List Holder)) f => match acc with
    | none => none
    | some xs => (fitAmong core (s.busyChans core) xs f).map fun q => xs ++ [⟨f, q⟩]) (some hs)

/-- The room that a core of a partition has for a need of grid `g` (0 for a matrix stream): its pilot runs, the core is in service, the need fits,
and every floor keeps its room. `gone` leaves out teams, `extra` adds room promised in the same draw. -/
def State.roomFor (s : State) (part core g : Nat) (n : Need) (gone : List Nat) (extra : List Holder) : Option Room :=
  if (s.core core).pilot && (s.liveCores part).contains core then
    let hs := s.holders part core gone ++ extra
    match fitAmong core (s.busyChans core) hs n with
    | none => none
    | some r => if (s.withFloors part core g (hs ++ [⟨n, r⟩])).isSome then some r else none
  else none

/-- Room for a gang of needs on distinct cores of one die, asked in ascending core number (R120, R134). -/
def State.gangRoom (s : State) (part g : Nat) (extra : List Holder) : List Nat → List Need → Option (List Room)
  | _, [] => some []
  | [], _ :: _ => none
  | c :: cs, n :: ns => match s.roomFor part c g n [] (extra.filter fun h => decide (h.room.core = c)) with
    | some r => (s.gangRoom part g extra cs ns).map fun rs => r :: rs
    | none => s.gangRoom part g extra cs (n :: ns)

/-- Room for a draw unit: one team on the pilot's core, or a gang on the pilot's die. -/
def State.unitRoom (s : State) (part core g : Nat) (ns : List Need) (extra : List Holder) : Option (List Room) :=
  match ns with
  | [n] => (s.roomFor part core g n [] (extra.filter fun h => decide (h.room.core = core))).map fun r => [r]
  | _ => s.gangRoom part g extra ((s.liveCores part).filter fun c => decide (dieOfCore c = dieOfCore core)) ns

/-! ### What a new holder finds (R62, R296) -/

/-- An allocation is written with zeros, clean, and every granule of it empty; what was written there before is forgotten. -/
def State.clearAlloc (s : State) (core base size : Nat) : State :=
  let out (k n : Nat) (e : Nat) : Bool := decide (e < k) || decide (k + n ≤ e)
  { s with mem := { s.mem with spad := s.mem.spad.filter fun e => out (spadKey core base) size e.1,
                               full := s.mem.full.filter fun e => out (granKey core base) (size / 16) e.1,
                               spadPoison := s.mem.spadPoison.filter fun e => out (granKey core base) (size / 16) e.1,
                               log := { s.mem.log with last := s.mem.log.last.filter fun e => out (spadKey core base) size e.1 } } }

/-- Tiles of a context's bank are written with zeros. -/
def State.clearTiles (s : State) (core ctx tile0 n : Nat) : State :=
  s.modCore core fun c => c.setCtx ctx { c.ctx ctx with
    tiles := (c.ctx ctx).tiles.filter fun e => decide (e.1 / 256 < tile0) || decide (tile0 + n ≤ e.1 / 256) }

end Sys2Proof.Machine
end

