-- ==== Sys2Proof/Machine/Engine.lean ====
section
/-! DEFINITION. Machine/Engine.lean: the matrix engine (13 R295 to R300, R306 to R316, R321 to R325; 04 R101; 05 R129): starts, tile steps,
completions, transfers and matrix-stream sub-launches. -/

namespace Sys2Proof.Machine

/-! ### Entries and their surroundings -/

def State.mentry? (s : State) (core ctx id : Nat) : Option MEntry := (s.ctxQueue core ctx).find? fun e => e.id = id
def State.modEntry (s : State) (core ctx id : Nat) (f : MEntry → MEntry) : State :=
  s.modCore core fun c => c.setCtx ctx { c.ctx ctx with queue := (c.ctx ctx).queue.map fun e => if e.id = id then f e else e }
def State.dropEntry (s : State) (core ctx id : Nat) : State :=
  s.modCore core fun c => c.setCtx ctx { c.ctx ctx with queue := (c.ctx ctx).queue.filter fun e => decide (e.id ≠ id) }

/-- The matrix stream of a sub-launch (R324). -/
def State.mstream? (s : State) (part bundle sub : Nat) : Option MStream :=
  match (s.part part).bundles.find? fun b => b.id = bundle with
  | some b => b.streams.find? fun m => m.sub = sub
  | none => none

/-- The scratchpad environment of a matrix stream: its own allocation (R324). -/
def State.streamEnv (s : State) (part domain : Nat) (m : MStream) : SpadEnv :=
  let d := (s.part part).domain domain
  { core := m.core, base := m.base, size := m.size, window := none, members := [], clusterSize := 0, winBase := domWinBase d,
    winSize := domWinSize d }

/-- The scratchpad environment of an entry: its team's, or its stream's. -/
def State.entryEnv (s : State) (e : MEntry) : SpadEnv :=
  match e.bundle with
  | some (b, sub) => s.streamEnv e.part e.domain ((s.mstream? e.part b sub).getD {})
  | none => s.spadEnv ((s.team? e.stream).getD {}) e.domain none

/-- Is a context's engine still at work for a partition: it starts nothing once the halt line is high, and finishes what it has begun until it
writes its stop record (R389). -/
def State.ctxFinishes (s : State) (core ctx part : Nat) : Bool := s.engineRuns part || !(s.core core).stopped.contains (4 + ctx)

/-- A fault of a matrix context halts; its record is the originator's (R378, R389). -/
def State.ctxFault (s : State) (e : MEntry) (ctx : Nat) (c : Code) : State :=
  (if c.code = cPoison then s.countPoison e.core else s).halt e.part e.core (4 + ctx) c.code c.detail 0

/-- Tiles of an entry, in the context's bank. -/
def MEntry.tileRange (e : MEntry) : Nat × Nat := (e.tile0 + e.span.1, e.span.2)
/-- Do two entries name a common tile? -/
def MEntry.overlaps (e f : MEntry) : Bool :=
  let (a, n) := e.tileRange
  let (b, m) := f.tileRange
  decide (a < b + m) && decide (b < a + n)
/-- Team tiles that two entries share. -/
def MEntry.shared (e f : MEntry) : List Nat :=
  if e.overlaps f then (List.range e.span.2).map (fun i => e.span.1 + i) |>.filter fun t => decide (f.tileRange.1 ≤ e.tile0 + t) &&
    decide (e.tile0 + t < f.tileRange.1 + f.tileRange.2) else []
def MEntry.running (e : MEntry) : Bool := e.started && e.kind.steps
def MEntry.fused (e : MEntry) : Bool := mfFusion e.fmt.toNat != 0
def MEntry.steps (e : MEntry) : Nat := mdSteps e.desc

/-! ### Elements and chunks (R297, R298) -/

/-- Replaces the elements of width `w` of a 16-byte chunk that `sel` names by those of another. -/
def mixElems (w : Nat) (sel : Nat → Bool) (a b : Nat) : Nat :=
  ((List.range (128 / w)).map fun k => (if sel k then elem b w k else elem a w k) * 2 ^ (w * k)).sum

/-- The chunk that four registers of a lane hold. -/
def regChunk (v : List (Nat × PWord)) (l r : Nat) : Chunk :=
  let ws := (List.range 4).map fun i => (r + i, sget ({} : PWord) v (l * 256 + r + i))
  { val := (ws.foldr (fun w acc => w.2.val.toNat + 2 ^ 32 * acc) 0), poison := (ws.find? fun w => w.2.poison).map fun w => w.1 * 2 ^ 8 }

/-- The participant, lane and first register of row `i` at step `j` (R298, R308). -/
def MEntry.rowSource (e : MEntry) (j i : Nat) : Option (MPart × Nat × Nat) :=
  match e.parts with
  | [] => none
  | [p] => some (p, i, p.areg + 4 * j)
  | ps => (ps.find? fun p => p.p = i / 16).map fun p => (p, i % 16, p.areg + 4 * j)

/-- What row `i` of step `j` holds in the registers now; zero from a lane outside the captured mask or the group. -/
def State.rowNow (s : State) (e : MEntry) (j i : Nat) : Chunk :=
  match e.rowSource j i with
  | none => {}
  | some (p, l, r) => match s.group? p.who.group with
    | some g => if l < g.lanes ∧ p.mask.toNat.testBit l then regChunk g.r.v l r else {}
    | none => {}

/-- Which elements of row `i` of step `j` stand in registers that have been written since a count of their group's register writes. -/
def State.rowWritten (s : State) (e : MEntry) (j i : Nat) (at_ : MPart → Nat) (k : Nat) : Bool :=
  match e.rowSource j i with
  | none => false
  | some (p, l, r) => match s.group? p.who.group with
    | some g => decide (l < g.lanes) && g.r.vw.since (l * 256 + r + mWidth e.fmt.toNat * k / 32) (at_ p)
    | none => false

/-- A chunk of which some elements of width `w` take free values. -/
def State.freeElems (s : State) (w : Nat) (sel : Nat → Bool) (c : Chunk) : State × Chunk :=
  if (List.range (128 / w)).any sel then
    let (x, t) := s.drawFree 128
    (t, { c with val := mixElems w sel c.val x })
  else (s, c)

/-- The row as an instruction reads it at its start: an element that has been written since the issuer's last MOPF, or since the issue, is a free value
(R101, R321); a row of a lane outside the captured mask is zero. -/
def State.rowRead (s : State) (e : MEntry) (j i : Nat) : State × Chunk :=
  let live := (e.rowSource j i).any fun x => x.1.mask.toNat.testBit x.2.1
  s.freeElems (mWidth e.fmt.toNat) (fun k => live && s.rowWritten e j i (fun p => p.vat) k) (s.rowNow e j i)

/-- All rows of register A, one row of chunks per step. -/
def State.readA (s : State) (e : MEntry) : State × List Chunk :=
  let m := (mShape (mfFusion e.fmt.toNat)).1
  ((List.range e.steps).flatMap fun j => (List.range m).map fun i => (j, i)).foldl
    (fun (acc : State × List Chunk) x => let (t, c) := acc.1.rowRead e x.1 x.2; (t, acc.2 ++ [c])) (s, [])

/-- What the registers of row `i` of step `j` hold now, in a lane of the group, whatever mask the instruction captured. -/
def State.rowRegs (s : State) (e : MEntry) (j i : Nat) : Chunk :=
  match e.rowSource j i with
  | none => {}
  | some (p, l, r) => match s.group? p.who.group with
    | some g => if l < g.lanes then regChunk g.r.v l r else {}
    | none => {}

/-- Register A through a latch that holds it, read when its group had made `at_` register writes: an element written since is the latched one or the
register's now, and no register is read for any other (R307). -/
def State.latchedA (s : State) (e : MEntry) (data : List Chunk) (at_ : Nat) : State × List Chunk :=
  let m := (mShape (mfFusion e.fmt.toNat)).1
  let w := mWidth e.fmt.toNat
  ((List.range data.length).zip data).foldl (fun (acc : State × List Chunk) x =>
    let dirty := s.rowWritten e (x.1 / m) (x.1 % m) fun _ => at_
    if !(List.range (128 / w)).any dirty then (acc.1, acc.2 ++ [x.2])
    else
      let now := s.rowRegs e (x.1 / m) (x.1 % m)
      let (n, t) := acc.1.drawFree (128 / w)
      let sel (k : Nat) : Bool := dirty k && n.testBit k
      (t, acc.2 ++ [{ val := mixElems w sel x.2.val now.val, poison := if (List.range (128 / w)).any sel then now.poison else x.2.poison }])) (s, [])

/-! ### Start (R307, R311) -/

/-- The earlier entries of a queue. -/
def earlier (q : List MEntry) (id : Nat) : List MEntry := q.takeWhile fun e => decide (e.id ≠ id)

/-- May a queued instruction start (R311)? -/
def canStart (q : List MEntry) (e : MEntry) : Bool :=
  let before := earlier q e.id
  let running := q.filter fun f => f.running
  !e.started && (before.all fun f => f.started) &&
  (if e.kind.steps then
    (before.all fun f => !f.overlaps e) &&
    (if e.fused then running.isEmpty else (running.all fun f => !f.fused) && decide (running.length < 4))
   else before.all fun f => f.kind.steps)

/-- The lowest free quadrant. -/
def freeQuadrant (q : List MEntry) : Nat :=
  ((List.range 4).find? fun n => q.all fun f => !f.running || f.quadrant != n).getD 0

/-- The owner of the latch is one of an entry's groups. -/
def ownsLatch (e : MEntry) (l : Option (GKey × Nat × Nat × Nat)) : Bool :=
  match l with
  | some x => e.bundle.isNone && e.parts.any fun p => p.who.group == x.1
  | none => false

/-- Loads or releases the latch of a context; what it holds was read from the owner's registers as they stand now. -/
def State.setLatch (s : State) (core ctx : Nat) (l : Option (GKey × Nat × Nat × Nat)) (data : List Chunk) : State :=
  let at_ := match l with
    | some x => ((s.group? x.1).map fun g => g.r.vw.count).getD 0
    | none => 0
  s.modCore core fun c => c.setCtx ctx { c.ctx ctx with latch := l, latchData := data, latchAt := at_ }

/-- Takes register A, or handles the latch of an instruction that does not use it (R307). An instruction that was running when its team was saved has
dealt with the latch: it reads register A again from the restored registers, which the latch that it used, if it still stands, holds again (R322). -/
def State.takeA (s : State) (core ctx : Nat) (e : MEntry) : State × MEntry :=
  let l := s.latch? core ctx
  let x := (s.core core).ctx ctx
  let mine := ownsLatch e l && !e.took
  let m := (mShape (mfFusion e.fmt.toNat)).1
  if e.amode < 2 then (if mine then s.setLatch core ctx none [] else s, e)
  else if e.amode = 2 then
    let (t, a) := (if mine then s.setLatch core ctx none [] else s).readA e
    (t, { e with adata := a })
  else
    match e.parts with
    | [] => (s, e)
    | p :: _ =>
      let rec_ := (p.who.group, p.areg, m, e.steps)
      if l = some rec_ ∧ x.latchData ≠ [] then
        let (t, a) := s.latchedA e x.latchData x.latchAt
        (t, { e with adata := a, hit := true })
      else
        let (t, a) := s.readA e
        (if e.took && l != some rec_ then t else t.setLatch core ctx (some rec_) a, { e with adata := a, hit := false })

/-! ### Tile steps (R299, R306, R309, R312) -/

/-- The blocks of the step that is due. -/
structure Blocks where
  a : Option (List (List Nat)) := none
  b : Option (List (List Nat)) := none
  /-- Granule offsets that the step waits for and claims. -/
  takes : List Nat := []
deriving DecidableEq, Repr, Inhabited

def State.stepBlocks (s : State) (e : MEntry) : Except Code Blocks :=
  let v := s.entryEnv e
  let (m, n) := mShape (mfFusion e.fmt.toNat)
  let granules (o : Option (List (List Nat))) : List Nat := ((o.getD []).flatten.map fun x => x / 16 * 16).dedup
  match if e.amode < 2 then blockOf v e.aslot (mdASlot e.desc) e.ca m else .ok none with
  | .error c => .error c
  | .ok a => match if e.kind = .mloop then blockOf v e.bslot (mdBSlot e.desc) e.cb n else .ok none with
    | .error c => .error c
    | .ok b => .ok { a := a, b := b, takes := (if e.amode = 1 then granules a else []) ++ granules b }

/-- Is the step that is due ready: every granule that it claims is full, or it meets a fault (R312)? -/
def State.stepReady (s : State) (e : MEntry) : Bool :=
  e.running && decide (e.step < e.steps) && s.engineRuns e.part &&
  (match s.stepBlocks e with
   | .error _ => true
   | .ok b => b.takes.all fun g => s.mem.isFull e.core g &&
      !s.earlierAt (granKey e.core g) (if e.waitsFor.contains (granKey e.core g) then e.arrived else s.serial + 1))

/-- The step that has become due arrives at the banks of all the granules that it claims, and keeps its place there until it claims them together (R66,
R312). -/
def State.reachBanks (s : State) (ctx id : Nat) (core : Nat) : State :=
  match s.mentry? core ctx id with
  | none => s
  | some e =>
    let t := s.stamp
    let waits : List Nat := if e.running && decide (e.step < e.steps) then (match s.stepBlocks e with
      | .error _ => []
      | .ok b => b.takes.map fun g => granKey core g) else []
    if waits = [] ∧ e.waitsFor = [] then s
    else t.modEntry core ctx id fun e => { e with waitsFor := waits, arrived := t.serial }

/-- MATRIX_INSTRUCTION_START (R311). -/
def execMatrixInstructionStart (core ctx id : Nat) (s : State) : Out :=
  match s.mentry? core ctx id with
  | none => .next s
  | some e =>
    let q := s.ctxQueue core ctx
    if !s.engineRuns e.part ∨ !canStart q e then .next s
    else
      let t := s.serve core (4 + ctx) e.stream
      let (t1, e1) := if e.kind.steps then t.takeA core ctx e else (t, e)
      let races := (earlier q id).filter fun f => f.running && f.overlaps e
      let e2 := { e1 with started := true, took := true, waited := if e.took then e.waited + (t1.cycle - e.since) else e.waited, since := t1.cycle, quadrant := if e.fused then 0 else freeQuadrant q,
                          disturbed := e1.disturbed ++ races.flatMap fun f => e.shared f }
      .next ((t1.modEntry core ctx id fun _ => e2).reachBanks ctx id core)

/-- Is a plain store of a unit to the byte of a key under way? -/
def State.storing (s : State) (u : UnitRef) (key : Nat) : Bool :=
  s.flights.any fun f => f.who == u && !f.performed && !f.remote && f.copy.isNone && f.kind.writes && f.kind != .stfe && (match f.place with
    | .spad c o => decide (spadKey c o ≤ key ∧ key < spadKey c o + f.width)
    | _ => false)

/-- Is the byte of a key undefined for the operand read of an entry? A read that does not consume: any write since the issue, and a store of the issuer
since its last MOPF. A read that consumes synchronises with the write that set the granule full, and so does not with a plain store of the issuer since
its last MOPF (R101, R321). -/
def State.byteStale (s : State) (e : MEntry) (consumes : Bool) (key : Nat) : Bool :=
  let note : SpadNote := sget {} s.mem.log.last key
  (!consumes && (decide (e.issued < note.stamp) || e.parts.any fun p => p.stale.any fun r => decide (r.1 ≤ key ∧ key < r.1 + r.2))) ||
  e.parts.any fun p => (note.plain == some p.who && decide (p.wat < note.stamp)) || s.storing p.who key

/-- A chunk from the slice: its bytes; elements with a byte that is undefined for the read are free values. -/
def State.chunkAt (s : State) (e : MEntry) (w : Nat) (consumes : Bool) (offs : List Nat) : State × Chunk :=
  let val := natOfBytes (offs.map fun o => sget 0 s.mem.spad (spadKey e.core o))
  let bad := offs.find? fun o => s.mem.spadBad e.core o 1
  let stale (o : Nat) : Bool := s.byteStale e consumes (spadKey e.core o)
  let touched (k : Nat) : Bool := (List.range (max 1 (w / 8))).any fun i => (offs[w * k / 8 + i]?).any stale
  let poison := bad.map fun o => 3 + o * 2 ^ 8
  if !(offs.any stale) then (s, { val := val, poison := poison })
  else
    let (x, t) := s.drawFree (8 * offs.length)
    let n := 8 * offs.length / w
    (t, { val := ((List.range n).map fun k => (if touched k then elem x w k else elem val w k) * 2 ^ (w * k)).sum, poison := poison })

/-- The chunks of a block; a block out of extent is zero. -/
def State.chunksOf (s : State) (e : MEntry) (consumes : Bool) (h : Nat) (b : Option (List (List Nat))) : State × List Chunk :=
  match b with
  | none => (s, List.replicate h {})
  | some rows => rows.foldl (fun (acc : State × List Chunk) offs =>
      let (t, c) := acc.1.chunkAt e (mWidth e.fmt.toNat) consumes offs; (t, acc.2 ++ [c])) (s, [])

/-- The chunks of register A at the step that is due: an element whose register has been written while the instruction is in flight is a free value, but
for a latch hit (R101, R307). -/
def State.registerRow (s : State) (e : MEntry) (m : Nat) : State × List Chunk :=
  (List.range m).foldl (fun (acc : State × List Chunk) i =>
    let c := e.adata.getD (e.step * m + i) {}
    let live := (e.rowSource e.step i).any fun x => x.1.mask.toNat.testBit x.2.1
    let (t, d) := acc.1.freeElems (mWidth e.fmt.toNat) (fun k => !e.hit && live && s.rowWritten e e.step i (fun p => p.vat) k) c
    (t, acc.2 ++ [d])) (s, [])

/-- A float format of the matrix engine (Table 45). -/
def mFloat (code : Nat) : Fmt :=
  match code with
  | 2 => fE4M3
  | 3 => fE5M2
  | 4 => fF16
  | _ => fBF16

/-- The new value of an accumulator element (R161, R162, R306, R309): `x` and `y` are the chunks of its row and column. -/
def mAccum (e : MEntry) (old x y : Nat) : Nat :=
  let f := e.fmt.toNat
  let w := mWidth f
  let k := mKs f
  let int (p : Int) : Nat := if mfAcc f = 0 then wrapU (signedOf old 32 + p) 32 else wrapU (satS (signedOf old 32 + p) 32) 32
  if e.kind = .mrsum then
    int (signedOf (mdWord e.desc 1 / 2 ^ 16) 16 * ((List.range k).map fun i => ofIntFmt w (bitOf f 8) (elem x w i)).sum)
  else if mfAcc f ≤ 1 then int (intDot w k (bitOf f 8) (bitOf f 9) x y)
  else dotStep (dotChoice (8 + 8 * mfA f + mfB f)) (elemProducts (mFloat (mfA f)) (mFloat (mfB f)) k x y) old

/-- Key of a tile element in the context's bank. -/
def tileKey (tile r c : Nat) : Nat := tile * 256 + 16 * r + c

/-- Tile (of the instruction) and place of output (i, m) (Table 101). -/
def outputPlace (n i m : Nat) : Nat × Nat × Nat := (i / 16 * (n / 16) + m / 16, i % 16, m % 16)

/-- advance (R300). -/
def advanceCoord (y : BitVec 512) (inc : Nat) (c : Nat × Nat) : Nat × Nat :=
  let go (i : Nat) (x : Nat) : Nat :=
    if i < min (lyRank y) 2 then (((x : Int) + signedOf (inc / 2 ^ (16 * i)) 16) % (lyExt y i : Int)).toNat else x
  (go 0 c.1, go 1 c.2)

/-- One tile step of an entry, or its fault (R306, R378, R384). -/
def State.tileStep1 (s : State) (ctx : Nat) (e : MEntry) : State :=
  match s.stepBlocks e with
  | .error c => s.ctxFault e ctx c
  | .ok b =>
    let (m, n) := mShape (mfFusion e.fmt.toNat)
    let (s1, as) := if e.amode ≥ 2 then s.registerRow e m else s.chunksOf e (e.amode == 1) m b.a
    let (s2, bs) := if e.kind = .mloop then s1.chunksOf e true n b.b else (s1, [])
    let bank := ((s.core e.core).ctx ctx).tiles
    let t0 := e.tileRange.1
    let badTile := (List.range (mTiles e.fmt.toNat)).find? fun i => (List.range 256).any fun k => (sget ({} : PWord) bank ((t0 + i) * 256 + k)).poison
    let poison : Option Nat := match (as ++ bs).findSome? fun c => c.poison with
      | some d => some d
      | none => badTile.map fun i => 2 + (e.span.1 + i) * 2 ^ 8
    match poison with
    | some d => s.ctxFault e ctx ⟨cPoison, d⟩
    | none =>
      let s3 := { s2 with mem := b.takes.foldl (fun (x : Memory) g => x.setFull e.core g 16 false) s2.mem }
      let outs := (List.range m).flatMap fun i => (List.range n).map fun j => (i, j)
      let bank1 := outs.foldl (fun (t : List (Nat × PWord)) o =>
        let (q, r, c) := outputPlace n o.1 o.2
        let k := tileKey (t0 + q) r c
        let old := (sget ({} : PWord) t k).val.toNat
        sset {} t k ⟨BitVec.ofNat 32 (mAccum e old (as.getD o.1 {}).val (bs.getD o.2 {}).val), false⟩) bank
      let e1 := { e with step := e.step + 1, since := s.cycle, waited := 0,
                         ca := if e.amode ≤ 1 then advanceCoord e.aslot (mdWord e.desc 6) e.ca else e.ca,
                         cb := if e.kind = .mloop then advanceCoord e.bslot (mdWord e.desc 7) e.cb else e.cb }
      let s4 := s3.modCore e.core fun c => c.setCtx ctx { c.ctx ctx with tiles := bank1 }
      let s5 := if e.bundle.isNone then s4.modTeam e.stream fun t => { t with tileSteps := t.tileSteps + 1 } else s4
      (s5.modEntry e.core ctx e.id fun _ => e1).reachBanks ctx e.id e.core

/-- TILE_STEP (R312): every running instruction of the context with a ready step advances by one; with both contexts ready they alternate. -/
def execTileStep (core ctx : Nat) (s : State) : Out :=
  let ready (c : Nat) : List MEntry := (s.ctxQueue core c).filter fun e => s.stepReady e
  if (ready ctx).isEmpty ∨ ((s.core core).lastCtx = ctx ∧ !(ready (1 - ctx)).isEmpty) then .next s
  else
    let t := (ready ctx).foldl (fun (t : State) e => if t.stepReady e then t.tileStep1 ctx e else t) s
    .next (t.modCore core fun c => { c with lastCtx := ctx })

/-! ### Completion (Table 104) -/

/-- Writes free values to the elements of some tiles of a team's grant (R101). -/
def State.freeTiles (s : State) (e : MEntry) (ctx : Nat) (ts : List Nat) : State :=
  (ts.flatMap fun t => (List.range 256).map fun k => (e.tile0 + t) * 256 + k).foldl (fun (s : State) k =>
    let (x, t) := s.drawFree 32
    t.modCore e.core fun c => c.setCtx ctx { c.ctx ctx with tiles := sset {} (c.ctx ctx).tiles k ⟨BitVec.ofNat 32 x, false⟩ }) s

/-- The entry leaves the queue, and each participant's flag completes. -/
def State.entryDone (s : State) (e : MEntry) (ctx : Nat) : State :=
  let t := s.dropEntry e.core ctx e.id
  if e.bundle.isSome then t else e.parts.foldl (fun (t : State) p => t.flagDone p.who.group p.flag) t

/-- MATRIX_INSTRUCTION_COMPLETION: the accumulator writes of the last step are done. -/
def execMatrixInstructionCompletion (core ctx id : Nat) (s : State) : Out :=
  match s.mentry? core ctx id with
  | none => .next s
  | some e =>
    if !e.running ∨ e.step < e.steps ∨ !s.ctxFinishes core ctx e.part then .next s
    else .next ((s.freeTiles e ctx e.disturbed.dedup).entryDone e ctx)

/-! ### Transfers (R313 to R316) -/

/-- rshift_rha of R154. -/
def rshiftRha (x : Int) (n : Nat) : Int :=
  if n = 0 then x
  else
    let y : Int := ((x.natAbs + 2 ^ (n - 1)) / 2 ^ n : Nat)
    if x < 0 then -y else y

/-- The byte of a requantised drain (R316). -/
def requantise (mode x m sh : Nat) (zp : Int) : Nat :=
  let y := rshiftRha (signedOf x 32 * signedOf m 32) sh + zp
  if mode = 1 then wrapU (satS y 8) 8 else wrapU (satU y 8) 8

/-- Writing transfers that share tiles with an unfinished stepping instruction leave free values there, now and when that one completes. -/
def State.disturb (s : State) (e : MEntry) (ctx : Nat) : State :=
  let t := s.freeTiles e ctx e.disturbed.dedup
  t.modCore e.core fun c => c.setCtx ctx { c.ctx ctx with queue := (c.ctx ctx).queue.map fun f =>
    if f.running && f.id != e.id then { f with disturbed := f.disturbed ++ f.shared e } else f }

def State.setTile (s : State) (core ctx k : Nat) (x : PWord) : State :=
  s.modCore core fun c => c.setCtx ctx { c.ctx ctx with tiles := sset {} (c.ctx ctx).tiles k x }

/-- MZERO: zero in every tile. -/
def State.zeroTiles (s : State) (e : MEntry) (ctx : Nat) : State :=
  let (t0, n) := e.tileRange
  let keep (x : Nat × PWord) : Bool := decide (x.1 / 256 < t0) || decide (t0 + n ≤ x.1 / 256)
  s.modCore e.core fun c => c.setCtx ctx { c.ctx ctx with tiles := (c.ctx ctx).tiles.filter keep }

/-- MLDA (R315): each element's bytes into the tile; POISON of a poisoned one. -/
def State.loadTiles (s : State) (e : MEntry) (ctx : Nat) (cells : List MCell) : State :=
  let at_ := cells.filterMap fun c => c.off.map fun o => (tileKey (e.tileRange.1 + c.tile) c.r c.j, o)
  match at_.find? fun x => s.mem.spadBad e.core x.2 4 with
  | some x => s.ctxFault e ctx ⟨cPoison, 3 + x.2 * 2 ^ 8⟩
  | none =>
    let t := at_.foldl (fun (t : State) x =>
      let (t1, c) := t.chunkAt e 32 false ((List.range 4).map fun i => x.2 + i)
      t1.setTile e.core ctx x.1 ⟨BitVec.ofNat 32 c.val, false⟩) s
    (t.disturb e ctx).entryDone e ctx

/-- A tile element as a transfer reads it: a free value where an unfinished stepping instruction may still write it. -/
def State.tileRead (s : State) (e : MEntry) (ctx : Nat) (c : MCell) : State × PWord :=
  if e.disturbed.contains (e.span.1 + c.tile) then
    let (x, t) := s.drawFree 32
    (t, ⟨BitVec.ofNat 32 x, false⟩)
  else (s, sget {} ((s.core e.core).ctx ctx).tiles (tileKey (e.tileRange.1 + c.tile) c.r c.j))

/-- Writes `w` bytes of a drain and sets the granule full (R316). -/
def State.drainWrite (s : State) (core off w x : Nat) (poison : Bool) : State :=
  { s with mem := (s.mem.writeSpad core off w x poison).setFull core off w true }

/-- The parameter record of a column: multiplier and shift, zero when out of extent. -/
def State.paramRead (s : State) (e : MEntry) (o : Option Nat) : State × Chunk :=
  match o with
  | none => (s, {})
  | some off => s.chunkAt e 64 false ((List.range 8).map fun i => off + i)

/-- MDRN (R316). In modes 1 and 2 every poisoned source faults before anything is written. -/
def State.drainTiles (s : State) (e : MEntry) (ctx : Nat) (cells : List MCell) (params : List (Option Nat)) : State :=
  let mode := mtMode e.desc
  let zp := signedOf (mdWord e.desc 1 / 2 ^ 23) 9
  let bad : Option Nat := if mode = 0 then none else cells.findSome? fun c =>
    if c.off.isNone then none
    else if (s.tileRead e ctx c).2.poison then some (2 + (e.span.1 + c.tile) * 2 ^ 8)
    else match params.getD (16 * c.tile + c.j) none with
      | some o => if s.mem.spadBad e.core o 8 then some (3 + o * 2 ^ 8) else none
      | none => none
  match bad with
  | some d => s.ctxFault e ctx ⟨cPoison, d⟩
  | none =>
    let (s1, ps) := params.foldl (fun (acc : State × List Chunk) o => let (t, c) := acc.1.paramRead e o; (t, acc.2 ++ [c])) (s, [])
    let t := cells.foldl (fun (t : State) c =>
      match c.off with
      | none => t
      | some o =>
        let (t1, x) := t.tileRead e ctx c
        if mode = 0 then t1.drainWrite e.core o 4 x.val.toNat x.poison
        else
          let p := (ps.getD (16 * c.tile + c.j) {}).val
          t1.drainWrite e.core o 1 (requantise mode x.val.toNat (field p 31 0) (field p 37 32) zp) false) s1
    t.entryDone e ctx

/-- MATRIX_TRANSFER_COMPLETION: a started transfer has moved its tiles. -/
def execMatrixTransferCompletion (core ctx id : Nat) (s : State) : Out :=
  match s.mentry? core ctx id with
  | none => .next s
  | some e =>
    if !e.started ∨ e.kind.steps ∨ !s.ctxFinishes core ctx e.part then .next s
    else
      let v := s.entryEnv e
      match e.kind with
      | .mzero => .next (((s.zeroTiles e ctx).disturb e ctx).entryDone e ctx)
      | .mlda => match transferCells v e.aslot e.desc with
        | .error c => .next (s.ctxFault e ctx c)
        | .ok cells => .next (s.loadTiles e ctx cells)
      | _ => match transferCells v e.aslot e.desc with
        | .error c => .next (s.ctxFault e ctx c)
        | .ok cells => match if mtMode e.desc = 0 then .ok [] else paramCells v e.bslot e.desc with
          | .error c => .next (s.ctxFault e ctx c)
          | .ok ps => .next (s.drainTiles e ctx cells ps)

/-! ### Matrix-stream sub-launches (R324, R325) -/

/-- Fields of a command (Table 110). -/
def mcKind (n : Nat) : Nat := field n 3 0
def mcAfter (n : Nat) : Bool := bitOf n 4
def mcAcon (n : Nat) : Bool := bitOf n 5
def mcFormat (n : Nat) : Nat := field n 63 32
def mcDesc (n : Nat) : List Word := (List.range 8).map fun i => BitVec.ofNat 32 (field n (64 + 32 * i + 31) (64 + 32 * i))

def State.modStream (s : State) (part bundle sub : Nat) (f : MStream → MStream) : State :=
  s.modPart part fun p => { p with bundles := p.bundles.map fun b => if b.id = bundle then
    { b with streams := b.streams.map fun m => if m.sub = sub then f m else m } else b }

/-- The matrix kind of a command code. -/
def mcMatrix (k : Nat) : Option MKind :=
  match k with
  | 1 => some .mloop
  | 2 => some .mzero
  | 3 => some .mlda
  | 4 => some .mdrn
  | 5 => some .mrsum
  | _ => none

/-- Is a command word malformed in itself (R325)? -/
def mcBad (n : Nat) : Bool :=
  field n 511 320 != 0 || field n 31 6 != 0 || mcKind n == 0 || decide (mcKind n > 6) || (mcAcon n && mcKind n != 1 && mcKind n != 5)

/-- The queue entry of a command of a stream. -/
def State.streamEntry (s : State) (part : Nat) (b : Bundle) (m : MStream) (k : MKind) (n : Nat) : MEntry :=
  let d := mcDesc n
  let (sa, sb) := if k.steps then (mdASlot d, mdBSlot d) else (mtDSlot d, mtPSlot d)
  { id := s.serial + 1, kind := k, stream := b.stream, part := part, domain := b.domain, core := m.core,
    fmt := BitVec.ofNat 32 (mcFormat n), desc := d, amode := if mcAcon n then 1 else 0, aslot := sget 0 m.slots sa, bslot := sget 0 m.slots sb,
    tile0 := m.tile0, tiles := m.tiles, ca := (mdWord d 2, mdWord d 3), cb := (mdWord d 4, mdWord d 5),
    issued := s.mem.log.count, bundle := some (b.id, m.sub) }

/-- The checks of a matrix command: those of its matching instruction (R325). -/
def MEntry.commandCheck (e : MEntry) (v : SpadEnv) : Option Code :=
  firstCode [if e.kind.steps then stepChecks e.kind e.amode e.fmt.toNat e.desc true e.tiles else transferChecks e.kind e.desc true e.tiles,
             e.operandCheck v]

/-- The checks of a KICK command's copy request `q` (R294, R325): its slots are the stream's. -/
def State.streamKickCheck (s : State) (part : Nat) (b : Bundle) (m : MStream) (q : Nat) : Option Code :=
  firstCode [
    need (!cqBarEn q) cMatrixCommand m.next,
    need (cqReserved q) cKickBad 1,
    need ((domChmask ((s.part part).domain b.domain)).testBit (cqChan q)) cKickBad 2,
    copySlots (sget 0 m.slots (cqFrom q)) (sget 0 m.slots (cqDst q)) (cqBytes q)]

/-- A fault of a stream's command is a fault of the context that runs it. -/
def State.streamFault (s : State) (part : Nat) (m : MStream) (c : Code) : State :=
  (if c.code = cPoison then s.countPoison m.core else s).halt part m.core (4 + m.ctx) c.code c.detail 0

/-- Room for a stream on its core: its allocation is written zero and empty, its tiles zero (R324). -/
def State.placeStream (s : State) (part bundle sub : Nat) (m : MStream) : State :=
  match s.roomFor part m.core 0 (streamNeed m.desc.toNat) [] [] with
  | none => s
  | some r => match r.ctx with
    | none => s
    | some ctx =>
      ((s.clearAlloc m.core r.base m.size).clearTiles m.core ctx r.tile0 m.tiles).modStream part bundle sub fun m =>
        { m with placed := true, base := r.base, ctx := ctx, tile0 := r.tile0 }

/-- MATRIX_STREAM_COMMAND_START: a stream that waits for room takes it; then the next command starts, in slot order (R324, R325). -/
def execMatrixStreamCommandStart (part bundle sub : Nat) (s : State) : Out :=
  match (s.part part).bundles.find? fun b => b.id = bundle with
  | none => .next s
  | some b => match b.streams.find? fun m => m.sub = sub with
    | none => .next s
    | some m =>
      let total := msSlots m.desc.toNat
      let va := msBase m.desc.toNat + 64 * m.next
      if !s.engineRuns part then .next s
      else if !m.placed then .next (s.placeStream part bundle sub m)
      else if total ≤ m.next then .next s
      else match s.readVirt part b.domain va 64 with
        | .error c => .next (s.streamFault part m c)
        | .ok (_, true) => .next (s.streamFault part m ⟨cPoison, 5 + va % 2 ^ 56 * 2 ^ 8⟩)
        | .ok (n, false) =>
          if mcBad n then .next (s.streamFault part m ⟨cMatrixCommand, m.next⟩)
          else if mcAfter n ∧ s.streamBusy m bundle then .next s
          else match mcMatrix (mcKind n) with
            | some k =>
              let e := s.streamEntry part b m k n
              match e.commandCheck (s.streamEnv part b.domain m) with
              | some c => .next (s.streamFault part m c)
              | none =>
                if !s.placeOpen m.core m.ctx (s.serial + 1) then .next s
                else .next ((s.stamp.enqueueM m.core m.ctx e).modStream part bundle sub fun m => { m with next := m.next + 1 })
            | none =>
              if m.next + 1 ≥ total then .next (s.streamFault part m ⟨cMatrixCommand, m.next⟩)
              else match s.readVirt part b.domain (va + 64) 64 with
                | .error c => .next (s.streamFault part m c)
                | .ok (_, true) => .next (s.streamFault part m ⟨cPoison, 5 + (va + 64) % 2 ^ 56 * 2 ^ 8⟩)
                | .ok (q, false) => match s.streamKickCheck part b m q with
                  | some c => .next (s.streamFault part m c)
                  | none =>
                    if s.copyQueueFull m.core then .next s
                    else
                      let t := s.stamp
                      let r := { copyOf q t.serial t.serial with stream := b.stream, who := ⟨⟨b.stream, 0⟩, 0⟩, part := part, domain := b.domain,
                                                                 core := m.core, bundle := some (b.id, m.sub) }
                      .next ((t.modCore m.core fun c => { c with copies := c.copies ++ [r] }).modStream part bundle sub fun m =>
                        { m with next := m.next + 2 })

end Sys2Proof.Machine
end

