-- ==== Sys2Proof/Machine/Pages.lean ====
section
/-! DEFINITION. Machine/Pages.lean: frames of device DRAM and the page tables that PIN and UNPIN write (03 R56, R57, R60; 05 R113). Which free frame
is taken, and where page tables stand, is the model's choice (log 15). -/

namespace Sys2Proof.Machine

/-! ### Frames -/

/-- First address and size of a region: 0 to 3 the die-local ranges, 4 the interleaved one (R16). -/
def regionBase (r : Nat) : Nat := if r = 4 then 2 ^ 40 else r * 2 ^ 38
def regionSize (carve r : Nat) : Nat := if r = 4 then 4 * carve * 2 ^ 30 else (192 - carve) * 2 ^ 30
def regionOf (pa : Nat) : Nat := if pa.testBit 40 then 4 else field pa 39 38

/-- A free frame of a region, aligned to its size: one given back, or the next one never used; none when the region is full. -/
def State.allocFrame (s : State) (r size : Nat) : Option (Nat × State) :=
  match s.alloc.freed.find? fun f => f.1 = r ∧ f.2.1 = size with
  | some f => some (f.2.2, { s with alloc := { s.alloc with freed := s.alloc.freed.erase f } })
  | none =>
    let off := ceilDiv (sget 0 s.alloc.next r) size * size
    if off + size ≤ regionSize s.plat.carve r then
      some (regionBase r + off, { s with alloc := { s.alloc with next := sset 0 s.alloc.next r (off + size) } })
    else none

/-- Gives a frame back. -/
def State.freeFrame (s : State) (pa size : Nat) : State := { s with alloc := { s.alloc with freed := s.alloc.freed ++ [(regionOf pa, size, pa)] } }

/-- A frame of `size` bytes of zeros for the device's own use, in the first region that has one, 0 to 3 the dies' and 4 the interleaved one (log 15): a
page table with no valid entry, a partition's queue table or dispatch block, a scoreboard. -/
def State.allocTable (s : State) (size : Nat) : Option (Nat × State) :=
  match [0, 1, 2, 3, 4].findSome? fun r => s.allocFrame r size with
  | some (a, t) => some (a, { t with mem := t.mem.zeroDram a size })
  | none => none

/-! ### Leaves (Table 18) -/

/-- A valid, pinned leaf. -/
def leafEntry (addr target : Nat) (writable l1 : Bool) : Nat :=
  2 ^ 63 + 2 ^ 62 + writable.toNat * 2 ^ 61 + 2 ^ 60 + target * 2 ^ 58 + l1.toNat * 2 ^ 57 + addr

/-- The level of a leaf of a page-size code of PIN: 64 KiB, 2 MiB or 1 GiB. -/
def leafLevel (code : Nat) : Nat := if code = 0 then 4 else if code = 1 then 3 else 2

/-- Writes a leaf for an address at a level, from a table at `level`, with the tables on the way; a larger unpinned leaf gives way to a table. -/
def State.mapFrom (s : State) (va leaf goal : Nat) : Nat → Nat → Nat → Option State
  | 0, _, _ => none
  | fuel + 1, table, level =>
    let a := table + 8 * vaIndex va level
    if level = goal then some { s with mem := s.mem.writeDram a 8 leaf false }
    else
      let e := s.mem.readDram a 8
      if pteValid e && !pteLeaf e then s.mapFrom va leaf goal fuel (pteAddr e) (level + 1)
      else match s.allocTable (nextTableAlign level) with
        | none => none
        | some (t, s1) => State.mapFrom { s1 with mem := s1.mem.writeDram a 8 (2 ^ 63 + t) false } va leaf goal fuel t (level + 1)

/-- Maps one page of a domain. -/
def State.mapPage (s : State) (part domain va leaf goal : Nat) : Option State :=
  s.mapFrom va leaf goal 5 (domRoot ((s.part part).domain domain)) 0

/-- Maps `n` pages from `va`: each on a fresh frame of a region, or, with a host address, on consecutive bus addresses. -/
def State.mapPages (s : State) (part domain code region : Nat) (host : Option Nat) (writable l1 : Bool) : Nat → Nat → Option State
  | 0, _ => some s
  | n + 1, va =>
    let size := pageSize (leafLevel code)
    match host with
    | some h => match s.mapPage part domain va (leafEntry h 1 writable l1) (leafLevel code) with
      | none => none
      | some t => t.mapPages part domain code region (some (h + size)) writable l1 n (va + size)
    | none => match s.allocFrame region size with
      | none => none
      | some (f, t) => match t.mapPage part domain va (leafEntry f 0 writable l1) (leafLevel code) with
        | none => none
        | some u => u.mapPages part domain code region none writable l1 n (va + size)

/-- Is a page of the domain that covers an address mapped by a valid, pinned leaf? -/
def State.pinnedAt (s : State) (part domain va : Nat) : Bool :=
  match s.walkIn part domain va with
  | .leaf _ _ _ => true
  | .fail _ _ => false

/-- Is any page of a range pinned, in any page size (R113)? -/
def State.anyPinned (s : State) (part domain va bytes : Nat) : Bool :=
  (List.range (bytes / 2 ^ 16)).any fun i => s.pinnedAt part domain (va + i * 2 ^ 16)

/-- The address of the entry that maps an address, once a walk has found a leaf at a level. -/
def entryAddr (m : Memory) (va : Nat) : Nat → Nat → Nat → Nat
  | 0, table, _ => table
  | fuel + 1, table, level =>
    let a := table + 8 * vaIndex va level
    let e := m.readDram a 8
    if pteLeaf e then a else entryAddr m va fuel (pteAddr e) (level + 1)

/-- The pinned pages that make up a range whole: base, size and leaf of each; none when the range is not made of whole pinned pages. -/
def State.pagesIn (s : State) (part domain last : Nat) : Nat → Nat → Option (List (Nat × Nat × Nat))
  | 0, _ => none
  | fuel + 1, va =>
    if va = last then some []
    else match s.walkIn part domain va with
      | .fail _ _ => none
      | .leaf e base size =>
        if base = va ∧ va + size ≤ last then (s.pagesIn part domain last fuel (va + size)).map fun ps => (base, size, e) :: ps else none

/-- Clears pinned in the leaf of a page; a frame of device DRAM goes back. -/
def State.unpinPage (s : State) (part domain : Nat) (p : Nat × Nat × Nat) : State :=
  let a := entryAddr s.mem p.1 5 (domRoot ((s.part part).domain domain)) 0
  let t := { s with mem := s.mem.writeDram a 8 (p.2.2 - 2 ^ 60) false }
  if pteTarget p.2.2 = 0 then t.freeFrame (pteAddr p.2.2) p.2.1 else t

/-- The pages of a range leave every TLB of the partition and the IOD's cache, and translation registers that cover them go stale (R60). -/
def State.dropTranslations (s : State) (part domain va bytes : Nat) : State :=
  let hit (a n : Nat) : Bool := decide (a < va + bytes) && decide (va < a + n)
  let keep (e : TlbEntry) : Bool := !(e.part == part && e.domain == domain && hit e.va e.size)
  let cores := s.cores.map fun c => (c.1, c.2.keepTlb keep)
  let stale (g : Group) : Group :=
    match s.team? g.key.stream with
    | some t => if t.part = part ∧ g.sys.domain = domain then
        { g with xlate := g.xlate.filter fun x => let y := sget 0 (g.table t) x.1
                                                  !((lySpace y == 1 || lySpace y == 4) && hit (lyBase y) 1) }
      else g
    | none => g
  { s with cores := cores, grp := stale s.grp, groups := s.groups.map stale, iod := { s.iod with ptes := s.iod.ptes.filter keep } }

end Sys2Proof.Machine
end

