-- ==== Sys2Proof/Machine/Commands.lean ====
section
/-! DEFINITION. Machine/Commands.lean: command queues (05 R106 to R113, R115; 23 R416, R418), the commands, and the validation and rejection of
bundles (21 R391). -/

namespace Sys2Proof.Machine

/-! ### Interrupts (14 R335; Table 115) -/

/-- An MSI-X table entry: the address, the data, and the mask bit of its vector control. -/
def HostPort.msixEntry (p : HostPort) (fn vec : Nat) : Nat := readBytes p.msixTable (fn * 2 ^ 15 + 16 * vec) 16
def HostPort.msixMasked (p : HostPort) (fn vec : Nat) : Bool := bitOf (p.msixEntry fn vec) 96

/-- Sends an MSI-X message of a function: a posted write of its entry's data to its entry's address, in the posted order (R335). It is pending while
its vector is masked, and discarded while the link is down or the function's stream Insecure (R415). -/
def State.sendMsix (s : State) (fn vec : Nat) : State :=
  if !s.port.up ∨ !s.linkOpen fn then s
  else if s.port.msixMasked fn vec then { s with port := { s.port with pba := sset false s.port.pba (fn * 2048 + vec) true } }
  else
    let e := s.port.msixEntry fn vec
    { s with port := { s.port with msix := s.port.msix ++ [(fn, vec)], posted := s.port.posted ++ [.msix fn vec] },
             mem := s.mem.writeHost (field e 63 0) 4 (field e 95 64) }

/-! ### Queue descriptors (Table 28) -/

def qBase (d : Nat) : Nat := field d 63 0
def qEnable (d : Nat) : Bool := bitOf d 128
def qPriority (d : Nat) : Nat := field d 130 129
def qSlots (d : Nat) : Nat := field d 191 160
def qTail (d : Nat) : Nat := field d 223 192
def qHead (d : Nat) : Nat := field d 255 224
def qRetired (d : Nat) : Nat := field d 287 256
def qStatus (d : Nat) : Nat := field d 319 288

def State.queue (s : State) (part q : Nat) : Nat := (sget 0 (s.part part).queues q).toNat
def State.setQueue (s : State) (part q d : Nat) : State :=
  s.modPart part fun p => { p with queues := sset 0 p.queues q (BitVec.ofNat 512 d) }

/-! ### Commands (Tables 29 and 30) -/

def cmKind (n : Nat) : Nat := field n 7 0
def cmExtra (n : Nat) : Nat := field n 10 8
def cmOverlap (n : Nat) : Bool := bitOf n 11
def cmDomain (n : Nat) : Nat := field n 15 12
def cmFloor (n : Nat) : Nat := field n 87 64
def cmVa (n : Nat) : Nat := field n 127 64
def cmValue (n : Nat) : Nat := field n 191 128
def cmVector (n : Nat) : Nat := field n 74 64

/-- Slots of a command. -/
def cmLength (n : Nat) : Nat := if cmKind n = 1 then 1 + cmExtra n else 1

/-- Does a command other than BUNDLE hold a reserved kind, field or value (R108)? -/
def cmBad (n : Nat) : Bool :=
  field n 63 16 != 0 || cmExtra n != 0 ||
  (match cmKind n with
   | 2 => field n 511 320 != 0 || field n 255 201 != 0 || field n 193 192 == 3 || decide (field n 200 199 ≥ 2)
   | 3 => field n 511 192 != 0
   | 4 => field n 511 192 != 0
   | 5 => field n 511 193 != 0
   | 6 => field n 511 75 != 0
   | _ => true)

/-- Slot `i` of a ring (R107), or the address that cannot be read. -/
def State.ringSlot (s : State) (part d i : Nat) : Except Nat (BitVec 512) :=
  let va := qBase d + 64 * (i % max 1 (qSlots d))
  match s.readVirt part 0 va 64 with
  | .ok (x, false) => .ok (BitVec.ofNat 512 x)
  | _ => .error va

def State.ringSlots (s : State) (part d : Nat) : List Nat → Except Nat (List (BitVec 512))
  | [] => .ok []
  | i :: is => match s.ringSlot part d i, s.ringSlots part d is with
    | .ok x, .ok xs => .ok (x :: xs)
    | .error a, _ => .error a
    | _, .error a => .error a

/-- Is a queue's descriptor poisoned (R330, R415)? -/
def Partition.queueBad (p : Partition) (q : Nat) : Bool := poisonedAt p.queuePoison 32 (64 * q) 64

/-- The next command of a queue, as a pilot would claim it: none while nothing is to be claimed; else its slots, or the address at which they
cannot be read (R107, R115). -/
def State.nextCommand (s : State) (part q : Nat) : Option (Except Nat (List (BitVec 512))) :=
  let p := s.part part
  let d := s.queue part q
  let n := (sget 0 p.seen q + 2 ^ 32 - qHead d) % 2 ^ 32
  if !qEnable d ∨ qStatus d ≠ 0 ∨ (p.claimed.any fun c => c.queue = q && !c.started) ∨ n = 0 then none
  else if p.queueBad q then some (.error (p.table + 64 * q))
  else match s.ringSlot part d (qHead d) with
    | .error a => some (.error a)
    | .ok h => if n < cmLength h.toNat then none else some (s.ringSlots part d ((List.range (cmLength h.toNat)).map fun i => qHead d + i))

/-- The queue that a core's pilot serves next: of those with a command to claim, the highest priority, then in rotation after the one that it
served last (R115). -/
def State.nextQueue (s : State) (part core : Nat) : Option Nat :=
  let p := s.part part
  let key (q : Nat) : Nat :=
    let pr := qPriority (s.queue part q)
    pr * 64 + (q + 63 - sget 63 p.lastQueue (core * 4 + pr)) % 64
  ((List.range 64).filter fun q => (s.nextCommand part q).isSome).foldl (fun b q => match b with
    | none => some q
    | some x => if key q < key x then some q else some x) none

/-- A queue's record in the halt area (Table 157). -/
def State.queueRecord (s : State) (part q code sub slot detail : Nat) : State :=
  let n := sget 0 (s.part part).rejects q
  s.writeHalt part (2048 + 32 * q) 32 (code + sub * 2 ^ 24 + n * 2 ^ 128 + slot * 2 ^ 160 + detail % 2 ^ 64 * 2 ^ 192)

/-- Claimed commands that have not started return to their queues, with their claim tickets (R416, R419). -/
def Partition.unclaim (p : Partition) (pick : Claimed → Bool) : Partition :=
  let back := p.claimed.filter fun c => pick c && !c.started
  { p with claimed := p.claimed.filter fun c => !(pick c && !c.started),
           tickets := back.foldl (fun m c => sset 0 m c.queue (sget 0 m c.queue - 1)) p.tickets }

/-- A queue fault (R416): the queue stops, head stays, the claim is undone, the record is written, and vector 2,046 sent. -/
def State.queueFault (s : State) (part q code detail : Nat) : State :=
  let d := s.queue part q
  let t := s.setQueue part q (setField d 319 288 2)
  let t1 := t.modPart part fun p => p.unclaim fun c => c.queue == q
  (t1.queueRecord part q code 0xFF (qHead d) detail).sendMsix part 2046

def cQueueFetch : Nat := 0x0200
def cQueueCommand : Nat := 0x0201
def cQueueSemaphore : Nat := 0x0202
def cQueuePin : Nat := 0x0203

/-- Does a core's pilot work for a partition: a core of it, running, with the halt line low (R389)? -/
def State.pilotWorks (s : State) (core part : Nat) : Bool :=
  (s.part part).created && (s.part part).coreList.contains core && (s.core core).pilot && (s.part part).halt.state == 0

/-- A pilot that still takes on work: its core has not been fenced (R432). -/
def State.pilotServes (s : State) (core part : Nat) : Bool := s.pilotWorks core part && !sget false s.health.fenced core

/-- Does a Reserved unit hold room on a core, or wait for its pilot (R126)? -/
def State.reservedOn (s : State) (core : Nat) : Bool :=
  s.parts.any fun p => p.2.grids.any fun g => g.reserved.any fun r => r.pilot == core || r.rooms.any fun x => x.core == core

/-- Once no team remains on a fenced core, and none that its pilot has drawn, its slot 16 is stopped, and what it had claimed and not started returns
to its queue (R432; log 37). -/
def State.stopFenced (s : State) (core : Nat) : State :=
  if !sget false s.health.fenced core ∨ (s.allTeams.any fun x => decide (x.core = core) && x.st.resident) ∨ s.reservedOn core then s
  else
    let v := s.vacate
    { v with groups := v.groups.filter fun g => !(g.core == core && g.slot == 16),
             parts := v.parts.map fun (p : Nat × Partition) => (p.1, p.2.unclaim fun c => c.core == core) }.modCore core fun k => { k with pilot := false }

/-- The fenced cores that no team needs any more stop. -/
def State.stopAllFenced (s : State) : State := s.health.fenced.foldl (fun (t : State) c => t.stopFenced c.1) s

/-- COMMAND_CLAIM (R115): the pilot takes the next command of the queue that comes next. A slot that cannot be read, or a reserved kind, field or
value, is a queue fault (R416). -/
def execCommandClaim (core part queue : Nat) (s : State) : Out :=
  if !s.pilotServes core part ∨ s.nextQueue part core ≠ some queue then .next s
  else
    let d := s.queue part queue
    let t := s.modPart part fun p => { p with lastQueue := sset 63 p.lastQueue (core * 4 + qPriority d) queue }
    match s.nextCommand part queue with
    | none => .next s
    | some (.error a) => .next (t.queueFault part queue cQueueFetch a)
    | some (.ok slots) =>
      let h := (slots.headD 0).toNat
      if cmKind h ≠ 1 ∧ cmBad h then .next (t.queueFault part queue cQueueCommand (cmKind h))
      else .next (t.modPart part fun p => { p with claimed := p.claimed ++ [{ queue := queue, head := qHead d, core := core, slots := slots }],
                                                   tickets := sset 0 p.tickets queue (sget 0 p.tickets queue + 1) })

/-- A pilot re-reads the tail of a queue (R330). -/
def State.readTail (s : State) (part q : Nat) : State :=
  s.modPart part fun p => { p with seen := sset 0 p.seen q (qTail (sget 0 p.queues q).toNat) }

/-- QUEUE_TAIL_POLL (R330). -/
def execQueueTailPoll (core part queue : Nat) (s : State) : Out :=
  if s.pilotWorks core part && qEnable (s.queue part queue) then .next (s.readTail part queue) else .next s

/-! ### Starting and retiring (R107, R109) -/

/-- The claimed command of a queue that may start now, if its kind is the one given: the command before it has retired, or its overlap bit is
set (Table 29). -/
def State.startable (s : State) (part q kind : Nat) : Option Claimed :=
  let p := s.part part
  match p.claimed.find? fun c => c.queue = q ∧ !c.started with
  | none => none
  | some c =>
    let h := (c.slots.headD 0).toNat
    let before := p.claimed.any fun e => e.queue = q && e.started && (e.head + e.slots.length) % 2 ^ 32 = c.head
    if cmKind h = kind ∧ (cmOverlap h ∨ !before) ∧ s.pilotWorks c.core part then some c else none

/-- A command starts: head passes it (R107). -/
def State.startCommand (s : State) (part : Nat) (c : Claimed) (bundle : Option Nat) : State :=
  let d := s.queue part c.queue
  (s.setQueue part c.queue (setField d 255 224 ((c.head + c.slots.length) % 2 ^ 32))).modPart part fun p =>
    { p with claimed := p.claimed.map fun e => if e = c then { e with started := true, bundle := bundle } else e }

/-- A started command retires. -/
def State.retireCommand (s : State) (part q head : Nat) : State :=
  let d := s.queue part q
  (s.setQueue part q (setField d 287 256 ((qRetired d + 1) % 2 ^ 32))).modPart part fun p =>
    { p with claimed := p.claimed.filter fun e => !(e.queue == q && e.head == head && e.started) }

/-- A command that starts and is complete at once. -/
def State.runCommand (s : State) (part : Nat) (c : Claimed) : State := (s.startCommand part c none).retireCommand part c.queue c.head

/-! ### PIN and UNPIN (R60, R113) -/

/-- The effect of a PIN, none where it ends with QUEUE_PIN. -/
def State.pinRange (s : State) (part n : Nat) : Option State :=
  let p := s.part part
  let dom := cmDomain n
  let va := cmVa n
  let bytes := cmValue n
  let code := field n 193 192
  let size := pageSize (leafLevel code)
  let device := field n 200 199 = 0
  let host := field n 319 256
  if va % size ≠ 0 ∨ bytes % size ≠ 0 ∨ va + bytes > 2 ^ 57 ∨ !domValid (p.domain dom) ∨ (device ∧ p.dramUsed + bytes > p.dram) ∨
     (!device ∧ (host % size ≠ 0 ∨ host + bytes > 2 ^ 57)) ∨ s.anyPinned part dom va bytes then none
  else
    let region := if bitOf n 196 then 4 else field n 198 197
    match s.mapPages part dom code region (if device then none else some host) (bitOf n 194) (bitOf n 195) (bytes / size) va with
    | none => none
    | some t => some (if device then t.modPart part fun p => { p with dramUsed := p.dramUsed + bytes } else t)

/-- PIN (R113): QUEUE_PIN with nothing changed, or every leaf of its range. -/
def execPin (part queue : Nat) (s : State) : Out :=
  match s.startable part queue 2 with
  | none => .next s
  | some c =>
    let n := (c.slots.headD 0).toNat
    match s.pinRange part n with
    | none => .next (s.queueFault part queue cQueuePin (cmVa n))
    | some t => .next (t.runCommand part c)

/-- Bytes of device DRAM that count against the allowance among some pages: not those of the save pool (R390). -/
def Partition.counted (p : Partition) (dom : Nat) (pages : List (Nat × Nat × Nat)) : Nat :=
  ((pages.filter fun x => pteTarget x.2.2 = 0 && !(dom == 0 && p.uncounted.contains x.1)).map fun x => x.2.1).sum

/-- UNPIN (R60): QUEUE_PIN where the range is not made of pinned pages, else they are unpinned. -/
def execUnpin (part queue : Nat) (s : State) : Out :=
  match s.startable part queue 3 with
  | none => .next s
  | some c =>
    let n := (c.slots.headD 0).toNat
    let dom := cmDomain n
    match s.pagesIn part dom (cmVa n + cmValue n) (cmValue n / 2 ^ 16 + 1) (cmVa n) with
    | none => .next (s.queueFault part queue cQueuePin (cmVa n))
    | some pages =>
      let t := pages.foldl (fun (t : State) p => t.unpinPage part dom p) s
      let t1 := t.modPart part fun p => { p with dramUsed := p.dramUsed - p.counted dom pages }
      .next ((t1.dropTranslations part dom (cmVa n) (cmValue n)).runCommand part c)

/-! ### WAIT, SIGNAL and NOTIFY (R109) -/

/-- The physical place of a semaphore: aligned, pinned, and writable where it is written. -/
def State.semaphore (s : State) (part n : Nat) (write : Bool) : Option Phys :=
  if cmVa n % 8 ≠ 0 then none
  else match s.translate part (cmDomain n) (cmVa n) with
    | .ok p => if write && !p.writable then none else some p
    | .error _ => none

/-- Is the semaphore at or above the value of a WAIT? A semaphore that cannot be read, or is poisoned, is not; nor is one in host memory while the link
is down or the function's stream Insecure (R415). -/
def State.waitMetCmd (s : State) (part n : Nat) : Bool :=
  match s.semaphore part n false with
  | some p => !s.mem.physBad p 8 && (p.target == 0 || s.port.up && s.linkOpen part) && decide (cmValue n ≤ s.mem.readPhys p 8)
  | none => false

/-- WAIT: QUEUE_SEMAPHORE, or the command starts; it retires by its re-reads, the first of which may be at once. -/
def execWaitCmd (part queue : Nat) (s : State) : Out :=
  match s.startable part queue 4 with
  | none => .next s
  | some c =>
    let n := (c.slots.headD 0).toNat
    match s.semaphore part n false with
    | none => .next (s.queueFault part queue cQueueSemaphore (cmVa n))
    | some _ => .next ((s.startCommand part c none).l1DropAll c.core)

/-- WAIT_SEMAPHORE_REREAD: a system-scope acquire of the semaphore; the WAIT retires once the value is reached. -/
def execWaitSemaphoreReread (part queue : Nat) (s : State) : Out :=
  match (s.part part).claimed.find? fun c => c.queue = queue ∧ c.started ∧ cmKind (c.slots.headD 0).toNat = 4 ∧
      s.waitMetCmd part (c.slots.headD 0).toNat with
  | none => .next s
  | some c => .next ((s.l1DropAll c.core).retireCommand part queue c.head)

/-- SIGNAL: QUEUE_SEMAPHORE, or one 8-byte access at system scope, which is discarded on its way to the host while the link is down or the function's
stream Insecure (R415). -/
def execSignal (part queue : Nat) (s : State) : Out :=
  match s.startable part queue 5 with
  | none => .next s
  | some c =>
    let n := (c.slots.headD 0).toNat
    match s.semaphore part n true with
    | none => .next (s.queueFault part queue cQueueSemaphore (cmVa n))
    | some p =>
      let x := if bitOf n 192 then (s.mem.readPhys p 8 + cmValue n) % 2 ^ 64 else cmValue n
      let t := if p.target = 0 then { s with mem := s.mem.writeDram p.addr 8 x (bitOf n 192 && s.mem.physBad p 8) }
        else if s.port.up && s.linkOpen part then { s with mem := s.mem.writePhys p 8 x } else s
      .next (t.runCommand part c)

/-- NOTIFY: the vector of the partition's function. Every access of an earlier retired command has been performed at system scope when that
command retired (R111). -/
def execNotify (part queue : Nat) (s : State) : Out :=
  match s.startable part queue 6 with
  | none => .next s
  | some c => .next ((s.sendMsix part (cmVector (c.slots.headD 0).toNat)).runCommand part c)

/-! ### Sub-launches (Table 31) -/

def slKind (n : Nat) : Nat := field n 3 0
def slTask (n : Nat) : Bool := bitOf n 4
def slDesc (n : Nat) : Nat := field n 63 8 * 256
def slAux (n : Nat) : Nat := field n 127 64
def slX (n : Nat) : Nat := field n 191 160
def slY (n : Nat) : Nat := field n 223 192
def slZ (n : Nat) : Nat := field n 255 224
def slArgs (n : Nat) : List Word := (List.range 8).map fun i => BitVec.ofNat 32 (field n (287 + 32 * i) (256 + 32 * i))

/-- A rejection (Table 154): code and detail. -/
def cLaunchInvalid : Nat := 0x0090
def cLaunchCycle : Nat := 0x0091
def cLaunchDescriptor : Nat := 0x0092
def cLaunchResources : Nat := 0x0093
def cLaunchFault : Nat := 0x0094

/-- Are `n` bytes from an address on pinned, readable pages, and clean? -/
def State.readable (s : State) (part domain va n : Nat) : Bool :=
  (blocksOf 32 va n).all fun b => match s.readVirt part domain (32 * b) 32 with
    | .ok (_, bad) => !bad
    | .error _ => false

/-- `n` bytes of a domain's memory, 32 at a time. -/
def State.readMany (s : State) (part domain va n : Nat) : Nat :=
  ((List.range (n / 32)).map fun i => match s.readVirt part domain (va + 32 * i) 32 with
    | .ok (x, _) => x * 2 ^ (256 * i)
    | .error _ => 0).sum

/-- Is the task queue descriptor 64-byte aligned in pinned device memory (R42)? -/
def State.taskQueueOk (s : State) (part domain va : Nat) : Bool :=
  va % 64 == 0 && (match s.translate part domain va with
    | .ok p => p.target == 0
    | .error _ => false)

/-- The lowest bit number of the bad field that stands lowest in a launch descriptor (R176, R391). -/
def ldBad (d : Nat) : Option Nat :=
  let role (i : Nat) : List (Nat × Bool) :=
    let b := 64 + 128 * i
    let r := ldRole d i
    [(b + 57, field r 63 57 == 0),
     (b + 64, if i < ldRoles d then decide (1 ≤ lrGroups r ∧ lrGroups r ≤ 16) else lrGroups r == 0), (b + 79, field r 127 79 == 0)]
  let checks : List (Nat × Bool) :=
    [(0, field d 31 0 == 0x4C444A46), (32, field d 47 32 == 1), (48, decide (1 ≤ ldRoles d ∧ ldRoles d ≤ 4)),
     (52, decide (1 ≤ ldGroups d ∧ ldGroups d ≤ 16) && ldGroups d == ((ldRoleList d).map fun r => lrGroups r).sum), (57, field d 63 57 == 0)] ++
    (List.range 4).flatMap role ++
    [(576, decide (1 ≤ ldSp16 d ∧ ldSp16 d ≤ 256)), (585, decide (ldTiles d ≤ 512)), (595, decide (ldReplies d ≤ 1024)),
     (623, decide (ldNvec d ≤ 4)), (626, field d 639 626 == 0), (688, field d 2047 688 == 0)]
  (checks.find? fun c => !c.2).map fun c => c.1

/-- The first nonzero component of a vector in the order dz, dy, dx is positive (R121). -/
def vecPositive (v : Int × Int × Int) : Bool :=
  if v.2.2 ≠ 0 then decide (v.2.2 > 0) else if v.2.1 ≠ 0 then decide (v.2.1 > 0) else decide (v.1 > 0)

/-- The fault of the first bad vector. -/
def vecsBad (d : Nat) : Option Code :=
  (List.range (ldNvec d)).findSome? fun i =>
    let v := ldVec d i
    if v.1 = -8 ∨ v.2.1 = -8 ∨ v.2.2 = -8 then some ⟨cLaunchInvalid, 4⟩
    else if !vecPositive v then some ⟨cLaunchCycle, i⟩ else none

/-- Does a cluster shape agree with R30? -/
def clusterOk (d x y z : Nat) : Bool :=
  decide (ldCluster d ≤ 8) && x % ldCx d == 0 && y % ldCy d == 0 && z % ldCz d == 0

/-- The cores in service of the die that has most of them. -/
def State.widestDie (s : State) (part : Nat) : Nat :=
  ((List.range 4).map fun k => ((s.liveCores part).filter fun c => dieOfCore c == k).length).foldl max 0

/-- Steps 4 to 6 of R391 for a grid. -/
def State.gridCheck (s : State) (part n d : Nat) : Option Code :=
  match ldBad d with
  | some b => some ⟨cLaunchDescriptor, b⟩
  | none => firstCode [
    need (clusterOk d (slX n) (slY n) (slZ n)) cLaunchInvalid 3,
    need (!(slTask n && decide (ldNvec d > 0))) cLaunchInvalid 5,
    vecsBad d,
    need (fitsEmpty (needOf d)) cLaunchResources 3,
    need (decide (ldCluster d ≤ s.widestDie part)) cLaunchResources 4]

/-- Does a matrix-stream descriptor agree with Table 109? -/
def msOk (d : Nat) : Bool :=
  field d 511 192 == 0 && field d 127 122 == 0 && field d 111 105 == 0 && msLayouts d % 2048 == 0 && decide (msLayouts d < 2 ^ 57) &&
  decide (1 ≤ msTiles d ∧ msTiles d ≤ 512) && decide (1 ≤ msSp16 d ∧ msSp16 d ≤ 256) && decide (1 ≤ msSlots d ∧ msSlots d ≤ 2 ^ 24) &&
  msBase d % 64 == 0 && decide (msBase d < 2 ^ 57)

/-- The failure of a sub-launch record, in the order of R391. A matrix stream needs its pilot's core in service (R434). -/
def State.subCheck (s : State) (part core domain : Nat) (producer : Bool) (n : Nat) : Option Code :=
  let reserved := decide (1 ≤ slKind n ∧ slKind n ≤ 3) && field n 7 5 == 0 && field n 159 128 == 0 && (!slTask n || slKind n == 1) &&
    (slTask n || slAux n == 0)
  let extents := if slKind n = 1 then
      need (decide (1 ≤ slX n ∧ 1 ≤ slY n ∧ 1 ≤ slZ n ∧ slX n * slY n * slZ n ≤ 2 ^ 32)) cLaunchInvalid 2
    else if slKind n = 2 then need (decide (1 ≤ slX n ∧ slX n ≤ 65536)) cLaunchInvalid 6 else none
  let bytes := if slKind n = 1 then 256 else 64 * (if slKind n = 2 then slX n else 1)
  match firstCode [need reserved cLaunchInvalid 1, need (!producer || slKind n == 1) cLaunchResources 2, extents,
    need (s.readable part domain (slDesc n) bytes) cLaunchFault (slDesc n),
    need (!slTask n || s.taskQueueOk part domain (slAux n)) cLaunchFault (slAux n)] with
  | some c => some c
  | none =>
    match slKind n with
    | 1 => s.gridCheck part n (s.readMany part domain (slDesc n) 256)
    | 2 => need ((List.range (slX n)).all fun i => !cqBarEn (s.readMany part domain (slDesc n + 64 * i) 64)) cLaunchInvalid 6
    | _ =>
      let d := s.readMany part domain (slDesc n) 64
      firstCode [need (msOk d) cLaunchInvalid 7, need (fitsEmpty (streamNeed d) && (s.liveCores part).contains core) cLaunchResources 3]

/-- The failure of a bundle: code, failing sub-launch (255 for the header) and detail (R391). -/
def State.bundleCheck (s : State) (part core : Nat) (slots : List (BitVec 512)) : Option (Nat × Nat × Nat) :=
  let h := (slots.headD 0).toNat
  let header := firstCode [
    need (field h 63 16 == 0 && field h 511 88 == 0 && decide (1 ≤ cmExtra h ∧ cmExtra h ≤ 4)) cLaunchInvalid 1,
    need (decide (cmFloor h ≤ (s.liveCores part).length)) cLaunchResources 1]
  match header with
  | some c => some (c.code, 0xFF, c.detail)
  | none =>
    ((List.range slots.tail.length).zip slots.tail).findSome? fun x =>
      (s.subCheck part core (cmDomain h) (decide (cmFloor h ≠ 0) && x.1 == 0) x.2.toNat).map fun c => (c.code, x.1, c.detail)

/-! ### Starting a bundle -/

/-- A stream identity in use by no team and no bundle, from `n` on, and never 0 (R89, R412). -/
def State.freshStream (s : State) : Nat → Nat → Nat
  | 0, n => n
  | fuel + 1, n =>
    let used := n = 0 || (s.allTeams.any fun t => t.stream = n) || s.parts.any fun p => p.2.bundles.any fun b => b.stream = n
    if used then s.freshStream fuel ((n + 1) % 2 ^ 20) else n

/-- Takes a stream identity. -/
def State.takeStream (s : State) : Nat × State :=
  let n := s.freshStream (2 ^ 20) s.iod.nextStream
  (n, { s with iod := { s.iod with nextStream := if (n + 1) % 2 ^ 20 = 0 then 1 else n + 1 } })

/-- The grid record of a sub-launch. -/
def State.gridFor (s : State) (part id : Nat) (c : Claimed) (dom sub n : Nat) (floor : List Nat) : Grid :=
  { id := id, bundle := s.serial + 1, sub := sub, part := part, queue := c.queue, priority := qPriority (s.queue part c.queue), domain := dom,
    desc := BitVec.ofNat 2048 (s.readMany part dom (slDesc n) 256), x := slX n, y := slY n, z := slZ n, args := slArgs n, task := slTask n,
    aux := BitVec.ofNat 64 (slAux n), floor := floor }

def Grid.d (g : Grid) : Nat := g.desc.toNat
def Grid.teams (g : Grid) : Nat := g.x * g.y * g.z

/-- Bytes of the frame that a grid's retirement scoreboard takes: one bit a team, in pages of 4 KiB; none without vectors (R122). -/
def Grid.boardBytes (g : Grid) : Nat := if ldNvec g.d = 0 then 0 else ceilDiv g.teams 32768 * 4096

/-- The grids of a bundle as it starts: each with vectors has a frame for its scoreboard, if device memory has one left (R122, log 31). -/
def State.giveBoards (s : State) : List Grid → List Grid × State
  | [] => ([], s)
  | g :: gs =>
    let (g1, t) := if g.boardBytes = 0 then (g, s) else match s.allocTable g.boardBytes with
      | some (a, t) => ({ g with boardAddr := some a }, t)
      | none => (g, s)
    let (gs1, u) := t.giveBoards gs
    (g1 :: gs1, u)

/-- The frames of scoreboards are given back with the records of their grids. -/
def State.freeBoards (s : State) (gs : List Grid) : State :=
  gs.foldl (fun (t : State) g => match g.boardAddr with
    | some a => t.freeFrame a g.boardBytes
    | none => t) s

/-- The layout table of a matrix stream (R324). -/
def State.streamTable (s : State) (part dom d : Nat) : List (Nat × BitVec 512) := s.loadBank part dom (msLayouts d)

/-- The bundle of a claimed command, with its grids: ids are taken from the issue stamp. -/
def State.startBundle (s : State) (part : Nat) (c : Claimed) : State :=
  let h := (c.slots.headD 0).toNat
  let dom := cmDomain h
  let subs := (List.range c.slots.tail.length).zip (c.slots.tail.map fun x => x.toNat)
  let id := s.serial + 1
  let (stream, t) := s.takeStream
  let grids := (subs.filter fun x => slKind x.2 = 1).map fun x => s.gridFor part (id + 1 + x.1) c dom x.1 x.2 (if x.1 = 0 then (s.liveCores part).take (cmFloor h) else [])
  let copies := (subs.filter fun x => slKind x.2 = 2).flatMap fun x =>
    (List.range (slX x.2)).map fun i => (x.1, BitVec.ofNat 512 (s.readMany part dom (slDesc x.2 + 64 * i) 64))
  let streams := (subs.filter fun x => slKind x.2 = 3).map fun x =>
    let d := s.readMany part dom (slDesc x.2) 64
    { sub := x.1, core := c.core, desc := BitVec.ofNat 512 d, slots := s.streamTable part dom d, size := 16384 * msSp16 d, tiles := msTiles d : MStream }
  let b : Bundle := { id := id, queue := c.queue, core := c.core, domain := dom, stream := stream,
                      slots := s.loadBank part dom (domBank ((s.part part).domain dom)), toCopy := copies, streams := streams, serial := id }
  let t0 := { t with serial := s.serial + 5, iod := { t.iod with streams := sset 1024 t.iod.streams stream c.core } }
  let (boarded, tb) := (t0.freeBoards (s.part part).past).giveBoards grids
  let t1 := tb.modPart part fun p => { p with bundles := p.bundles ++ [b], grids := p.grids ++ boarded, past := [] }
  (t1.startCommand part c (some id)).refillCopy part c.core

/-- The rejection of a bundle (R391): it counts as retired, its record is written, its queue goes on. -/
def State.rejectBundle (s : State) (part : Nat) (c : Claimed) (r : Nat × Nat × Nat) : State :=
  let t := s.modPart part fun p => { p with rejects := sset 0 p.rejects c.queue ((sget 0 p.rejects c.queue + 1) % 2 ^ 32) }
  (t.queueRecord part c.queue r.1 r.2.1 c.head r.2.2).runCommand part c

/-- Would the floor of a bundle ask more of a core than an empty core holds, beside the floors in force there (R418)? -/
def State.floorWaits (s : State) (part : Nat) (slots : List (BitVec 512)) : Bool :=
  let h := (slots.headD 0).toNat
  let prod := needOf (s.readMany part (cmDomain h) (slDesc (slots.getD 1 0).toNat) 256)
  cmFloor h != 0 && ((s.liveCores part).take (cmFloor h)).any fun c => !fitsTogether (s.floorNeeds part c 0 ++ [prod])

/-- BUNDLE (R111): rejected whole, or started whole; a floor may keep it waiting. -/
def execBundle (part queue : Nat) (s : State) : Out :=
  match s.startable part queue 1 with
  | none => .next s
  | some c =>
    match s.bundleCheck part c.core c.slots with
    | some r => .next (s.rejectBundle part c r)
    | none => if s.floorWaits part c.slots then .next s else .next (s.startBundle part c)

end Sys2Proof.Machine
end

