-- ==== Sys2Proof/Machine/Frames.lean ====
section
/-! DEFINITION. Machine/Frames.lean: packets and frames of the fabric (14 R338 to R347): their bytes, protection, virtual channel credits (R341), link
replay and lanes (23 R404, R405), and the transmission of a frame (R340). -/

namespace Sys2Proof.Machine

/-! ### Time -/

/-- µs since device warm reset (Table 161), from the arithmetic clock (R376, R377). -/
def State.micros (s : State) : Nat := s.plat.microsAt + (s.cycle - s.plat.clkSince) / max 1 s.plat.clkNow

/-- Writes a record into the error log of the last 64 events (R400). -/
def State.logRecord (s : State) (r : LogRecord) : State :=
  { s with health := { s.health with log := (s.health.log ++ [{ r with time := s.micros }]).drop ((s.health.log.length + 1) - 64),
                                     logged := s.health.logged + 1 } }

/-- Structure codes of log records that are no soft error (log 39): a refused request (R407), an expired response (R439), a failed handshake (R413). -/
def logRefused : Nat := 14
def logExpired : Nat := 15
def logHandshake : Nat := 16

/-- Logs a failure of the fabric at the I/O die: the structure code, the other device and a status. -/
def State.logFabric (s : State) (structure_ dev status : Nat) : State :=
  s.logRecord { location := dev * 16 + status, structure_ := structure_, unit := 4, kind := 2 }

/-! ### Bytes (Tables 116 and 117) -/

def packetHeader (p : Packet) : Nat :=
  p.offset % 2 ^ 40 * 2 ^ 216 + p.segment % 64 * 2 ^ 210 + p.stream % 2 ^ 20 * 2 ^ 190 + p.chan % 16 * 2 ^ 186 + p.seq % 2 ^ 16 * 2 ^ 170 +
  p.kind % 16 * 2 ^ 166 + p.op % 16 * 2 ^ 162 + p.width % 4 * 2 ^ 160 + p.length % 512 * 2 ^ 151 + p.rtag % 2 ^ 21 * 2 ^ 130 + p.sos.toNat * 2 ^ 129 +
  p.status % 16 * 2 ^ 125

def zeros (n : Nat) : List Byte := List.replicate n 0

/-- A packet's bytes: the header and the payload, padded to a multiple of 32 bytes. -/
def packetBytes (p : Packet) : List Byte := bytesOf (packetHeader p) 32 ++ p.payload ++ zeros (ceilDiv p.payload.length 32 * 32 - p.payload.length)

/-- Does a packet of a kind carry the bytes that its length counts? A read request asks for them. -/
def hasPayload (kind : Nat) : Bool := kind != 1

/-- The packet that a header and the bytes after it spell. -/
def packetOf (h : Nat) (rest : List Byte) : Packet :=
  let kind := field h 169 166
  let n := field h 159 151
  { offset := field h 255 216, segment := field h 215 210, stream := field h 209 190, chan := field h 189 186, seq := field h 185 170, kind := kind,
    op := field h 165 162, width := field h 161 160, length := n, rtag := field h 150 130, sos := bitOf h 129, status := field h 128 125,
    payload := if hasPayload kind then rest.take n else [] }

/-- The packets of a body, up to its zero padding. -/
def packetsOf : Nat → List Byte → List Packet
  | 0, _ => []
  | fuel + 1, bs =>
    if bs.length < 32 then []
    else
      let h := natOfBytes (bs.take 32)
      if h = 0 then []
      else
        let p := packetOf h (bs.drop 32)
        p :: packetsOf fuel (bs.drop (packetSize p))

/-- Flits of a body. -/
def bodyFlits (body : List Byte) : Nat := ceilDiv body.length 64

/-- Bits [383:0] of a header flit. -/
def headerBits (f : Frame) : Nat :=
  f.counter % 2 ^ 64 * 2 ^ 320 + f.src % 1024 * 2 ^ 310 + f.dst % 1024 * 2 ^ 300 + f.plane % 128 * 2 ^ 293 + f.vc % 64 * 2 ^ 287 + f.epoch % 4 * 2 ^ 285 +
  f.gmac.toNat * 2 ^ 284 + (bodyFlits f.body - 1) % 16 * 2 ^ 280

/-! ### Protection (R345 to R347) -/

def frameIv (f : Frame) : BitVec 96 := BitVec.ofNat 96 (f.counter % 2 ^ 64 * 2 ^ 32 + f.plane % 128 * 2 ^ 25 + f.src % 1024 * 2 ^ 15)
def frameAad (f : Frame) : List Byte := bytesOf (headerBits f) 48

/-- The 64 bytes of a header flit. -/
def headerBytes (f : Frame) : List Byte := bytesOf (headerBits f + f.tag.toNat * 2 ^ 384) 64

/-- One step of the CRC-32 of IEEE 802.3, least significant bit first, and one byte. -/
def crcBit (c : BitVec 32) : BitVec 32 := if bitOf c.toNat 0 then (c >>> 1) ^^^ 0xEDB88320#32 else c >>> 1
def crcByte (c : BitVec 32) (b : Byte) : BitVec 32 := (List.range 8).foldl (fun c _ => crcBit c) (c ^^^ b.setWidth 32)

/-- CRC-32 over a frame's flits (R404). -/
def frameCrc (f : Frame) : BitVec 32 := ~~~ (headerBytes f ++ f.body).foldl crcByte 0xFFFFFFFF#32

/-- The trailer that a transmitter sends after a frame (R404). -/
def trailerOf (seq : Nat) (f : Frame) : LinkTrailer := { seq := BitVec.ofNat 12 seq, crc := frameCrc f }

/-- Seals a frame whose body is in clear. -/
def sealFrame (key : BitVec 256) (f : Frame) : Frame :=
  if f.gmac then { f with tag := (Config.gcmSeal key (frameIv f) (frameAad f ++ f.body) []).2 }
  else
    let (c, t) := Config.gcmSeal key (frameIv f) (frameAad f) f.body
    { f with body := c, tag := t }

/-- The clear body of a frame, if its tag verifies. -/
def openFrame (key : BitVec 256) (f : Frame) : Option (List Byte) :=
  if f.gmac then (Config.gcmOpen key (frameIv f) (frameAad f ++ f.body) [] f.tag).map fun _ => f.body
  else Config.gcmOpen key (frameIv f) (frameAad f) f.body f.tag

/-! ### Lanes and credits (R341, R404, R405) -/

def State.lane (s : State) (n : Nat) : Lane := sget {} s.iod.lanes n
def State.modLane (s : State) (n : Nat) (f : Lane → Lane) : State := { s with iod := { s.iod with lanes := sset {} s.iod.lanes n (f (s.lane n)) } }

/-- Shared flits in use, the guaranteed flit of each identifier left out: by all, and by identifiers other than 32 to 35. -/
def Lane.sharedUsed (l : Lane) : Nat × Nat :=
  l.used.foldl (fun a u => (a.1 + (u.2 - 1), if 32 ≤ u.1 ∧ u.1 ≤ 35 then a.2 else a.2 + (u.2 - 1))) (0, 0)

/-- A frame's flits enter the input pool (R341), and leave it once its packets have been disposed of, as credits for the sender. -/
def Lane.take (l : Lane) (vc n : Nat) : Lane := { l with pool := sset 0 l.pool vc (sget 0 l.pool vc + n) }
def Lane.free (l : Lane) (vc n : Nat) : Lane :=
  { l with pool := sset 0 l.pool vc (sget 0 l.pool vc - n), granted := sset 0 l.granted vc (sget 0 l.granted vc + n) }

/-- Would a frame of `n` flits find credit? A pool holds 512 flits: 64 guaranteed and 448 shared, 16 of which are headroom. -/
def Lane.hasCredit (l : Lane) (vc n : Nat) : Bool :=
  let (all, plain) := { l with used := sset 0 l.used vc (sget 0 l.used vc + n) }.sharedUsed
  decide (all ≤ 448) && decide (plain ≤ 432)

/-- Starts the resynchronising exchange of a key that leads to another device, unless one is in progress (R408, R409 step 1). -/
def State.startExchange (s : State) (k : ChanKey) : State :=
  match s.keyEntry k with
  | none => s
  | some e =>
    if e.exchange ∨ e.unacked = 0 ∨ !s.remoteKey k then s
    else
      let t := s.setKeyEntry { e with exchange := true }
      { t with iod := { t.iod with out := t.iod.out ++
        [{ dest := k.die / 5, vc := 34, packet := { stream := k.stream, chan := k.chan, seq := e.ackSeq, kind := 8 } }] } }

/-- A lane goes down at this end (R405): its replay buffer is discarded, and keys with unacknowledged packets on it start an exchange. -/
def State.laneDown (s : State) (n : Nat) : State :=
  let t := s.modLane n fun l => { l with up := false, retrained := false, downs := l.downs + 1, replay := [], used := [], fails := 0, linkSeq := 0,
                                         recvSeq := 0, answer := none, granted := [] }
  let keys := (t.iod.out.filterMap fun o => if o.sent && o.lane == n then o.key else none).dedup
  keys.foldl (fun (t : State) k => t.startExchange k) t

/-- Starts a link replay; after the third of one frame the lane goes down (R404, R405). -/
def State.linkReplay (s : State) (n : Nat) : State :=
  if (s.lane n).fails ≥ 3 then s.laneDown n else s.modLane n fun l => { l with fails := l.fails + 1, replays := l.replays + 1 }

/-! ### Transmission (R338, R340) -/

/-- The packets that one frame takes, in their order: up to 960 bytes of body. -/
def takeBody : List OutPacket → Nat → List OutPacket
  | [], _ => []
  | o :: os, room => if packetSize o.packet ≤ room then o :: takeBody os (room - packetSize o.packet) else []

/-- The lane that the rotation for a device comes to: the first after the one used last that is up, not excluded, has credit, a place in its replay buffer
and a counter left (R340, R404, R405, R348). -/
def State.nextLane (s : State) (dest vc flits : Nat) : Option Nat :=
  let p := s.peer dest
  ((List.range 128).map fun i => (p.lastPlane + 1 + i) % 128).find? fun n =>
    let l := s.lane n
    l.up && !p.excluded.contains n && l.hasCredit vc flits && decide (l.replay.length < 32) && decide (sget 0 p.counters n < 2 ^ 40)

/-- Packets that wait for a frame to a device on a virtual channel; key messages of another epoch wait for a frame of their own (R348). -/
def State.waitingFor (s : State) (dest vc : Nat) : List OutPacket :=
  let os := s.iod.out.filter fun o => decide (o.dest = dest ∧ o.vc = vc) && !o.sent
  os.takeWhile fun o => o.epoch == (os.head?.map fun o => o.epoch).getD 0

/-- The outbound packets after some have left: requests stay for retransmission, the rest are gone. -/
def sentOut (took : List OutPacket) (lane : Nat) : List OutPacket → List OutPacket
  | [] => []
  | o :: os => match took with
    | [] => o :: os
    | t :: ts =>
      if o = t then (if o.packet.kind ≤ 4 then { o with sent := true, lane := lane } :: sentOut ts lane os else sentOut ts lane os)
      else o :: sentOut took lane os

/-- The frame that carries some packets to another device on a lane, as it leaves: a key message travels under the epoch that it was made in, and in
clear with no tag when there was none (R348); every other frame is sealed under the key in use (R345, R347). -/
def State.frameFor (s : State) (dest vc : Nat) (took : List OutPacket) (n : Nat) : Frame :=
  let p := s.peer dest
  let clear := took.flatMap fun o => packetBytes o.packet
  let f : Frame := { src := s.plat.device, dst := dest, plane := n, vc := vc, body := clear ++ zeros (ceilDiv clear.length 64 * 64 - clear.length) }
  let e := if vc = 35 then (took.head?.map fun o => o.epoch).getD 0 else p.epoch
  if e = 0 then f
  else if e = p.epoch then sealFrame p.sendKey { f with epoch := e, counter := sget 0 p.counters n, gmac := peGmac p.entry vc }
  else sealFrame p.prevSendKey { f with epoch := e, counter := sget 0 p.prevCounters n, gmac := peGmac p.entry vc }

/-- Sends one frame to another device. -/
def State.sendFrame (s : State) (dest vc : Nat) (took : List OutPacket) (n : Nat) : State :=
  let f := s.frameFor dest vc took n
  let flits := ceilDiv ((took.map fun o => packetSize o.packet).sum) 64 + 1
  let t := s.modLane n fun l =>
    { l with replay := l.replay ++ [(l.linkSeq, { f with link := trailerOf l.linkSeq f })], linkSeq := (l.linkSeq + 1) % 4096, used := sset 0 l.used vc (sget 0 l.used vc + flits) }
  let t1 := { t with iod := { t.iod with out := sentOut took n t.iod.out } }
  t1.modPeer dest fun p =>
    { p with lastPlane := n, counters := if f.epoch ≠ 0 ∧ f.epoch = p.epoch then sset 0 p.counters n (sget 0 p.counters n + 1) else p.counters,
             prevCounters := if f.epoch ≠ 0 ∧ f.epoch ≠ p.epoch then sset 0 p.prevCounters n (sget 0 p.prevCounters n + 1) else p.prevCounters }

end Sys2Proof.Machine
end

