-- ==== Sys2Proof/Machine/Keys.lean ====
section
/-! DEFINITION. Machine/Keys.lean: attestation reports (20 R374, R375) and the key handshake (14 R348, Table 121; 23 R412, R413). Its messages
travel as kind-10 packets on virtual channel 35 (R339); how they are cut into packets is the model's choice (log 17). -/

namespace Sys2Proof.Machine

/-! ### Reports (Table 151) -/

/-- Bytes 0 to 339 of a report: all but the signature. -/
def State.reportBody (s : State) (m3 : BitVec 384) (nonce : BitVec 256) : List Byte :=
  bytesOf (0x52454B50 + 1 * 2 ^ 32 + Config.serial.toNat * 2 ^ 64 + s.plat.device % 1024 * 2 ^ 128) 20 ++ bytesOf nonce.toNat 32 ++
  bytesOf s.plat.m0.toNat 48 ++ bytesOf s.plat.m1.toNat 48 ++ bytesOf s.plat.m2.toNat 48 ++ bytesOf m3.toNat 48 ++ bytesOf s.plat.akeyPub.toNat 96

/-- The signed report of 436 bytes. -/
def State.report (s : State) (m3 : BitVec 384) (nonce : BitVec 256) : List Byte :=
  let b := s.reportBody m3 nonce
  b ++ bytesOf (Config.ecdsaSign s.plat.akeyPriv (Config.sha384 b)).toNat 96

def slice (bs : List Byte) (from_ n : Nat) : Nat := natOfBytes ((bs.drop from_).take n)
def reportKey (r : List Byte) : BitVec 768 := BitVec.ofNat 768 (slice r 244 96)

/-- Is a report trusted (R375)? -/
def State.trusts (s : State) (report certs : List Byte) : Bool :=
  let akey := reportKey report
  let m (i : Nat) : BitVec 384 := BitVec.ofNat 384 (slice report (52 + 48 * i) 48)
  let entries := s.plat.trust.filterMap fun e => e.2
  Config.chainOk certs akey && Config.ecdsaVerify akey (Config.sha384 (report.take 340)) (BitVec.ofNat 768 (slice report 340 96)) &&
  (if entries = [] then decide (m 0 = s.plat.m0 ∧ m 1 = s.plat.m1 ∧ m 2 = s.plat.m2)
   else entries.any fun e => decide (m 0 = e.1 ∧ m 1 = e.2.1 ∧ m 2 = e.2.2))

/-! ### Messages (Table 121) -/

def kxUnsigned (m : KxMessage) : List Byte := bytesOf m.nonce.toNat 32 ++ bytesOf m.pub.toNat 96 ++ m.report
def kxSigned (m : KxMessage) : List Byte := kxUnsigned m ++ bytesOf m.sig.toNat 96
/-- What KX2 and KX3 sign. -/
def kx2Digest (a b : KxMessage) : BitVec 384 := Config.sha384 (kxUnsigned a ++ kxUnsigned b)
def kx3Digest (a b : KxMessage) : BitVec 384 := Config.sha384 (kxUnsigned a ++ kxSigned b)

/-! ### Key messages as packets (R339) -/

/-- The bytes of KX1 and KX2; KX3 is its signature alone. -/
def kx1Bytes (m : KxMessage) : List Byte := kxUnsigned m ++ m.certs
def kx2Bytes (m : KxMessage) : List Byte := kxSigned m ++ m.certs

/-- The payloads of a message: 256 bytes each, and a last one that is shorter. -/
def kxPieces : Nat → List Byte → List (List Byte)
  | 0, _ => []
  | fuel + 1, bs => bs.take 256 :: if bs.length < 256 then [] else kxPieces fuel (bs.drop 256)

/-- Queues a key message for a peer: its packets are numbered on, the first is marked, and the epoch in use is the one that they travel under. -/
def State.sendKx (s : State) (d : Nat) (bs : List Byte) : State :=
  let p := s.peer d
  let ps := kxPieces (bs.length / 256 + 1) bs
  let packet (i : Nat) (x : List Byte) : Packet := { kind := 10, seq := (p.kxSeq + i) % 65536, sos := i == 0, length := x.length, payload := x }
  let os := ((List.range ps.length).zip ps).map fun x => { dest := d, vc := 35, packet := packet x.1 x.2, epoch := p.epoch : OutPacket }
  { s with iod := { s.iod with out := s.iod.out ++ os } }.modPeer d fun p => { p with kxSeq := (p.kxSeq + ps.length) % 65536 }

/-- A key packet in its turn; one shorter than 256 bytes ends its message. -/
def Peer.kxAppend (q : Peer) (p : Packet) : Peer :=
  let bs := (if p.sos then [] else q.kxPart) ++ p.payload
  let ends := decide (p.payload.length < 256)
  { q with kxNext := (p.seq + 1) % 65536, kxPart := if ends then [] else bs, kxIn := if ends then q.kxIn ++ [bs] else q.kxIn }

/-- The packets that came before their turn and are now due. -/
def Peer.kxDrain : Nat → Peer → Peer
  | 0, q => q
  | fuel + 1, q => match q.kxEarly.find? fun p => p.seq = q.kxNext with
    | none => q
    | some p => Peer.kxDrain fuel ({ q with kxEarly := q.kxEarly.erase p }.kxAppend p)

/-- A key packet arrives: in sequence, or first of a message, it is taken; up to 64 ahead it waits; else it is dropped. -/
def Peer.kxTake (q : Peer) (p : Packet) : Peer :=
  let d := (p.seq + 65536 - q.kxNext) % 65536
  if p.sos ∨ d = 0 then Peer.kxDrain 64 (q.kxAppend p)
  else if d < 64 ∧ !(q.kxEarly.any fun e => decide (e.seq = p.seq)) then { q with kxEarly := q.kxEarly ++ [p] }
  else q

/-- Has a whole message with these bytes arrived from a peer, and the state without it. -/
def State.hasKx (s : State) (d : Nat) (bs : List Byte) : Bool := (s.peer d).kxIn.contains bs
def State.takeKx (s : State) (d : Nat) (bs : List Byte) : State := s.modPeer d fun p => { p with kxIn := p.kxIn.erase bs }

/-! ### The handshake -/

/-- A handshake can run: the boot has made the attestation key, the entry is valid, the peer is another device and not lost. -/
def State.canShake (s : State) (d : Nat) : Bool :=
  decide (s.plat.bootStatus = 0x10) && peValid (s.peer d).entry && !(s.peer d).lost && decide (d ≠ s.plat.device)

/-- A fresh message of this device, with its private key. -/
def State.freshKx (s : State) : KxMessage × BitVec 384 × State :=
  let n := Config.nonce s.free
  let priv := Config.p384Private (s.free + 1)
  ({ nonce := n, pub := Config.p384Public priv, report := s.report (s.part 0).digest n, certs := Config.identityCert ++ Config.attestationCert s.plat.akeyPub },
   priv, { s with free := s.free + 2 })

/-- Starts a handshake: the device with the lower number sends KX1, the other waits for it (R348). -/
def State.startHandshake (s : State) (d : Nat) : State :=
  if !s.canShake d then s
  else if s.plat.device < d then
    let (m, priv, t) := s.freshKx
    (t.sendKx d (kx1Bytes m)).modPeer d fun p => { p with kx := .sentKx1, initiator := true, kx1 := m, priv := priv }
  else s.modPeer d fun p => { p with kx := .idle, initiator := false }

/-- A handshake fails at this side (R413): it is abandoned and logged, and vector 3 of the PF is sent. The previous key stays. -/
def State.kxFail (s : State) (d : Nat) : State := ((s.modPeer d fun p => { p with kx := .failed }).logFabric logHandshake d 0).sendMsix 8 3

/-- The epoch after one. -/
def nextEpoch (e : Nat) : Nat := e % 3 + 1

/-- Step 4 (Table 121): both directions' keys, a new epoch, counters from 0; the previous epoch is still accepted. -/
def State.deriveKeys (s : State) (d : Nat) (own : BitVec 384) (other : BitVec 768) (ni nr : BitVec 256) : State :=
  let z := Config.ecdh own other
  let salt := BitVec.ofNat 512 (ni.toNat + nr.toNat * 2 ^ 256)
  s.modPeer d fun p =>
    let e := nextEpoch p.epoch
    { p with kx := .idle, epoch := e, sendKey := Config.hkdf salt z p.initiator e, recvKey := Config.hkdf salt z (!p.initiator) e,
             prevEpoch := p.epoch, prevSendKey := p.sendKey, prevRecvKey := p.recvKey, prevValid := decide (p.epoch ≠ 0), counters := [],
             prevCounters := p.counters }

/-- KX1, whose packets have all arrived at the responder: it is checked and answered with KX2. -/
def execKx1 (peer : Nat) (m : KxMessage) (s0 : State) : Out :=
  let s := s0.takeKx peer (kx1Bytes m)
  if !s0.canShake peer ∨ s0.plat.device < peer ∨ !s0.hasKx peer (kx1Bytes m) ∨ m.report.length ≠ 436 ∨ m.sig ≠ 0 then .next s0
  else if !s.trusts m.report m.certs then .next (s.kxFail peer)
  else
    let (k, priv, t) := s.freshKx
    let k1 := { k with sig := Config.ecdsaSign s.plat.akeyPriv (kx2Digest m k) }
    .next ((t.sendKx peer (kx2Bytes k1)).modPeer peer fun p => { p with kx := .sentKx2, initiator := false, kx1 := m, kx2 := k1, priv := priv })

/-- KX2, whose packets have all arrived at the initiator: it is checked, KX3 is sent, and the keys are derived. -/
def execKx2 (peer : Nat) (m : KxMessage) (s0 : State) : Out :=
  let s := s0.takeKx peer (kx2Bytes m)
  let p := s.peer peer
  if !s0.canShake peer ∨ p.kx ≠ .sentKx1 ∨ !s0.hasKx peer (kx2Bytes m) ∨ m.report.length ≠ 436 then .next s0
  else if !(s.trusts m.report m.certs && Config.ecdsaVerify (reportKey m.report) (kx2Digest p.kx1 m) m.sig) then .next (s.kxFail peer)
  else
    let sig := Config.ecdsaSign s.plat.akeyPriv (kx3Digest p.kx1 m)
    let t := (s.sendKx peer (bytesOf sig.toNat 96)).modPeer peer fun p => { p with kx2 := m, kx3 := sig }
    .next (t.deriveKeys peer p.priv m.pub p.kx1.nonce m.nonce)

/-- KX3, whose packet has arrived at the responder: it is checked and the keys are derived. -/
def execKx3 (peer : Nat) (m : KxMessage) (s0 : State) : Out :=
  let bs := bytesOf m.sig.toNat 96
  let s := s0.takeKx peer bs
  let p := s.peer peer
  if !s0.canShake peer ∨ p.kx ≠ .sentKx2 ∨ !s0.hasKx peer bs then .next s0
  else if !Config.ecdsaVerify (reportKey p.kx1.report) (kx3Digest p.kx1 p.kx2) m.sig then .next (s.kxFail peer)
  else .next (s.deriveKeys peer p.priv p.kx1.pub p.kx1.nonce p.kx2.nonce)

/-- KEY_HANDSHAKE_TIMEOUT (R413). -/
def execKeyHandshakeTimeout (peer : Nat) (s : State) : Out :=
  if (s.peer peer).kx = .sentKx1 ∨ (s.peer peer).kx = .sentKx2 then .next (s.kxFail peer) else .next s

/-- HANDSHAKE_RETRY: the initiator starts a failed handshake afresh (R413). -/
def execHandshakeRetry (peer : Nat) (s : State) : Out :=
  if (s.peer peer).kx = .failed ∧ (s.peer peer).initiator then .next (s.startHandshake peer) else .next s

/-- PREVIOUS_EPOCH_EXPIRY: frames of the previous epoch are no longer accepted (R348). -/
def execPreviousEpochExpiry (peer : Nat) (s : State) : Out := .next (s.modPeer peer fun p => { p with prevValid := false })

/-- Does an access wait for a key with a device: a request in the retransmit buffer, or an access issued that waits for room there (R412)? -/
def State.waitsForKey (s : State) (d : Nat) : Bool :=
  (s.iod.out.any fun o => decide (o.dest = d ∧ o.packet.kind ≤ 4)) ||
  s.flights.any fun f => f.toDev d && f.seq.isSome && !f.performed && decide (f.done = 0)

/-- Does a peer's loss come due: a key is held, or an access waits for one (R412)? -/
def State.lossDue (s : State) (d : Nat) : Bool := decide (d ≠ s.plat.device) && !(s.peer d).lost && (s.keyed d || s.waitsForKey d)

/-- PEER_LOSS_TIMEOUT: 2 ms without a sign of life, or without a key for a waiting access (R412, R401). -/
def execPeerLossTimeout (peer : Nat) (s : State) : Out := if s.lossDue peer then .next (s.declareLost peer) else .next s

/-- LIVENESS_FRAME: with nothing else to send, an ack of stream 0 is queued for the peer (R412). -/
def execLivenessFrame (peer : Nat) (s : State) : Out :=
  if s.keyed peer && !(s.peer peer).lost && !(s.iod.out.any fun o => o.dest = peer && !o.sent) then
    .next { s with iod := { s.iod with out := s.iod.out ++ [{ dest := peer, vc := 33, packet := { kind := 6 } }] } }
  else .next s

end Sys2Proof.Machine
end

