-- ==== Sys2Proof/Machine/Fabric.lean ====
section
/-! DEFINITION. Machine/Fabric.lean: the fabric at the I/O die (14 R342, R343; 23 R404 to R412, R439): requests at their destination, responses, acks,
the resynchronising exchange, link events, and the transmission and receipt of frames. -/

namespace Sys2Proof.Machine

/-! ### Segments (Table 119) -/

def sgValid (e : Nat) : Bool := bitOf e 127
def sgWritable (e : Nat) : Bool := bitOf e 126
def sgAtomics (e : Nat) : Bool := bitOf e 125
def sgPart (e : Nat) : Nat := field e 124 122
def sgDomain (e : Nat) : Nat := field e 121 118
def sgSize (e : Nat) : Nat := field e 117 94
def sgBase (e : Nat) : Nat := field e 56 0

/-- The device address that a request reaches, or its refusal (Table 163): the peer table, the segment table, the translation. -/
def State.requestPlace (s : State) (src : Nat) (p : Packet) : Except Nat Nat :=
  let pe := (s.peer src).entry
  let e := (sget (0 : BitVec 128) s.iod.segments p.segment).toNat
  if !(peValid pe && peSeg pe p.segment) then .error 1
  else if !(sgValid e && decide (p.offset < 65536 * sgSize e) && (p.kind == 1 || sgWritable e) && (decide (p.kind < 2) || sgAtomics e)) then .error 2
  else match s.translate (sgPart e) (sgDomain e) (sgBase e + p.offset) with
    | .ok ph => if ph.target = 0 ∧ (p.kind = 1 ∨ ph.writable) then .ok ph.addr else .error 3
    | .error _ => .error 3

/-- The access that a request packet makes at a device address (Table 117). -/
def packetAccess (p : Packet) (pa : Nat) : Flight :=
  let w := 4 * 2 ^ p.width
  let x := natOfBytes p.payload
  let base : Flight := { place := .dram pa, core := 1024 }
  match p.kind with
  | 0 => { base with kind := .store, width := p.length, data := x }
  | 1 => { base with kind := .load, width := p.length }
  | 2 => { base with kind := .atom p.op, width := w, data := x }
  | 3 => { base with kind := .cas, width := w, cmp := x % 2 ^ (8 * w), data := x / 2 ^ (8 * w) }
  | _ => { base with kind := .red p.op, width := w, data := x }

/-! ### Packets that the I/O die sends of itself -/

def State.queueOut (s : State) (o : OutPacket) : State := { s with iod := { s.iod with out := s.iod.out ++ [o] } }

def State.sendResponse (s : State) (src : Nat) (p : Packet) (status : Nat) (data : List Byte) : State :=
  s.queueOut { dest := src, vc := 32, packet := { stream := p.stream, chan := p.chan, seq := p.seq, kind := 5, rtag := p.rtag, status := status,
                                                  length := data.length, payload := data } }

/-- A cumulative ack of a key; one that still waits for its frame is replaced. -/
def State.sendAck (s : State) (k : SeqKey) (expected : Nat) : State :=
  let same (o : OutPacket) : Bool := o.dest == k.src && o.packet.kind == 6 && o.packet.stream == k.stream && o.packet.chan == k.chan
  let t := { s with iod := { s.iod with out := s.iod.out.filter fun o => !same o } }
  t.queueOut { dest := k.src, vc := 33, packet := { stream := k.stream, chan := k.chan, seq := expected, kind := 6 } }

def State.sendNack (s : State) (k : SeqKey) (seq : Nat) (payload : List Byte) : State :=
  s.queueOut { dest := k.src, vc := 33, packet := { stream := k.stream, chan := k.chan, seq := seq, kind := 7, length := payload.length, payload := payload } }

/-! ### Requests (R342, R343, R407) -/

/-- A refusal: counted on the arrival lane and for the source, written to the error log, and reported by vector 1 of the PF. -/
def State.refuse (s : State) (src lane status : Nat) : State :=
  let t := (s.modLane lane fun l => { l with refused := l.refused + 1 }).modPeer src fun p => { p with refused := p.refused + 1 }
  (t.logFabric logRefused src status).sendMsix 8 1

/-- Performs a request in its turn, or disposes of it refused; kinds 1 to 3 are answered. A reserved op or width, and an offset that is misaligned or
whose bytes cross a block, break none of the checks of R342 and R343, so such a request is performed as its fields stand, a reserved op as an
exchange (the model's choice, log 34). -/
def State.performRequest (s : State) (src lane : Nat) (p : Packet) : State :=
  let answered := decide (1 ≤ p.kind ∧ p.kind ≤ 3)
  match s.requestPlace src p with
  | .error c =>
    let t := s.refuse src lane c
    if answered then t.sendResponse src p c [] else t
  | .ok pa =>
    let (t, f) := s.applyAccess (packetAccess p pa)
    if answered then t.sendResponse src p (if f.rpoison then 4 else 0) (bytesOf f.result f.width) else t

/-- Capacity of the resequencing store: bytes, and keys (R337, R343). -/
def storeBytes : Nat := 12 * 2 ^ 20
def maxKeys : Nat := 262144
def State.storedBytes (s : State) : Nat := (s.iod.keys.map fun k => (k.stored.map fun p => packetSize p.2).sum).sum

def State.seqState (s : State) (k : SeqKey) : Option SeqState := s.iod.keys.find? fun x => x.key = k

/-- Replaces the state of a key, as the one used last. -/
def State.putSeq (s : State) (x : SeqState) : State :=
  { s with iod := { s.iod with keys := (s.iod.keys.filter fun y => decide (y.key ≠ x.key)) ++ [x] } }
def State.dropSeq (s : State) (k : SeqKey) : State := { s with iod := { s.iod with keys := s.iod.keys.filter fun y => decide (y.key ≠ k) } }

/-- Performs the stored successors of a key in turn, each with the lane that it came on. -/
def State.drainStored (s : State) : Nat → SeqState → State × SeqState
  | 0, x => (s, x)
  | fuel + 1, x => match x.stored.find? fun p => p.2.seq = x.expected with
    | none => (s, x)
    | some p => (s.performRequest x.key.src p.1 p.2).drainStored fuel
        { x with expected := (x.expected + 1) % 65536, stored := x.stored.filter fun q => decide (q.2.seq ≠ p.2.seq) }

/-- A request packet under the state of its key: performed with its successors, stored, answered as a duplicate, or refused with a nack. -/
def State.takeRequest (s : State) (lane : Nat) (x : SeqState) (p : Packet) : State :=
  let d := (p.seq + 65536 - x.expected) % 65536
  if d = 0 then
    let (t, y) := (s.performRequest x.key.src lane p).drainStored 64 { x with expected := (x.expected + 1) % 65536 }
    (t.putSeq y).sendAck x.key y.expected
  else if d < 64 then
    if (x.stored.any fun q => decide (q.2.seq = p.seq)) then s.putSeq x
    else if s.storedBytes + packetSize p ≤ storeBytes then s.putSeq { x with stored := x.stored ++ [(lane, p)] }
    else (s.putSeq x).sendNack x.key x.expected []
  else if d < 32768 then (s.putSeq x).sendNack x.key x.expected []
  else (s.putSeq x).sendAck x.key x.expected

/-- Is a key idle (R343): all performed, its acknowledgements gone out, and nothing of it heard for 10 ms, or for 3 ms while all keys are taken? -/
def State.idleKey (s : State) (x : SeqState) : Bool :=
  let acking := s.iod.out.any fun o => o.dest == x.key.src && o.packet.kind == 6 && o.packet.stream == x.key.stream && o.packet.chan == x.key.chan
  x.stored == [] && !acking && decide (x.heard + (if s.iod.keys.length < maxKeys then 10000 else 3000) ≤ s.micros)

/-- Notes that the source of a key without state has been asked to send again: its first packet may now arrive more than once (R343, R411). -/
def State.askAgain (s : State) (k : SeqKey) : State := { s with iod := { s.iod with refused := k :: s.iod.refused.filter fun x => decide (x ≠ k) } }

/-- Is a start-of-stream packet a copy of the one that started the numbering in use? A source sends that packet again only when this device had
asked for it; any other start of a stream sets expected to 0 (R343, R410, R421; log 33). -/
def SeqState.again (x : SeqState) (p : Packet) : Bool := x.repeats && x.first == some p

/-- A request packet (R343). A key without state begins with sos; with 262,144 keys held the least recently used idle one gives way. -/
def State.request (s : State) (src lane : Nat) (p : Packet) : State :=
  let k : SeqKey := ⟨src, p.stream, p.chan⟩
  let new : SeqState := { key := k, first := some p, repeats := s.iod.refused.contains k, heard := s.micros }
  let start (t : State) : State := { t with iod := { t.iod with refused := t.iod.refused.filter fun x => decide (x ≠ k) } }.takeRequest lane new p
  match s.seqState k with
  | some x =>
    let y := { x with heard := s.micros }
    if !p.sos then s.takeRequest lane y p
    else if x.again p then (s.putSeq y).sendAck k y.expected
    else s.takeRequest lane { y with expected := 0, first := some p, repeats := false } p
  | none =>
    if !p.sos then (s.askAgain k).sendNack k 0 []
    else if s.iod.keys.length < maxKeys then start s
    else match s.iod.keys.find? s.idleKey with
      | some v => start (s.dropSeq v.key)
      | none => (s.askAgain k).sendNack k 0 [3]

/-! ### Responses (R343, R407) -/

/-- Does a response answer the request of an access: from its device, with its rtag and its place in the order of its stream? A later request may
have the same rtag, never the same place (R439, log 34). -/
def Flight.answeredBy (f : Flight) (src : Nat) (p : Packet) : Bool :=
  f.toDev src && f.rtag == some p.rtag && f.who.group.stream == p.stream && f.chan == some p.chan && f.seq == some p.seq && f.kind.returns && !f.performed

/-- A response completes the accesses of its request: each takes its bytes, or is poisoned when the status is not 0. One that comes after its timer,
or that no access waits for, is discarded (R439). -/
def State.response (s : State) (src : Nat) (p : Packet) : State :=
  let hit := s.flights.filter fun f => f.answeredBy src p
  let lo := ((hit.map fun f => f.place.segOff.2).min?).getD 0
  if p.status ≠ 0 then hit.foldl (fun (t : State) f => t.poisonFlight f.id) s
  else
    let value (f : Flight) : Nat := loadValue f.signExt f.width (natOfBytes ((p.payload.drop (f.place.segOff.2 - lo)).take f.width))
    hit.foldl (fun (t : State) f => t.modFlight f.id fun g => { g with performed := true, result := value f }) s

/-- The packets of a body, in its order (R343). A liveness ack changes nothing here, and an acknowledgement that covers nothing new is dropped. -/
def State.dispose (s : State) (src lane : Nat) (p : Packet) : State :=
  if p.kind ≤ 4 then s.request src lane p
  else if p.kind = 5 then s.response src p
  else if p.kind = 6 then
    let a : ChanKey × Nat := (⟨p.stream, p.chan, src * 5 + 4⟩, p.seq)
    if p.stream ≠ 0 ∧ (s.keyEntry a.1).any fun e => e.ackAhead a then { s with iod := { s.iod with acks := s.iod.acks ++ [a] } } else s
  else if p.kind ≤ 9 then { s with iod := { s.iod with inbox := s.iod.inbox ++ [(src, p)] } }
  else if p.kind = 10 then s.modPeer src fun q => q.kxTake p
  else s

def State.disposeAll (s : State) (src lane : Nat) (ps : List Packet) : State := ps.foldl (fun (t : State) p => t.dispose src lane p) s

/-- A packet that is looped back (R344): a request is performed where it stands in egress order, which is the order of its key; a response goes to its
slot. -/
def State.loopBack (s : State) (o : OutPacket) : State :=
  if 4 < o.packet.kind then s.dispose s.plat.device 0 o.packet
  else
    let t := s.performRequest s.plat.device 0 o.packet
    let mark (f : Flight) : Flight :=
      if f.key = o.key ∧ f.seq = some o.packet.seq ∧ f.kind.returns = false then { f with performed := true } else f
    { t with flights := t.flights.map mark }

/-! ### Frames (R340, R346) -/

/-- FRAME_TRANSMIT: the next frame for a device on a virtual channel. Packets for the device itself are looped back (R344). With a counter past half its
range a new handshake starts (R348). -/
def execFrameTransmit (dest vc : Nat) (s : State) : Out :=
  let took := takeBody (s.waitingFor dest vc) 960
  if took = [] then .next s
  else if dest = s.plat.device then
    .next (took.foldl (fun (t : State) o => t.loopBack o) { s with iod := { s.iod with out := sentOut took 0 s.iod.out } })
  else if (!s.keyed dest ∧ vc ≠ 35) ∨ (s.peer dest).lost then .next s
  else
    let size := (took.map fun o => packetSize o.packet).sum
    match s.nextLane dest vc (ceilDiv size 64 + 1) with
    | none => .next s
    | some n =>
      let t := s.sendFrame dest vc took n
      .next (if sget 0 (t.peer dest).counters n ≥ 2 ^ 39 ∧ (t.peer dest).kx = .idle then t.startHandshake dest else t)

/-- A frame whose tag fails (R406): counted against its source and plane; 8 within 1 ms start a new handshake. -/
def State.tagFailed (s : State) (src lane : Nat) : State :=
  let now := s.micros
  let times := ((s.peer src).tagFails.filter fun t => decide (now < t + 1000)) ++ [now]
  let t := s.modLane lane fun l => { l with tagFail := l.tagFail + 1 }
  if times.length ≥ 8 then (t.modPeer src fun p => { p with tagFails := [] }).startHandshake src
  else t.modPeer src fun p => { p with tagFails := times }

/-- The key that a frame's epoch names (R348). -/
def Peer.keyFor (p : Peer) (epoch : Nat) : Option (BitVec 256) :=
  if epoch = 0 then none
  else if epoch = p.epoch then some p.recvKey
  else if p.prevValid ∧ epoch = p.prevEpoch then some p.prevRecvKey
  else none

/-- The clear body of a received frame: its epoch's key, the gmac test of R347, and the tag. -/
def Peer.clearBody (p : Peer) (f : Frame) : Option (List Byte) :=
  if f.gmac && !peGmac p.entry f.vc then none
  else match p.keyFor f.epoch with
    | none => none
    | some k => openFrame k f

/-- A frame that its link has passed on is disposed of: one for this device, from a device whose entry is valid and that is not lost, whose tag
verifies, gives its packets in body order (R343, R346, R412); a frame of epoch 0 is in clear and is taken on virtual channel 35 only, for its key messages (R348). -/
def State.disposeFrame (s : State) (lane : Nat) (f : Frame) : State :=
  let p := s.peer f.src
  let size := f.body.length
  if f.plane ≠ lane ∨ f.dst ≠ s.plat.device ∨ f.src = s.plat.device ∨ !peValid p.entry ∨ p.lost ∨ size % 64 ≠ 0 ∨ size < 64 ∨ 960 < size then s
  else if f.epoch = 0 ∧ f.vc = 35 ∧ f.tag = 0 ∧ !f.gmac then
    s.disposeAll f.src lane ((packetsOf 30 f.body).filter fun p => decide (p.kind = 10))
  else match p.clearBody f with
    | none => s.tagFailed f.src lane
    | some body => s.disposeAll f.src lane (packetsOf 30 body)

/-- FRAME_RECEIVED: the link checks the trailer (R404). A frame with an uncorrectable codeword, a wrong CRC or a number beyond the one expected is
answered with a nack, a link duplicate is dropped, and the frame expected enters the input pool, is disposed of, and leaves the pool (R341). -/
def execFrameReceived (lane : Nat) (f : Frame) (s : State) : Out :=
  let l := s.lane lane
  let ahead := (f.link.seq.toNat + 4096 - l.recvSeq) % 4096
  let flits := bodyFlits f.body + 1
  if !l.up then .next s
  else if !f.link.fec ∨ f.link.crc ≠ frameCrc f ∨ (ahead ≠ 0 ∧ ahead < 2048) then .next (s.modLane lane fun l => { l with answer := some (false, l.recvSeq) })
  else if ahead ≠ 0 then .next (s.modLane lane fun l => { l with answer := some (true, (l.recvSeq + 4095) % 4096) })
  else
    let t := s.modLane lane fun l => { l with recvSeq := (l.recvSeq + 1) % 4096, answer := some (true, l.recvSeq) }.take f.vc flits
    .next ((t.disposeFrame lane f).modLane lane fun l => l.free f.vc flits)

/-! ### The resynchronising exchange (R408 to R411) -/

/-- The key at this source that a packet from a device names. -/
def keyFrom (src : Nat) (p : Packet) : ChanKey := ⟨p.stream, p.chan, src * 5 + 4⟩

/-- Takes a packet out of the inbox. -/
def State.takeInbox (s : State) (src : Nat) (p : Packet) : State := { s with iod := { s.iod with inbox := s.iod.inbox.erase (src, p) } }

/-- NACK_RECEIVED: an exchange starts; a nack of no room asks for a retransmission in 20 µs instead (R343). -/
def execNackReceived (src : Nat) (p : Packet) (s : State) : Out :=
  if !s.iod.inbox.contains (src, p) ∨ p.kind ≠ 7 then .next s
  else
    let t := s.takeInbox src p
    if p.payload = [3] then
      match t.keyEntry (keyFrom src p) with
      | some e => .next (if e.unacked = 0 then t else t.setKeyEntry { e with noRoom := true })
      | none => .next t
    else .next (t.startExchange (keyFrom src p))

/-- The unacknowledged packets of a key wait for frames again. -/
def State.resend (s : State) (k : ChanKey) : State :=
  let again (o : OutPacket) : OutPacket := if o.key = some k then { o with sent := false } else o
  { s with iod := { s.iod with out := s.iod.out.map again } }

/-- NO_ROOM_RETRY (R343). -/
def execNoRoomRetry (key : ChanKey) (s : State) : Out :=
  match s.keyEntry key with
  | some e => if e.noRoom then .next ((s.setKeyEntry { e with noRoom := false }).resend key) else .next s
  | none => .next s

/-- Has some packet of a key been sent and not acknowledged? -/
def State.sentKey (s : State) (k : ChanKey) : Bool := s.iod.out.any fun o => o.key == some k && o.sent

/-- RESYNC_TIMEOUT: the oldest unacknowledged packet has waited 50 µs (R408). -/
def execResyncTimeout (key : ChanKey) (s : State) : Out := if s.sentKey key then .next (s.startExchange key) else .next s

/-- RESYNC at the destination: the reply carries expected, or says that there is no state (R409, R411); a lost-packet RESYNC drops the state. -/
def execResync (src : Nat) (p : Packet) (s : State) : Out :=
  if !s.iod.inbox.contains (src, p) ∨ p.kind ≠ 8 then .next s
  else
    let t := s.takeInbox src p
    let k : SeqKey := ⟨src, p.stream, p.chan⟩
    let reply (seq : Nat) (payload : List Byte) : OutPacket :=
      { dest := src, vc := 34, packet := { stream := p.stream, chan := p.chan, seq := seq, kind := 9, length := payload.length, payload := payload } }
    if p.payload = [1] then .next (t.dropSeq k)
    else match t.seqState k with
      | some x => .next ((t.putSeq { x with heard := t.micros }).queueOut (reply x.expected []))
      | none => .next ((t.askAgain k).queueOut (reply 0 [2]))

/-- Renumbers a key from 0, the first packet marked as the start of a stream (R411). -/
def State.renumber (s : State) (e : ChanEntry) : State :=
  let new (q : Nat) : Nat := seqDist e q
  let newOut (o : OutPacket) : OutPacket :=
    if o.key = some e.key then { o with packet := { o.packet with seq := new o.packet.seq, sos := decide (new o.packet.seq = 0) }, sent := false } else o
  let newFlight (f : Flight) : Flight := if f.key = some e.key ∧ f.done < 3 then { f with seq := f.seq.map new } else f
  { s with flights := s.flights.map newFlight, iod := { s.iod with out := s.iod.out.map newOut, acks := s.iod.acks.filter fun a => decide (a.1 ≠ e.key) } }.setKeyEntry
    { e with ackSeq := 0, nextSeq := e.unacked, exchange := false, noRoom := false, fresh := decide (e.unacked = 0) }

/-- A packet is lost for good (R411): the destination drops its state, the channel is uncertain, the entry goes, and the key starts afresh. -/
def State.abandonKey (s : State) (e : ChanEntry) : State :=
  let k := e.key
  let hit := s.flights.filter fun f => f.key = some k && f.seq.isSome && !f.performed
  let t := (hit.filter fun f => f.kind.returns).foldl (fun (t : State) f => t.poisonFlight f.id) s
  let cores := t.cores.map fun (c : Nat × Core) => (c.1, { c.2 with chans := c.2.chans.filter fun x => decide (x.key ≠ k) })
  let gone (f : Flight) : Flight := if f.key = some k ∧ f.seq.isSome then { f with performed := true, done := 3 } else f
  let t1 := { t with cores := cores, flights := t.flights.map gone,
                     iod := { t.iod with out := t.iod.out.filter fun o => decide (o.key ≠ some k), acks := t.iod.acks.filter fun a => decide (a.1 ≠ k) } }
  let mark (x : Team) : Team :=
    { x with uncertain := setBit x.uncertain k.chan true, image := x.image.map fun im => { im with chans := im.chans.filter fun y => decide (y.key ≠ k) } }
  let t2 := t1.modTeam k.stream mark
  let note : Packet := { stream := k.stream, chan := k.chan, seq := e.ackSeq, kind := 8, length := 1, payload := [1] }
  (t2.settleAll hit).sweep.queueOut { dest := k.die / 5, vc := 34, packet := note }

/-- RESYNC_REPLY at the source (R409 step 3, R411). -/
def execResyncReply (src : Nat) (p : Packet) (s : State) : Out :=
  if !s.iod.inbox.contains (src, p) ∨ p.kind ≠ 9 then .next s
  else
    let t := s.takeInbox src p
    match t.keyEntry (keyFrom src p) with
    | none => .next t
    | some e =>
      let n := (p.seq + 65536 - e.ackSeq) % 65536
      if !e.exchange then .next t
      else if p.payload = [2] then
        if e.lostPackets = [] then .next (t.renumber e) else .next (t.abandonKey e)
      else if e.unacked < n then .next t
      else
        let t1 := t.applyAck { e with exchange := false } n
        match t1.keyEntry e.key with
        | some e1 =>
          if e.lostPackets.any fun q => decide (n ≤ seqDist e q) then .next (t1.abandonKey e1)
          else .next ((t1.setKeyEntry { e1 with lostPackets := [] }).resend e.key)
        | none => .next t1

/-- RESYNC_RETRY: the source repeats RESYNC until a reply arrives (R409). -/
def execResyncRetry (key : ChanKey) (s : State) : Out :=
  match s.keyEntry key with
  | some e =>
    let waits := s.iod.out.any fun o => o.dest = key.die / 5 && o.packet.kind == 8 && o.packet.stream == key.stream && o.packet.chan == key.chan
    if e.exchange && !waits && decide (e.unacked > 0) then .next ((s.setKeyEntry { e with exchange := false }).startExchange key) else .next s
  | none => .next s

/-- RESPONSE_TIMEOUT: 100 µs after the acknowledgement of a request its response has not come, and it completes poisoned (R439). -/
def execResponseTimeout (id : Nat) (s : State) : Out :=
  match s.flight? id with
  | none => .next s
  | some f =>
    if f.rtag.isSome && f.kind.returns && !f.performed && decide (f.done ≥ 3) then
      let hit := s.flights.filter fun g => g.request = f.request && !g.performed
      let t := hit.foldl (fun (t : State) g => t.poisonFlight g.id) s
      .next ((t.modLane 0 fun l => { l with refused := l.refused + 1 }).logFabric logExpired (f.place.coords.2.1 / 64) 0)
    else .next s

/-- KEY_STATE_IDLE_DROP: an idle key's state goes (R343). -/
def execKeyStateIdleDrop (key : SeqKey) (s : State) : Out :=
  match s.seqState key with
  | some x => if s.idleKey x then .next (s.dropSeq key) else .next s
  | none => .next s

/-! ### Links (R404, R405) -/

/-- LINK_ACK_RECEIVED: frees the frames up to the one named. -/
def execLinkAckReceived (lane seq : Nat) (s : State) : Out :=
  let l := s.lane lane
  if (l.replay.any fun f => decide (f.1 = seq)) then
    .next (s.modLane lane fun l => { l with replay := (l.replay.dropWhile fun f => decide (f.1 ≠ seq)).drop 1, fails := 0 })
  else .next s

/-- LINK_NACK_RECEIVED. -/
def execLinkNackReceived (lane : Nat) (s : State) : Out := if (s.lane lane).replay = [] then .next s else .next (s.linkReplay lane)
/-- LINK_ACK_TIMEOUT. -/
def execLinkAckTimeout (lane : Nat) (s : State) : Out := if (s.lane lane).replay = [] then .next s else .next (s.linkReplay lane)

/-- LANE_DOWN_SIGNAL: the far end has declared the lane down. -/
def execLaneDownSignal (lane : Nat) (s : State) : Out := if (s.lane lane).up then .next (s.laneDown lane) else .next s

/-- LANE_RETRAIN: every 10 ms, for a lane that the boot has trained once. -/
def execLaneRetrain (lane : Nat) (ok : Bool) (s : State) : Out :=
  if !(s.lane lane).up ∧ lane < 128 ∧ s.plat.bootStatus = 0x10 then .next (s.modLane lane fun l => { l with retrained := ok }) else .next s

/-- PLANE_REJOIN: after 1 ms of clean link acknowledgements. A plane counted as lost is in service again (R433). -/
def execPlaneRejoin (lane : Nat) (s : State) : Out :=
  if (s.lane lane).retrained && !(s.lane lane).up then .next (s.modLane lane fun l => { l with up := true, retrained := false, lost := false })
  else .next s

/-- PLANE_UNREACHABLE_NOTICE: the plane leaves the rotation towards a device. -/
def execPlaneUnreachableNotice (lane dest : Nat) (s : State) : Out :=
  .next (s.modPeer dest fun p => { p with excluded := if p.excluded.contains lane then p.excluded else p.excluded ++ [lane] })

/-- PLANE_PROBE: an excluded plane is tried again. -/
def execPlaneProbe (lane dest : Nat) (ok : Bool) (s : State) : Out :=
  if ok then .next (s.modPeer dest fun p => { p with excluded := p.excluded.filter fun n => decide (n ≠ lane) }) else .next s

/-- CREDIT_GRANT: the far port frees flits of an identifier (R341). -/
def execCreditGrant (lane vc flits : Nat) (s : State) : Out :=
  .next (s.modLane lane fun l => { l with used := sset 0 l.used vc (sget 0 l.used vc - flits) })

end Sys2Proof.Machine
end

