-- ==== Sys2Proof/Machine/Sched.lean ====
section
/-! DEFINITION. Machine/Sched.lean: pilots and teams (05 R114 to R127): draws, admission, release, retirement, and the completion of grids and
bundles. -/

namespace Sys2Proof.Machine

/-! ### Grids and draw units (R29, R30, R116) -/

def State.grid? (s : State) (part id : Nat) : Option Grid := (s.part part).grids.find? fun g => g.id = id
def State.modGrid (s : State) (part id : Nat) (f : Grid → Grid) : State :=
  s.modPart part fun p => { p with grids := p.grids.map fun g => if g.id = id then f g else g }

/-- The draw units of a grid: teams, or whole clusters. -/
def Grid.units (g : Grid) : Nat := g.teams / ldCluster g.d
/-- Team number of coordinates (R29). -/
def Grid.number (g : Grid) (x y z : Nat) : Nat := x + g.x * (y + g.y * z)
/-- The members of a draw unit in ascending rank: their coordinates. -/
def Grid.members (g : Grid) (u : Nat) : List (Nat × Nat × Nat) :=
  let cx := ldCx g.d
  let cy := ldCy g.d
  let cz := ldCz g.d
  let nx := g.x / cx
  let ny := g.y / cy
  (List.range (cx * cy * cz)).map fun r =>
    (u % nx * cx + r % cx, u / nx % ny * cy + r / cx % cy, u / (nx * ny) * cz + r / (cx * cy))

/-- The teams of a draw unit that have been admitted. -/
def State.unitTeams (s : State) (part g u : Nat) : List Team := s.allTeams.filter fun t => decide (t.part = part ∧ t.grid = g ∧ t.cluster = u)

/-- Its predecessors inside the grid, as team numbers (R121). -/
def Grid.preds (g : Grid) (c : Nat × Nat × Nat) : List Nat :=
  (List.range (ldNvec g.d)).filterMap fun i =>
    let v := ldVec g.d i
    let x : Int := c.1 - v.1
    let y : Int := c.2.1 - v.2.1
    let z : Int := c.2.2 - v.2.2
    if 0 ≤ x ∧ x < g.x ∧ 0 ≤ y ∧ y < g.y ∧ 0 ≤ z ∧ z < g.z then some (g.number x.toNat y.toNat z.toNat) else none

/-- Is a draw unit released: every predecessor of every member has its bit set in the scoreboard as the pilot last read it (R123)? -/
def Grid.released (g : Grid) (r : Reserved) : Bool := (g.members r.unit).all fun c => (g.preds c).all fun n => sget false r.seen n

/-- Puts a unit into a save list, in ascending number (R124). -/
def insNat (n : Nat) : List Nat → List Nat
  | [] => [n]
  | m :: ms => if n < m then n :: m :: ms else if n = m then m :: ms else m :: insNat n ms

/-- Reserved units drop their room and return by the save list (R124, Table 34). -/
def Grid.dropReserved (g : Grid) (drop : Reserved → Bool) : Grid :=
  { g with saved := (g.reserved.filter drop).foldl (fun l r => insNat r.unit l) g.saved, reserved := g.reserved.filter fun r => !drop r }

/-- The floor lapses once the producer's last team has been admitted (R112). -/
def State.lapseFloor (s : State) (part id : Nat) : State :=
  match s.grid? part id with
  | none => s
  | some g =>
    let admitted := g.saved.all fun u => !(s.unitTeams part id u).isEmpty
    if g.units ≤ g.ticket ∧ g.reserved = [] ∧ admitted then s.modGrid part id fun g => { g with floor := [] } else s

/-! ### Placing groups (R127) -/

/-- The lowest free group slot of a core, and the pipe with the fewest groups. -/
def freeSlot (gs : List Group) : Nat := ((List.range 16).find? fun n => gs.all fun g => g.slot != n).getD 0
def leastPipe (gs : List Group) : Nat :=
  let count (p : Nat) : Nat := (gs.filter fun g => g.pipe = p && g.slot < 16).length
  (List.range 4).foldl (fun b p => if count p < count b then p else b) 0

/-- Groups of a core. -/
def State.groupsOn (s : State) (core : Nat) : List Group := s.allGroups.filter fun g => decide (g.core = core)

/-- Places groups on a core one after another, in the order given. -/
def placeGroups (core : Nat) : List Group → List Group → List Group
  | _, [] => []
  | there, g :: gs =>
    let g1 := { g with core := core, slot := freeSlot there, pipe := leastPipe there }
    g1 :: placeGroups core (g1 :: there) gs

/-! ### Admission (R118, R119, R24) -/

/-- The groups of a team as they start: role after role, rank after rank (R27). -/
def Grid.newGroups (g : Grid) (stream now : Nat) : List Group :=
  let roles := (List.range (ldRoles g.d)).flatMap fun i => (List.range (lrGroups (ldRole g.d i))).map fun k => (i, k)
  ((List.range roles.length).zip roles).map fun x =>
    let role := ldRole g.d x.2.1
    let lanes := lrLanes role
    let body : MUnit := { id := 0, pc := pcOf (BitVec.ofNat 64 (lrPc role)), mask := fullMask lanes, since := now }
    let sregs := if g.task then [] else ((List.range 8).zip g.args).foldl (fun m a => sset {} m a.1 ⟨a.2, false⟩) []
    { key := ⟨stream, x.1⟩, st := if g.task then .idle else .live, role := x.2.1, rank := x.2.2, lanes := lanes, budget := lrBudget role,
      r := { s := sregs }, sys := { domain := g.domain }, units := if g.task then [] else [body] }

/-- Admits one team into its room: its allocation, tiles and hardware queues are fresh, its layout table is loaded, its groups start. No unit is in
issue. A team of a grid with vectors begins with a device-scope acquire (R103, R123). -/
def State.admitTeam (s : State) (part : Nat) (g : Grid) (u rank : Nat) (c : Nat × Nat × Nat) (room : Room) : State :=
  let (stream, s1) := s.takeStream
  let n := needOf g.d
  let bank := s1.loadBank part g.domain (domBank ((s1.part part).domain g.domain))
  let t : Team :=
    { stream := stream, part := part, grid := g.id, number := g.number c.1 c.2.1 c.2.2, core := room.core, x := c.1, y := c.2.1, z := c.2.2,
      gridX := g.x, gridY := g.y, gridZ := g.z, rank := rank, clusterSize := ldCluster g.d, cluster := u, ngroups := n.slots,
      priority := g.priority, taskMode := g.task, taskQueue := g.aux, admitted := s1.serial + 1, base := room.base, size := n.size,
      ctx := room.ctx, tile0 := room.tile0, tiles := n.tiles, ceiling := n.replies, hqs := n.hqs, slots := bank }
  let s2 := { s1.clearAlloc room.core room.base n.size with serial := s1.serial + 1 }
  let s3 := match room.ctx with
    | some x => s2.clearTiles room.core x room.tile0 n.tiles
    | none => s2
  let s4 := s3.modCore room.core fun k => { k with hqs := k.hqs.filter fun e => !n.hqs.toNat.testBit e.1 }
  let s5 := if ldNvec g.d > 0 then s4.l1DropAll room.core else s4
  let gs := (placeGroups room.core (s5.groupsOn room.core) (g.newGroups stream s5.cycle)).map fun x => s5.rederive t x
  { s5 with teams := t :: s5.teams, groups := s5.groups ++ gs, iod := { s5.iod with streams := sset 1024 s5.iod.streams stream room.core } }

/-- Admits a draw unit: all its members in one step (R120). -/
def State.admitUnit (s : State) (part : Nat) (g : Grid) (u : Nat) (rooms : List Room) : State :=
  let ms := (g.members u).zip rooms
  (((List.range ms.length).zip ms).foldl (fun (t : State) m => t.admitTeam part g u m.1 m.2.1 m.2.2) s.vacate).lapseFloor part g.id

/-! ### Drawing (R116, R120, R124) -/

/-- Rooms for several draw units at once, each beside the rooms of those before. -/
def State.holdUnits (s : State) (part core : Nat) (g : Grid) : List Nat → List Holder → Option (List (Nat × List Room))
  | [], _ => some []
  | u :: us, extra =>
    let n := needOf g.d
    match s.unitRoom part core g.id (List.replicate (ldCluster g.d) n) extra with
    | none => none
    | some rs => (s.holdUnits part core g us (extra ++ rs.map fun r => ⟨n, r⟩)).map fun xs => (u, rs) :: xs

/-- A drawn unit is admitted at once when its grid has no vectors, else Reserved. -/
def State.takeUnit (s : State) (part core : Nat) (g : Grid) (x : Nat × List Room) : State :=
  if ldNvec g.d = 0 then s.admitUnit part g x.1 x.2
  else s.modGrid part g.id fun g => { g with reserved := g.reserved ++ [{ unit := x.1, pilot := core, rooms := x.2, seen := g.board }] }

/-- TEAM_DRAW: `count` units from the ticket, or the lowest entry of the save list when that one was never admitted (R116, R124). -/
def execTeamDraw (core part grid count : Nat) (s : State) : Out :=
  match s.grid? part grid with
  | none => .next s
  | some g =>
    if !s.pilotServes core part ∨ g.complete then .next s
    else match g.saved with
      | [] =>
        if count < 1 ∨ 8 < count ∨ g.units < g.ticket + count then .next s
        else match s.holdUnits part core g ((List.range count).map fun i => g.ticket + i) [] with
          | none => .next s
          | some xs => .next (xs.foldl (fun (t : State) x => t.takeUnit part core g x)
              (s.modGrid part grid fun g => { g with ticket := g.ticket + count }))
      | u :: rest =>
        if count ≠ 1 ∨ !(s.unitTeams part grid u).isEmpty then .next s
        else match s.holdUnits part core g [u] [] with
          | none => .next s
          | some xs => .next (xs.foldl (fun (t : State) x => t.takeUnit part core g x) (s.modGrid part grid fun g => { g with saved := rest }))

/-- SCOREBOARD_REREAD: a pilot reads again the words that its Reserved teams wait on (R122). -/
def execScoreboardReread (core : Nat) (s : State) : Out :=
  if (s.core core).pilot then
    .next { s with parts := s.parts.map fun p => (p.1, { p.2 with grids := p.2.grids.map fun g =>
      { g with reserved := g.reserved.map fun r => if r.pilot = core then { r with seen := g.board } else r } }) }
  else .next s

/-- TEAM_RELEASE: a Reserved unit whose predecessors have retired is admitted into its room (R123), on a floor core only if that keeps room for a
producer team (R112). Its pilot no longer has it to admit, so a fenced core's pilot may stop (R432). -/
def execTeamRelease (part grid team : Nat) (s : State) : Out :=
  match s.grid? part grid with
  | none => .next s
  | some g => match g.reserved.find? fun r => r.unit = team with
    | none => .next s
    | some r =>
      let kept := r.rooms.all fun x => (s.withFloors part x.core grid (s.holders part x.core [])).isSome
      if (s.core r.pilot).pilot && g.released r && kept then
        .next ((s.modGrid part grid fun g => { g with reserved := g.reserved.filter fun x => decide (x.unit ≠ team) }).admitUnit part g team
          r.rooms).stopAllFenced
      else .next s

/-- The partition that a core belongs to. -/
def State.partOf (s : State) (core : Nat) : Option Nat :=
  (s.parts.find? fun p => p.2.created && p.2.cores.toNat.testBit core).map fun p => p.1

/-- PILOT_HEARTBEAT: the pilot adds 1 to its word of the status page (R117). -/
def execPilotHeartbeat (core : Nat) (s : State) : Out :=
  match s.partOf core with
  | some p => if (s.core core).pilot then .next (s.modPart p fun k => { k with beats := sset 0 k.beats core (sget 0 k.beats core + 1) }) else .next s
  | none => .next s

/-! ### Retirement (R125, R44) -/

/-- The groups of a team. -/
def State.teamGroups (s : State) (stream : Nat) : List Group := s.allGroups.filter fun g => decide (g.key.stream = stream)

/-- Every group of a team has ended (R46). -/
def State.groupsEnded (s : State) (stream : Nat) : Bool := (s.teamGroups stream).all fun g => g.st == .ended

/-- Is a task-mode grid complete: every unit admitted, none saved, its queue empty, nothing in flight, every group idle (R44)? -/
def State.taskDone (s : State) (g : Grid) : Bool :=
  let d := s.readRange g.part g.domain g.aux.toNat 64
  let ts := s.allTeams.filter fun t => decide (t.part = g.part ∧ t.grid = g.id)
  decide (g.units ≤ g.ticket) && g.saved.isEmpty && g.reserved.isEmpty && tqHeld d == 0 && tqOvfCount d == 0 && tqInflight d == 0 &&
  ts.all fun t => t.st == .admitted && (s.teamGroups t.stream).all fun k => k.st == .idle

/-- The groups of a complete task-mode grid end (Table 13). -/
def State.endTaskGroups (s : State) (g : Grid) : State :=
  let mine (k : Group) : Bool := (s.team? k.key.stream).any fun t => t.part == g.part && t.grid == g.id
  { s with groups := s.groups.map fun k => if mine k then { k with st := .ended } else k }.modGrid g.part g.id fun g => { g with complete := true }

/-- Steps 2 to 4 of R125: copies and matrix instructions are done, all channels are drained at device scope, earlier loads have returned. -/
def State.teamQuiet (s : State) (t : Team) : Bool :=
  !((List.range 2).any fun c => (s.ctxQueue t.core c).any fun e => e.bundle.isNone && e.stream == t.stream) &&
  !((s.core t.core).copies.any fun r => r.bundle.isNone && r.stream == t.stream) &&
  !(s.flights.any fun f => f.who.group.stream == t.stream && (decide (f.done < 1) || (f.kind.returns && !f.returned)))

/-- Steps 5 and 6: resources are freed, the latch released, the scoreboard bit set, the team counted. -/
def State.freeTeam (s : State) (t : Team) : State :=
  let s1 := { s with groups := s.groups.filter fun g => decide (g.key.stream ≠ t.stream) }
  let s2 := s1.modTeam t.stream fun t => { t with st := .retired, mjoins := [], joins := [] }
  let s3 := s2.modCore t.core fun k => { k with hqs := k.hqs.filter fun e => !t.hqs.toNat.testBit e.1 }
  match t.ctx with
  | none => s3
  | some x => match ((s3.core t.core).ctx x).latch with
    | some l => if l.1.stream = t.stream then s3.setLatch t.core x none [] else s3
    | none => s3

def State.countRetired (s : State) (t : Team) : State :=
  s.modGrid t.part t.grid fun g =>
    let n := g.retired + 1
    { g with retired := n, board := if ldNvec g.d > 0 then sset false g.board t.number true else g.board, complete := g.complete || n == g.teams }

/-- TEAM_RETIREMENT: a team whose groups have ended is Retiring, and retires once it is quiet. A task-mode grid that is complete ends its groups
first. With the halt line high the team stays in Retiring (R389); without its core's pilot it waits (Table 167). -/
def execTeamRetirement (stream : Nat) (s : State) : Out :=
  match s.team? stream with
  | none => .next s
  | some t =>
    let s1 := match s.grid? t.part t.grid with
      | some g => if g.task && !g.complete && s.taskDone g then s.vacate.endTaskGroups g else s
      | none => s
    if stream = 0 ∨ (t.st ≠ .admitted ∧ t.st ≠ .retiring) ∨ !s1.groupsEnded stream then .next s
    else
      let s2 := s1.modTeam stream fun t => { t with st := .retiring, preempt := false }
      if s2.pilotWorks t.core t.part && s2.teamQuiet t then .next (((s2.vacate.freeTeam t).countRetired t).stopFenced t.core) else .next s2

/-! ### Bundles (R111) -/

/-- Every access of a bundle's streams has been performed at system scope. -/
def State.bundleQuiet (s : State) (part : Nat) (b : Bundle) : Bool :=
  let ids := (s.part part).grids.filter fun g => decide (g.bundle = b.id)
  let streams := b.stream :: ((s.allTeams.filter fun t => decide (t.part = part) && ids.any fun g => decide (g.id = t.grid)).map fun t => t.stream)
  b.toCopy.isEmpty && !((s.core b.core).copies.any fun r => r.bundle.any fun x => x.1 == b.id) &&
  (ids.all fun g => g.complete && decide (g.retired = g.teams)) && (b.streams.all fun m => s.streamDone m b.id) &&
  !(s.flights.any fun f => streams.contains f.who.group.stream && decide (f.done < 3))

/-- The records of a bundle and of its teams go; those of its grids stand until a bundle starts again (R366). -/
def State.dropBundle (s : State) (part : Nat) (b : Bundle) : State :=
  let ids := ((s.part part).grids.filter fun g => decide (g.bundle = b.id)).map fun g => g.id
  let mine (t : Team) : Bool := decide (t.part = part) && ids.contains t.grid
  { s with teams := s.teams.filter fun t => !mine t }.modPart part fun p =>
    { p with bundles := p.bundles.filter fun x => decide (x.id ≠ b.id), grids := p.grids.filter fun g => decide (g.bundle ≠ b.id),
             past := p.past ++ p.grids.filter fun (g : Grid) => decide (g.bundle = b.id) }

/-- BUNDLE_RETIRE (R111). -/
def execBundleRetire (part bundle : Nat) (s : State) : Out :=
  match (s.part part).bundles.find? fun b => b.id = bundle, (s.part part).claimed.find? fun c => c.started ∧ c.bundle = some bundle with
  | some b, some c => if s.bundleQuiet part b ∧ (s.part part).halt.state = 0 then
      .next ((s.vacate.dropBundle part b).retireCommand part b.queue c.head) else .next s
  | _, _ => .next s

end Sys2Proof.Machine
end

