-- ==== Sys2Proof/Machine/Preempt.lean ====
section
/-! DEFINITION. Machine/Preempt.lean: pre-emption, save images and restore (05 R130 to R134; 04 R90, R105; 13 R322; 24 R421). -/

namespace Sys2Proof.Machine

/-! ### Choosing victims (R130, R134) -/

/-- May pre-emption be requested for a team: admitted, and not about to retire (R126)? -/
def State.canPreempt (s : State) (t : Team) : Bool := t.st == .admitted && !s.groupsEnded t.stream

/-- The admitted members of a team's draw unit. -/
def State.crew (s : State) (t : Team) : List Team := (s.unitTeams t.part t.grid t.cluster).filter fun x => s.canPreempt x

/-- Size of a team's save image (Table 35). -/
def State.imageBytes (s : State) (t : Team) : Nat :=
  let gs := s.teamGroups t.stream
  let d := (s.gridOf t).d
  let chans := ((s.core t.core).chans.filter fun e => e.key.stream = t.stream && decide (e.unacked > 0)).length
  (gs.map fun g => 4 * g.lanes * g.budget + 8 * g.lanes + 8192 + 3072 * g.frames.length).sum + t.size + t.size / 128 + 1024 * t.tiles + 65536 +
    16 * chans + 4096 * popCount (ldQueues d) 8

/-- Bytes of the save pool that are free: the halt area takes the first 132 KiB (R390). -/
def Partition.poolFree (p : Partition) : Nat := p.pool - 132 * 1024 - p.poolUsed

/-- Teams by most recent admission. -/
def byRecent (ts : List Team) : List Team := (sortBy (fun t => t.admitted) ts).reverse

/-- What the next draw of a grid asks of one core. -/
def State.nextNeed (s : State) (part : Nat) (g : Grid) : Need :=
  let n := needOf g.d
  match g.saved with
  | u :: _ => { n with chans := (((s.unitTeams part g.id u).filter fun t => t.st == .saved).map fun t => match t.image with
      | some im => im.chans.length
      | none => 0).foldl max 0 }
  | [] => n

/-- Has some core of the partition room for a need, with some teams gone? -/
def State.anyRoom (s : State) (part g : Nat) (n : Need) (gone : List Nat) : Bool :=
  (s.liveCores part).any fun c => (s.roomFor part c g n gone []).isSome

/-- Victims among candidates, in order, whole crews and as the save pool allows, until one core has room. -/
def State.chooseVictims (s : State) (part g : Nat) (n : Need) : List Team → Nat → List Nat → List Nat
  | [], _, chosen => chosen
  | t :: ts, free, chosen =>
    if s.anyRoom part g n chosen then chosen
    else
      let crew := (s.crew t).map fun x => x.stream
      let size := ((s.crew t).map fun x => s.imageBytes x).sum
      if chosen.contains t.stream ∨ free < size ∨ crew = [] then s.chooseVictims part g n ts free chosen
      else s.chooseVictims part g n ts (free - size) (chosen ++ crew)

/-- PREEMPTION_STARVATION_TIMEOUT: a team of a grid has found no room for 100 µs, and the pilot chooses victims of the lowest priority below its own
(R130). -/
def execPreemptionStarvationTimeout (core part grid : Nat) (s : State) : Out :=
  match s.grid? part grid with
  | none => .next s
  | some g =>
    let n := s.nextNeed part g
    let waiting := !g.complete && (g.saved ≠ [] || decide (g.ticket < g.units))
    if !s.pilotServes core part ∨ !waiting ∨ s.anyRoom part grid n [] then .next s
    else
      let below := s.allTeams.filter fun t => decide (t.part = part ∧ g.priority < t.priority) && s.canPreempt t && !t.preempt
      let low := (below.map fun t => t.priority).foldl max 0
      let cands := byRecent (below.filter fun t => decide (t.priority = low))
      let chosen := s.chooseVictims part grid n cands (s.part part).poolFree []
      .next (chosen.foldl (fun (t : State) x => t.modTeam x fun t => { t with preempt := true }) s)

/-! ### Taking effect (R131) -/

/-- A group as it is saved: regions are released, the cycles that a parked unit has waited are kept, a unit that sleeps is done with it (R211,
R226, R397). -/
def Group.save (g : Group) (now : Nat) : Group :=
  let regs := g.units.foldl (fun r u => match u.region with
    | some x => if x.resident then writeBack r x else r
    | none => r) g.r
  let one (u : MUnit) : MUnit :=
    let v := { u with region := none }
    match v.st with
    | .parked p =>
      if p.why = .sleep then { (v.advance p.instr.size) with st := .ready }
      else { v with st := .parked { p with waited := p.waited + (now - p.since), since := now } }
    | _ => v
  if g.st = .live ∨ g.st = .idle then { g with st := .saved, wasIdle := g.st == .idle, r := regs, units := g.units.map one } else g

/-- An entry as it is saved: it starts again, and keeps the cycles that its step has waited (R397). -/
def MEntry.stop (e : MEntry) (now : Nat) : MEntry :=
  { e with started := false, waited := if e.took then e.waited + (now - e.since) else e.waited, since := now, adata := [], hit := false, waitsFor := [],
           arrived := 0 }

/-- Takes a team's work out of its engines into the save image; its units stop. No unit is in issue. -/
def State.stopTeam (s : State) (stream : Nat) : State :=
  match s.team? stream with
  | none => s
  | some t =>
    let k := s.core t.core
    let mine (e : MEntry) : Bool := e.bundle.isNone && e.stream == stream
    let c := t.ctx.getD 0
    let m := k.ctx c
    let entries := if t.ctx.isSome then (m.queue.filter mine).map fun e => e.stop s.cycle else []
    let latch := m.latch.filter fun l => t.ctx.isSome && l.1.stream == stream
    let m1 := { m with queue := m.queue.filter fun e => !mine e, latch := if latch.isSome then none else m.latch,
                       latchData := if latch.isSome then [] else m.latchData,
                       latchAt := if latch.isSome then 0 else m.latchAt }
    let theirs (r : CopyReq) : Bool := r.bundle.isNone && r.stream == stream
    let image : SaveImage := { entries := entries, latch := latch, copies := k.copies.filter theirs, bytes := s.imageBytes t }
    let k1 := { (if t.ctx.isSome then k.setCtx c m1 else k) with copies := k.copies.filter fun r => !theirs r }
    let s1 := (s.setCore t.core k1).modTeam stream fun t => { t with st := .saving, preempt := false, image := some image }
    let s2 := s1.modPart t.part fun p => { p with poolUsed := p.poolUsed + image.bytes }
    { s2 with groups := s2.groups.map fun g => if g.key.stream = stream then g.save s.cycle else g }

/-- PREEMPTION_TAKES_EFFECT: every admitted member of the draw unit stops in the same step (R131, R134). A team whose groups have all ended goes to
Retiring instead (R126). -/
def execPreemptionTakesEffect (stream : Nat) (s : State) : Out :=
  match s.team? stream with
  | none => .next s
  | some t =>
    let crew := s.crew t
    if stream ≠ 0 ∧ s.canPreempt t ∧ t.preempt ∧ (s.part t.part).halt.state = 0 then
      .next (crew.foldl (fun (x : State) m => x.stopTeam m.stream) s.vacate)
    else .next s

/-! ### Moving what names places of an allocation -/

/-- The move of a team's allocation from one core and base to another. -/
structure Shift where
  stream : Nat
  core : Nat
  base : Nat
  size : Nat
  toCore : Nat
  toBase : Nat

def shiftAt (ms : List Shift) (core off : Nat) : Nat × Nat :=
  match ms.find? fun m => m.core = core ∧ m.base ≤ off ∧ off < m.base + m.size with
  | some m => (m.toCore, off - m.base + m.toBase)
  | none => (core, off)
/-- Keys of bytes and of granules. -/
def shiftSpad (ms : List Shift) (key : Nat) : Nat := let (c, o) := shiftAt ms (key / 2 ^ 22) (key % 2 ^ 22); spadKey c o
def shiftGran (ms : List Shift) (key : Nat) : Nat := let (c, o) := shiftAt ms (key / 2 ^ 18) (key % 2 ^ 18 * 16); granKey c o
def shiftWrites (ms : List Shift) (ws : List (Nat × Nat)) : List (Nat × Nat) := ws.map fun w => (shiftSpad ms w.1, w.2)
def shiftPart (ms : List Shift) (p : MPart) : MPart := { p with stale := shiftWrites ms p.stale }
def shiftEntry (ms : List Shift) (e : MEntry) : MEntry := { e with parts := e.parts.map (shiftPart ms) }

/-- The move of the allocation of a team, if it is among some moves. -/
def shiftOf (ms : List Shift) (stream : Option Nat) : List Shift := ms.filter fun m => decide (stream = some m.stream)

/-- A parked instruction: the bank or object that it waits at moves with the allocation in which it was named; an absolute place stays (R62). -/
def shiftParked (ms : List Shift) (p : Parked) : Parked :=
  { p with aux := match p.why with
    | .ldfe => shiftGran (shiftOf ms p.via) p.aux
    | .bara | .barw => shiftSpad (shiftOf ms p.via) p.aux
    | _ => p.aux }

def shiftUnit (ms : List Shift) (u : MUnit) : MUnit :=
  match u.st with
  | .parked p => { u with st := .parked (shiftParked ms p) }
  | _ => u

/-- A unit of the shifted team `own`: what it has written and its matrix instruction that waits for a place move as well. -/
def shiftOwnUnit (ms : List Shift) (own : Shift) (u : MUnit) : MUnit :=
  let v := { shiftUnit ms u with wrote := shiftWrites ms u.wrote }
  match v.st with
  | .parked p => { v with st := .parked { p with entry := p.entry.map fun e => { shiftEntry ms e with core := own.toCore } } }
  | _ => v

/-- An access in flight: its place moves with the allocation in which it was named (R62); `remote` tells for good whether it left its core (R65). -/
def shiftFlight (ms : List Shift) (f : Flight) : Flight :=
  let place := match f.place with
    | .spad c o => let (c1, o1) := shiftAt (shiftOf ms f.via) c o; Place.spad c1 o1
    | p => p
  let core := match ms.find? fun m => m.stream = f.who.group.stream with
    | some m => m.toCore
    | none => f.core
  { f with place := place, core := core }

/-- Applies moves to everything that names a moved allocation or its core: groups, teams, accesses in flight. -/
def State.shift (s : State) (ms : List Shift) : State :=
  let own (n : Nat) : Option Shift := ms.find? fun m => m.stream = n
  { s with
    groups := s.groups.map fun g => match own g.key.stream with
      | some m => { g with core := m.toCore, units := g.units.map (shiftOwnUnit ms m) }
      | none => { g with units := g.units.map (shiftUnit ms) }
    teams := s.teams.map fun t => match own t.stream with
      | some m => { t with core := m.toCore, base := m.toBase, mjoins := t.mjoins.map fun j => { j with parts := j.parts.map (shiftPart ms) },
                           image := t.image.map fun im => { im with entries := im.entries.map fun e => { shiftEntry ms e with core := m.toCore },
                                                                    copies := im.copies.map fun r => { r with core := m.toCore } } }
      | none => t
    flights := s.flights.map (shiftFlight ms) }

/-- Where a saved team's places are kept: a core number of its own above the module's (log 16). -/
def awayCore (stream : Nat) : Nat := 1024 + stream

/-! ### The image (R132, R134, R90) -/

/-- Bytes, full bits and poison of an allocation, by offset. -/
def window {V : Type} (m : List (Nat × V)) (lo n : Nat) : List (Nat × V) :=
  (m.filter fun e => decide (lo ≤ e.1) && decide (e.1 < lo + n)).map fun e => (e.1 - lo, e.2)
/-- Puts such a window back. -/
def putWindow {V : Type} [DecidableEq V] (d : V) (m : List (Nat × V)) (lo : Nat) (w : List (Nat × V)) : List (Nat × V) :=
  w.foldl (fun acc e => sset d acc (lo + e.1) e.2) m

/-- The images of a partition's save pool are written: the spec gives neither their form nor their places in the pool, so every byte of it beyond the
halt area takes a free value (R132, R390; log 32). -/
def State.writePool (s : State) (part : Nat) : State :=
  let p := s.part part
  (List.range ((p.pool - 132 * 1024) / 32)).foldl (fun (t : State) i =>
    let (x, t1) := t.drawFree 256
    t1.writeVirt part 0 (p.haltAddr (132 * 1024 + 32 * i)) 32 x) s

/-- Are all issued accesses of a draw unit to one core performed there? -/
def State.arrivedAt (s : State) (t : Team) : Bool :=
  let crew := (s.unitTeams t.part t.grid t.cluster).map fun x => x.stream
  !(s.flights.any fun f => crew.contains f.who.group.stream && !f.performed && (f.key.isNone || f.seq.isSome) && f.place.onCore t.core)

/-- SAVE_IMAGE_COMPLETE: the image is written and the resources are freed; the team is Saved, and its draw unit stands on the save list, the Reserved
teams of its grid having dropped their room (R124, R131, R134); it is restored when every member has been saved. Channel entries with nothing unacknowledged
are given up: the table may displace them at any time (R89, Table 35). -/
def execSaveImageComplete (stream : Nat) (s : State) : Out :=
  match s.team? stream with
  | none => .next s
  | some t =>
    match t.image with
    | none => .next s
    | some im =>
      if stream = 0 ∨ t.st ≠ .saving ∨ (s.part t.part).halt.state ≠ 0 ∨ !s.arrivedAt t then .next s
      else
        let v := s.vacate
        let k := v.core t.core
        let c := t.ctx.getD 0
        let held (e : ChanEntry) : Bool := e.key.stream == stream && decide (e.unacked > 0)
        let im1 : SaveImage := { im with
          spad := window v.mem.spad (spadKey t.core t.base) t.size, full := window v.mem.full (granKey t.core t.base) (t.size / 16),
          poison := window v.mem.spadPoison (granKey t.core t.base) (t.size / 16), notes := window v.mem.log.last (spadKey t.core t.base) t.size,
          tiles := if t.ctx.isSome then window (k.ctx c).tiles (256 * t.tile0) (256 * t.tiles) else [],
          chans := k.chans.filter held, hqs := k.hqs.filter fun e => t.hqs.toNat.testBit e.1 }
        let k1 := { k with chans := k.chans.filter fun e => decide (e.key.stream ≠ stream), hqs := k.hqs.filter fun e => !t.hqs.toNat.testBit e.1 }
        let v1 := ((v.setCore t.core k1).writePool t.part).modTeam stream fun t => { t with st := .saved, image := some im1, ctx := none }
        let v2 := v1.shift [⟨stream, t.core, t.base, t.size, awayCore stream, 0⟩]
        let v3 := v2.modGrid t.part t.grid fun g => g.dropReserved fun _ => true
        .next (v3.modGrid t.part t.grid fun g => { g with saved := insNat t.cluster g.saved }).stopAllFenced

/-! ### Restore (R133, R134) -/

/-- A group as it is restored: in its saved state, its units at their saved positions; a run is resumed when its unit next wins its pipe. -/
def Group.restore (g : Group) (now : Nat) : Group :=
  let one (u : MUnit) : MUnit := match u.st with
    | .issuing | .loading => { u with st := g.readyAs u, since := now }
    | .ready => { u with st := g.readyAs u, since := now }
    | .parked p => { u with st := .parked { p with since := now } }
    | _ => u
  if g.st = .saved then { g with st := if g.wasIdle then .idle else .live, wasIdle := false, units := g.units.map one } else g

/-- Saved channel entries take places in a table; entries with nothing unacknowledged give way (R90, R421). -/
def placeChans (es : List ChanEntry) : List ChanEntry → List ChanEntry
  | [] => es
  | e :: rest =>
    let room := if es.length < 4096 then es else match chanVictim es with
      | some v => es.filter fun x => decide (x.key ≠ v.key)
      | none => es
    placeChans (room ++ [e]) rest

/-- The request entries that serve as a restored team's reply slots on its core (R88, R133). -/
def State.entriesFor (s : State) (core : Nat) (t : Team) : List (Nat × List Nat) :=
  ((List.range 16).foldl (fun (acc : List (Nat × List Nat) × List Nat) c =>
    let n := sget 0 t.reserved c
    (sset [] acc.1 c (acc.2.take n), acc.2.drop n)) ([], s.freeEntries core)).1

/-- A plain load that is not yet performed is reissued after restore (R105). -/
def reissued (stream : Nat) (f : Flight) : Flight :=
  if f.who.group.stream = stream ∧ f.kind = .load ∧ f.chan.isNone ∧ f.copy.isNone ∧ !f.performed then { f with reissue := true } else f

/-- Has a core the request entries and the places in its copy queue that a saved team brings back with it: its accesses in flight and waiting LDFEs,
its reservations, and its copy requests (Table 3, R88, R133)? -/
def State.carries (s : State) (core : Nat) (t : Team) : Bool :=
  let plain := (s.flights.filter fun f => f.who.group.stream = t.stream && f.request.isNone && !f.half).length
  let waiting := ((s.groups.filter fun g => decide (g.key.stream = t.stream)).map fun g => (g.units.filter fun u => match u.st with
    | .parked p => p.why == .ldfe
    | _ => false).length).sum
  let slots := ((List.range 16).map fun c => max (sget 0 t.reserved c) (s.inUse t.stream c)).sum
  let queued (rs : List CopyReq) : Nat := (rs.filter fun r => r.resolved.isNone).length
  decide (plain + waiting + slots ≤ s.entriesFree core) &&
  decide (queued (s.core core).copies + queued ((t.image.map fun im => im.copies).getD []) ≤ copyQueueSize)

/-- Restores one saved team into its room. No unit is in issue. -/
def State.restoreTeam (s : State) (t : Team) (room : Room) : State :=
  match t.image with
  | none => s
  | some im0 =>
    let s1 := s.clearAlloc room.core room.base t.size
    let mem := { s1.mem with spad := putWindow 0 s1.mem.spad (spadKey room.core room.base) im0.spad,
                             full := putWindow false s1.mem.full (granKey room.core room.base) im0.full,
                             spadPoison := putWindow false s1.mem.spadPoison (granKey room.core room.base) im0.poison,
                             log := { s1.mem.log with last := putWindow {} s1.mem.log.last (spadKey room.core room.base) im0.notes } }
    let k := s1.core room.core
    let c := room.ctx.getD 0
    let m := k.ctx c
    let entries := im0.entries.map fun e => { e with core := room.core, tile0 := room.tile0, since := s.cycle }
    let m1 := { m with queue := m.queue ++ entries, tiles := putWindow {} (m.tiles.filter fun e => decide (e.1 / 256 < room.tile0) ||
                         decide (room.tile0 + t.tiles ≤ e.1 / 256)) (256 * room.tile0) im0.tiles,
                       latch := if im0.latch.isSome then im0.latch else m.latch, latchData := if im0.latch.isSome then [] else m.latchData,
                       latchAt := if im0.latch.isSome then 0 else m.latchAt }
    let k1 := { (if room.ctx.isSome then k.setCtx c m1 else k) with
      copies := k.copies ++ im0.copies.map fun r => { r with core := room.core }, chans := placeChans k.chans im0.chans,
      hqs := im0.hqs.foldl (fun h e => sset {} h e.1 e.2) (k.hqs.filter fun e => !t.hqs.toNat.testBit e.1) }
    let s2 := { s1 with mem := mem }.setCore room.core k1
    let there := (s2.groupsOn room.core).filter fun g => decide (g.key.stream ≠ t.stream)
    let mine := (s2.groups.filter fun g => decide (g.key.stream = t.stream))
    let placed := placeGroups room.core there (sortBy (fun (g : Group) => g.key.gid) mine)
    let t1 := { t with core := room.core, base := room.base, ctx := room.ctx, tile0 := room.tile0, st := .admitted, image := none,
                       admitted := s.serial + 1, entries := s2.entriesFor room.core t }
    let back := placed.map fun (g : Group) => s2.rederive t1 (g.restore s.cycle)
    let s3 := { s2 with groups := (s2.groups.filter fun (g : Group) => decide (g.key.stream ≠ t.stream)) ++ back, serial := s.serial + 1,
                        flights := s2.flights.map (reissued t.stream),
                        iod := { s2.iod with streams := sset 1024 s2.iod.streams t.stream room.core } }
    (s3.modTeam t.stream fun x => { t1 with mjoins := x.mjoins }).modPart t.part fun p => { p with poolUsed := p.poolUsed - im0.bytes }

/-- Is no member of a draw unit still on its way to the save pool: each is Saved, or about to retire (R126, R134)? -/
def State.unitSaved (s : State) (part g u : Nat) : Bool :=
  (s.unitTeams part g u).all fun x => x.st == .saved || x.st == .retiring || x.st == .retired || s.groupsEnded x.stream

/-- TEAM_RESTORE: a pilot with room takes the lowest entry of the save list; a saved cluster is restored whole, once all its members are saved (R124,
R133, R134). -/
def execTeamRestore (core stream : Nat) (s : State) : Out :=
  match s.team? stream with
  | none => .next s
  | some t =>
    match s.grid? t.part t.grid with
    | none => .next s
    | some g =>
      let ms := (s.unitTeams t.part t.grid t.cluster).filter fun x => x.st == .saved
      let order := sortBy (fun (x : Team) => x.rank) ms
      let needs := order.map fun x => { needOf g.d with chans := match x.image with
        | some im => im.chans.length
        | none => 0 }
      if stream = 0 ∨ t.st ≠ .saved ∨ g.saved.head? ≠ some t.cluster ∨ !s.unitSaved t.part t.grid t.cluster ∨ !s.pilotServes core t.part then .next s
      else match s.unitRoom t.part core g.id needs [] with
        | none => .next s
        | some rooms =>
          let pairs := order.zip rooms
          if !(pairs.all fun x => s.carries x.2.core x.1) then .next s else
          let shifts := pairs.map fun x => ⟨x.1.stream, awayCore x.1.stream, 0, x.1.size, x.2.core, x.2.base⟩
          let v := (s.vacate.modGrid t.part t.grid fun g => { g with saved := g.saved.filter fun n => decide (n ≠ t.cluster) }).shift shifts
          let v1 := pairs.foldl (fun (x : State) p => x.restoreTeam ((x.team? p.1.stream).getD p.1) p.2) v
          .next (v1.lapseFloor t.part t.grid)

end Sys2Proof.Machine
end

