-- ==== Sys2Proof/Machine/Queue.lean ====
section
/-! DEFINITION. Machine/Queue.lean: hardware queues (12 R280 to R284): POPQ, PUSHQ, QCNT and the wakes of their waiters. -/

namespace Sys2Proof.Machine

def State.hqItems (s : State) (n : Nat) : List PWord := ((s.core s.grp.core).hq n).items
def State.setHqItems (s : State) (n : Nat) (items : List PWord) : State := s.modCore s.grp.core fun c => c.setHq n { items := items }

/-- QUEUE_NOT_CLAIMED (R281). -/
def State.queueCheck (s : State) (n : Nat) : Option Code := need (s.team.hqs.toNat.testBit n) cQueueNotClaimed n

/-- Does a unit that parked earlier, for the same reason, wait on the queue (R281 to R283)? -/
def State.earlierWaiter (s : State) (why : ParkWhy) (n before : Nat) : Bool :=
  s.allGroups.any fun g => g.key.stream = s.grp.key.stream && g.units.any fun u => match u.st with
    | .parked p => p.why == why && p.aux == n && decide (p.serial < before)
    | _ => false

/-- The first entries of a queue go to lanes, in order, and leave the queue. -/
def State.popTo (s : State) (n d : Nat) (lanes : List Nat) : State :=
  let t := (lanes.zip (s.hqItems n)).foldl (fun t e => t.setV e.1 d e.2) s
  t.setHqItems n ((s.hqItems n).drop lanes.length)

/-- What lanes hold in a register is appended to a queue, in order. -/
def State.pushFrom (s : State) (n a : Nat) (lanes : List Nat) (rd : LaneRead) : State :=
  s.setHqItems n (s.hqItems n ++ lanes.map fun l => rd l a)

/-- POPQ (R282). -/
def execPopq (x : Args) (s : State) : Out :=
  let d := x.d.toNat
  let n := x.hq
  let ls := s.lanesFor x
  let items := s.hqItems n
  let s0 := { s with cycle := s.cycle + passes s.cur.mask * 4 * s.outside [d] }
  let effect :=
    if x.qform = 1 then
      let k := min ls.length items.length
      ((s0.popTo n d (ls.take k)).writePreds ls x.pred fun l => (ls.take k).contains l).doneL x 1
    else
      let t := s0.stamp
      if ls.length ≤ items.length ∧ !t.earlierWaiter .popq n t.serial then (t.popTo n d ls).doneL x 1
      else { t with cycle := t.cycle + t.sweepCost 1 }.park .popq (.popq x) t.serial (maskOfList ls) n 0
  outcome s (s.waitsV [d] || !s.quietCore)
    (firstCode [s.budgetCheck [d], if ls.isEmpty then none else s.queueCheck n]) (if ls.isEmpty then s0.doneL x 1 else effect)

/-- POPQ_WAKE: the queue holds enough, and no earlier waiter remains. The lanes receive their entries in the unit's own registers (R145). -/
def execPopqWake (u : UnitRef) (s : State) : Out :=
  onParked s u .popq fun t p =>
    match p.instr with
    | .popq x =>
      let ls := lanesOf p.lanes
      if ls.length ≤ (t.hqItems x.hq).length ∧ !t.earlierWaiter .popq x.hq p.serial then 
        some ((((t.withFrames (t.grp.ownFrames t.cur)).popTo x.hq x.d.toNat ls).withFrames t.grp.frames).wake x.bytes)
      else none
    | _ => none

/-! ### PUSHQ -/

/-- The checks of every executing lane's spill address, in the order of R394; the layout must name the issuing core's own slice (R283). -/
def State.spillChecks (s : State) (x : Args) (lanes : List Nat) : Option Code :=
  let y := s.slot x.qslot
  let addr (l : Nat) : LaneAddr := s.laneAddr y x.d.toNat l
  let own (l : Nat) : Bool := match addr l with
    | .at_ a => !inRange32 a || (spadCore s.myEnv a.toNat).all fun c => c == s.grp.core
    | _ => true
  firstCode [
    if lanes.isEmpty then none else need (lySpace y == 0) cSpaceDenied (lySpace y + 1 * 8),
    firstLane lanes fun l => need (own l) cSpaceDenied (1 * 8),
    firstLane lanes fun l => checkExtent x.qslot (addr l),
    firstLane lanes fun l => checkAligned 4 (addr l),
    firstLane lanes fun l => checkRange y (addr l),
    firstLane lanes fun l => s.checkBound y 4 (addr l)]

/-- A lane spills its value at its address and sets the granule full; a lane at OOB writes nothing. -/
def State.spill (s : State) (x : Args) (l : Nat) : State :=
  let y := s.slot x.qslot
  match s.laneAddr y x.d.toNat l with
  | .at_ a =>
    match spadPlace s.myEnv a.toNat 4 with
    | .ok (c, b, off) =>
      let v := s.vreg l x.a.toNat
      (s.noteWrite .store (.spad c (b + permute y off)) 4).writePlace (.spad c (b + permute y off)) 4 v.val.toNat v.poison true
    | .error _ => s
  | _ => s

/-- PUSHQ (R283). -/
def execPushq (x : Args) (s : State) : Out :=
  let a := x.a.toNat
  let n := x.hq
  let ls := s.lanesFor x
  let room := 1024 - (s.hqItems n).length
  let k := min ls.length room
  let coords := if x.qform = 2 then (List.range (lyRank (s.slot x.qslot))).map fun i => x.d.toNat + i else []
  let s0 := { s with cycle := s.cycle + passes s.cur.mask * 4 * s.outside (a :: coords) }
  let effect :=
    match x.qform with
    | 1 => ((s0.pushFrom n a (ls.take k) s.vreg).writePreds ls x.pred fun l => (ls.take k).contains l).doneL x 1
    | 2 => ((ls.drop k).foldl (fun (t : State) l => t.spill x l) (s0.pushFrom n a (ls.take k) s.vreg)).doneL x 1
    | _ =>
      let t := s0.stamp
      if ls.length ≤ room ∧ !t.earlierWaiter .pushq n t.serial then (t.pushFrom n a ls s.vreg).doneL x 1
      else { t with cycle := t.cycle + t.sweepCost 1 }.park .pushq (.pushq x) t.serial (maskOfList ls) n 0 (capture s.vreg ls [a])
  outcome s (s.waitsV (a :: coords) || !s.quietCore)
    (firstCode [s.budgetCheck (a :: coords), s.poisonV ls coords, if x.qform = 2 then emptySlot (s.slot x.qslot) x.qslot else none,
      if ls.isEmpty then none else s.queueCheck n, if x.qform = 2 then s.spillChecks x ls else none])
    (if ls.isEmpty then s0.doneL x 1 else effect)

/-- PUSHQ_WAKE: the queue has room, and no earlier waiter remains. -/
def execPushqWake (u : UnitRef) (s : State) : Out :=
  onParked s u .pushq fun t p =>
    match p.instr with
    | .pushq x =>
      let ls := lanesOf p.lanes
      if ls.length ≤ 1024 - (t.hqItems x.hq).length ∧ !t.earlierWaiter .pushq x.hq p.serial then
        some ((t.pushFrom x.hq x.a.toNat ls p.read).wake x.bytes)
      else none
    | _ => none

/-- QCNT (R284). -/
def execQcnt (x : Args) (s : State) : Out :=
  let n := x.a.toNat
  if s.guardU x.gp x.gn then
    outcome s (!s.quietCore) (s.queueCheck n) ((s.setSw x.d.toNat (s.hqItems n).length).doneU x)
  else .next (s.doneU x)

end Sys2Proof.Machine
end

