-- ==== Sys2Proof/Machine/Halt.lean ====
section
/-! DEFINITION. Machine/Halt.lean: timed waits (22 R397) and the stop records of a halted partition (21 R389, R390, Tables 155 and 156). -/

namespace Sys2Proof.Machine

/-! ### Timed waits -/

/-- The limit of a timed wait in arithmetic-clock cycles. -/
def waitLimit : Nat := 2 ^ 36

/-- WAIT_EXPIRED: kind 0 LDFE, 1 BARW, 2 queue, 3 matrix read, and an address or queue. -/
def waitExpired (kind at_ : Nat) : Code := ⟨cWaitExpired, kind + at_ % 2 ^ 32 * 2 ^ 4⟩

/-- What a parked unit waits for, when its wait is one that R397 times and has not ended in this very cycle. -/
def State.timedWait (t : State) (p : Parked) : Option Code :=
  match p.why, memOp p.instr with
  | .ldfe, some (_, x) =>
    if sget false t.mem.full p.aux then none
    else match (lanesOf p.lanes).head? with
      | some l => match laneAddrOf p.read p.rec_ x.a.toNat l with
        | .at_ a => some (waitExpired 0 a.toNat)
        | _ => some (waitExpired 0 0)
      | none => some (waitExpired 0 0)
  | .barw, _ => if p.lanes = 0 then some (waitExpired 1 p.rec_.toNat) else none
  | .popq, _ => if (lanesOf p.lanes).length ≤ (t.hqItems p.aux).length ∧ !t.earlierWaiter .popq p.aux p.serial then none else some (waitExpired 2 p.aux)
  | .pushq, _ => if (lanesOf p.lanes).length ≤ 1024 - (t.hqItems p.aux).length ∧ !t.earlierWaiter .pushq p.aux p.serial then none
    else some (waitExpired 2 p.aux)
  | _, _ => none

/-- The flag that a faulting MEM instruction has counted is settled, its served lanes keeping their values (R395). -/
def State.expire (t : State) (p : Parked) (c : Code) : State :=
  match memOp p.instr with
  | some (_, x) => match t.countedFlag x.flag with
    | some n => (t.raise c).settleFlag t.grp.key p.serial n
    | none => t.raise c
  | none => t.raise c

/-- WAIT_LIMIT_TIMEOUT: the resident cycles of a wait have reached the limit (R397). -/
def execWaitLimitTimeout (w : Waiter) (s : State) : Out :=
  match w with
  | .ofUnit u =>
    match s.select u with
    | none => .next s
    | some t => match t.cur.st with
      | .parked p =>
        if t.mayIssue && decide (waitLimit ≤ p.waited + (t.cycle - p.since)) then
          match t.timedWait p with
          | some c => .next (t.expire p c)
          | none => .next s
        else .next s
      | _ => .next s
  | .ofMatrix core ctx id =>
    match s.mentry? core ctx id with
    | none => .next s
    | some e =>
      let resident := e.bundle.isSome || (s.team? e.stream).any fun t => t.st == .admitted || t.st == .retiring
      if e.running && decide (e.step < e.steps) && resident && s.engineRuns e.part && decide (waitLimit ≤ e.waited + (s.cycle - e.since)) then
        match s.stepBlocks e with
        | .error _ => .next s
        | .ok b => match b.takes.find? fun g => !s.mem.isFull e.core g with
          | some g => .next (s.ctxFault e ctx (waitExpired 3 g))
          | none => .next s
      else .next s

/-! ### Stop records (Table 155) -/

/-- Fields of a pipe: unit and slot that issued last, and the PC of an originator or else the unit's next PC. -/
def State.pipeRecord (s : State) (core pipe : Nat) (pc : Option Nat) : Nat × Bool :=
  let k := s.core core
  let (slot, unit) := sget (0, 0) k.lastUnit pipe
  let gs := s.allGroups.filter fun g => decide (g.core = core ∧ g.pipe = pipe)
  let next := match gs.find? fun g => g.slot = slot with
    | some g => match g.units.find? fun u => u.id = unit with
      | some u => u.pc.toNat
      | none => 0
    | none => 0
  (pc.getD next % 2 ^ 57 * 2 ^ 320 + slot * 2 ^ 377 + unit * 2 ^ 382, gs.any fun g => decide (g.slot < 16) && !g.units.isEmpty)

/-- Fields of a matrix context: format word, next step and first tile of the running stepping instruction (R310), and the entries queued. -/
def State.ctxRecord (s : State) (core ctx : Nat) : Nat × Bool :=
  let q := s.ctxQueue core ctx
  let n := match q.find? fun e => e.running with
    | some e => e.fmt.toNat * 2 ^ 352 + e.step % 2 ^ 12 * 2 ^ 340 + e.span.1 % 512 * 2 ^ 328
    | none => 0
  (n + q.length * 2 ^ 320, !q.isEmpty)

/-- Fields of the copy engine: channel and remaining bytes of the request that faulted (R396), or else of the first one with bytes to move; and the requests
that stand in the queue, which those in progress have left (R74). -/
def State.copyRecord (s : State) (core : Nat) : Nat × Bool :=
  let k := s.core core
  let head := k.copyFaulted.orElse fun _ => k.copies.find? fun r => r.resolved.isNone || decide (r.moved < r.bytes)
  let n := match head with
    | some r => r.chan * 2 ^ 368 + (r.bytes - r.moved) * 2 ^ 336
    | none => 0
  (n + (k.copies.filter fun r => r.resolved.isNone).length * 2 ^ 320, !k.copies.isEmpty)

/-- The stop record of an engine. -/
def State.stopRecord (s : State) (part core engine : Nat) : Nat :=
  let k := s.core core
  let o := (k.origin.find? fun o => o.1 = engine).map fun o => o.2
  let (fields, work) := if engine < 4 then s.pipeRecord core engine (o.map fun x => x.2.2)
    else if engine < 6 then s.ctxRecord core (engine - 4) else s.copyRecord core
  let (stream, number) := sget (0, 0) k.served engine
  let st := if o.isSome then 2 else if work then 1 else 0
  fields + (o.map fun x => x.2.1).getD 0 * 2 ^ 256 + (s.part part).halt.seq % 2 ^ 32 * 2 ^ 224 + s.cycle % 2 ^ 32 * 2 ^ 192 + stream * 2 ^ 172 +
    core * 2 ^ 164 + engine * 2 ^ 160 + st * 2 ^ 152 + (o.map fun x => x.1).getD 0 * 2 ^ 136 + number % 2 ^ 32 * 2 ^ 96

/-- Every engine of the partition's cores that originated the halt, lowest core and engine first, with its code. -/
def State.originators (s : State) (part : Nat) : List (Nat × Nat × Nat) :=
  (s.part part).coreList.flatMap fun c => (List.range 7).filterMap fun e =>
    ((s.core c).origin.find? fun o => o.1 = e).map fun o => (c, e, o.2.1)

/-- The first engine of a halting partition that has still to write its record: core and engine. -/
def State.dueStop (s : State) : Option (Nat × Nat) :=
  (s.parts.filter fun p => decide (p.2.halt.state = 1)).findSome? fun p => p.2.coreList.findSome? fun c =>
    ((List.range 7).find? fun e => !(s.core c).stopped.contains e).map fun e => (c, e)

/-- ENGINE_STOP_RECORD: an engine that has stopped writes its record; with the last one the summary's state is 2 and vector 2,047 is sent (R390), and
the pilots of fenced cores whose Reserved teams the halt has dropped stop (R432). -/
def execEngineStopRecord (core engine : Nat) (s : State) : Out :=
  match s.partOf core with
  | none => .next s
  | some p =>
    if (s.part p).halt.state ≠ 1 ∨ 7 ≤ engine ∨ (s.core core).stopped.contains engine then .next s
    else
      let t := (s.writeHalt p (4096 + 512 * core + 64 * engine) 64 (s.stopRecord p core engine)).modCore core fun k =>
        { k with stopped := k.stopped ++ [engine] }
      let all := (t.part p).coreList.all fun c => (List.range 7).all fun e => (t.core c).stopped.contains e
      if all then
        let os := t.originators p
        let first := os.headD (0, 0, 0)
        let h := { (t.part p).halt with state := 2, originators := os.length, core := first.1, engine := first.2.1, code := first.2.2 }
        .next (((t.modPart p fun k => { k with halt := h }).writeHalt p 0 64 (haltSummary h)).sendMsix p 2047).stopAllFenced
      else .next t

end Sys2Proof.Machine
end

