-- ==== Sys2Proof/Machine/Health.lean ====
section
/-! DEFINITION. Machine/Health.lean: the predicted end of life, HEALTH_STATUS and EOL_THRESHOLD (26 R428, R429, R431). -/

namespace Sys2Proof.Machine

/-- Margin used of monitor `m` of a reading, in hundredths of a percent. -/
def MonitorUsed (r : MonitorReading) (m : Nat) : Nat :=
  match m with
  | 0 => r.age
  | 1 => r.em
  | 2 => r.vmin
  | _ => r.eye

/-- A unit's readings, newest first. -/
def State.unitHistory (s : State) (u : Nat) : List MonitorReading := s.health.history.map fun h => h.getD u {}

/-- The predicted days of one monitor: floor((100 - used) / r), with r the rise over the last 30 days, or over the history; none without a rise, or
with less than 24 h of history; 0 at 100 % (R428). -/
def monitorEol (hist : List MonitorReading) (m : Nat) : Option Nat :=
  let h := hist.take 721
  let hours := h.length - 1
  let used := MonitorUsed (h.headD {}) m
  let rise := used - MonitorUsed (h.getLastD {}) m
  if used ≥ 10000 then some 0
  else if rise = 0 ∨ hist.length < 25 then none
  else some ((10000 - used) * hours / (24 * rise))

/-- A unit's end of life and the monitor that sets it (R428, Table 179). -/
def eolOf (hist : List MonitorReading) : Nat × Nat :=
  let ms := (List.range 4).filterMap fun m => (monitorEol hist m).map fun e => (e, m)
  let best := ms.foldl (fun (b : Option (Nat × Nat)) x => match b with
    | none => some x
    | some y => if x.1 < y.1 then some x else some y) none
  match best with
  | none => (0xFFFF, 0xFF)
  | some (e, m) => (min e 0xFFFE, m)

def State.eol (s : State) (u : Nat) : Nat × Nat := eolOf (s.unitHistory u)

/-- Is some unit's end of life at or below the threshold? -/
def State.anyLow (s : State) : Bool := (List.range 17).any fun u => decide ((s.eol u).1 ≤ s.health.threshold)

/-- Sets the bits of HEALTH_STATUS that a cause holds for, given whether a unit's end of life counts as low; vector 4 of the PF goes with
REPLACE_REQUESTED (R429, R431). -/
def State.setHealth (s : State) (low : Bool) : State :=
  let lost := (s.iod.lanes.filter fun l => l.2.lost).length
  let cause := low || s.health.fenced ≠ [] || decide (lost ≥ 8)
  let was := bitOf s.health.status.toNat 0
  let st := (if cause || was then 1 else 0) + (if low then 2 else 0)
  let t := { s with health := { s.health with status := BitVec.ofNat 4 st } }
  if cause && !was then t.sendMsix 8 4 else t

/-- HEALTH_STATUS after a cause may have changed. The ends of life are held against the threshold at the hourly sample and at boot (`sampled`), and when
the threshold is raised, so that a lowered one takes effect at the next sample. -/
def State.updateHealth (s : State) (sampled : Bool) : State := s.setHealth (if sampled then s.anyLow else bitOf s.health.status.toNat 1)

/-- EOL_THRESHOLD, clamped (Table 178). One that is not lowered takes effect in the same step, one that is lowered at the next sample (R431). -/
def State.setThreshold (s : State) (x : Nat) : State :=
  let new := max 1 (min 3650 x)
  let t := { s with health := { s.health with threshold := new } }
  if s.health.threshold ≤ new then t.setHealth (t.anyLow || bitOf s.health.status.toNat 1) else t

end Sys2Proof.Machine
end

