-- ==== Sys2Proof/Machine/HostLink.lean ====
section
/-! DEFINITION. Machine/HostLink.lean: the host link (14 R327 to R335; 23 R415): registers of the functions (Tables 115, 149 and 178), inbound writes, reads
and AtomicOps, completions of outbound requests, and the loss and return of the link. -/

namespace Sys2Proof.Machine

def State.aer (s : State) (r : AerRecord) : State := { s with port := { s.port with aer := s.port.aer ++ [r] } }

/-- An Unsupported Request, with its header log; a poisoned TLP; the end of an outbound request with a failed status. -/
def State.aerUnsupported (s : State) (r : HostReq) : State := s.aer { fn := r.fn, kind := 0, header := some r }
def State.aerPoisoned (s : State) (r : HostReq) : State := s.aer { fn := r.fn, kind := 1, header := some r }
def State.aerStatus (s : State) (fn status : Nat) : State := s.aer { fn := fn, kind := 5, status := status }

/-! ### Health registers (Table 178) -/

def State.coresLive (s : State) : Nat := ((List.range 256).map fun c => if sget false s.health.fenced c then 0 else 2 ^ c).sum
def State.planesLive (s : State) : Nat := ((List.range 128).map fun n => if (s.lane n).lost then 0 else 2 ^ n).sum
def State.healthStatus (s : State) : Nat :=
  field s.health.status.toNat 1 0 + (if s.health.fenced ≠ [] then 4 else 0) + (if (s.iod.lanes.any fun l => l.2.lost) then 8 else 0)

/-- A 64-bit word of PF BAR0; what the tables do not name reads zero (R369, R429). -/
def State.pfReg (s : State) (off : Nat) : Nat :=
  let p := s.plat
  match off with
  | 0x000 => p.bootStatus
  | 0x010 => p.busy.toNat + p.rejected.toNat * 2 + p.result * 2 ^ 8
  | 0x100 => p.pwrLimit
  | 0x108 => p.pwrNow
  | 0x110 => p.energy / 1000 % 2 ^ 64
  | 0x118 => p.clkNow
  | 0x120 => p.cap.toNat
  | 0x200 => s.healthStatus
  | 0x208 => s.health.threshold
  | 0x210 => field s.coresLive 63 0
  | 0x218 => field s.coresLive 127 64
  | 0x220 => field s.coresLive 191 128
  | 0x228 => field s.coresLive 255 192
  | 0x230 => field s.planesLive 63 0
  | 0x238 => field s.planesLive 127 64
  | 0x240 => popCount s.coresLive 256 + popCount s.planesLive 128 * 2 ^ 9
  | _ => 0

/-- MSI-X vectors of a function: 2,048 of a VF, 64 of the PF (Table 113), whose table stands where Table 115 puts a VF's (log 38). -/
def msixVectors (fn : Nat) : Nat := if fn = 8 then 64 else 2048

/-- Is an offset of BAR0 in the MSI-X table, in the pending bits, in the queue-table alias? -/
def inMsixTable (fn off : Nat) : Bool := decide (0x10000 ≤ off ∧ off < 0x10000 + 16 * msixVectors fn)
def inPba (fn off : Nat) : Bool := decide (0x18000 ≤ off ∧ off < 0x18000 + msixVectors fn / 8)
def inQueueAlias (fn off : Nat) : Bool := decide (fn < 8 ∧ 0x2000 ≤ off ∧ off < 0x3000)

/-- A byte of BAR0 (Tables 115, 149 and 178). -/
def State.bar0Byte (s : State) (fn off : Nat) : Byte :=
  let p := s.part fn
  if inMsixTable fn off then sget 0 s.port.msixTable (fn * 2 ^ 15 + (off - 0x10000))
  else if inPba fn off then
    BitVec.ofNat 8 (((List.range 8).map fun i => if sget false s.port.pba (fn * 2048 + 8 * (off - 0x18000) + i) then 2 ^ i else 0).sum)
  else if fn = 8 then BitVec.ofNat 8 (s.pfReg (off / 8 * 8) / 2 ^ (8 * (off % 8)))
  else if 0x1000 ≤ off ∧ off < 0x1400 then BitVec.ofNat 8 ((sget 0 p.beats ((off - 0x1000) / 4)).toNat / 2 ^ (8 * (off % 4)))
  else if inQueueAlias fn off then BitVec.ofNat 8 (s.queue fn ((off - 0x2000) / 64) / 2 ^ (8 * (off % 64)))
  else 0

/-- Is a byte of BAR0 poisoned: one of the queue table (R415)? -/
def State.bar0Bad (s : State) (fn off : Nat) : Bool := inQueueAlias fn off && sget false (s.part fn).queuePoison ((off - 0x2000) / 32)

/-! ### Register writes -/

/-- Sends the pending messages of a function whose vectors are no longer masked. -/
def State.sendPending (s : State) (fn : Nat) : State :=
  (s.port.pba.filter fun e => decide (e.1 / 2048 = fn)).foldl (fun (t : State) e =>
    let v := e.1 % 2048
    if t.port.msixMasked fn v then t
    else { t with port := { t.port with pba := sset false t.port.pba e.1 false } }.sendMsix fn v) s

/-- Writes one byte of a function's BAR0: its queue table or its MSI-X table. -/
def State.setBar0Byte (s : State) (fn off : Nat) (b : Byte) : State :=
  if inQueueAlias fn off then
    let q := (off - 0x2000) / 64
    let i := off % 64
    s.setQueue fn q (setField (s.queue fn q) (8 * i + 7) (8 * i) b.toNat)
  else if inMsixTable fn off then
    { s with port := { s.port with msixTable := sset 0 s.port.msixTable (fn * 2 ^ 15 + (off - 0x10000)) b } }
  else s

/-- PWR_LIMIT, clamped (Table 149). -/
def State.setPwrLimit (s : State) (x : Nat) : State := { s with plat := { s.plat with pwrLimit := max 1200 (min 3200 x) } }

/-- Is a code of Table 150? -/
def isCommand (code : Nat) : Bool := decide (1 ≤ code ∧ code ≤ 0x14)

/-- The status bytes of a command descriptor (R370, R371): result in the low word, bytes written in the high one. -/
def State.putStatus (s : State) (desc result bytes : Nat) : State := { s with mem := s.mem.writeHost (desc + 56) 8 (result + bytes * 2 ^ 32) }

/-- A write of MGMT_CMD (R369, R370): not accepted while busy. A command that Table 150 does not list ends at once with result 1 in its status bytes, and
an address that is not 64-byte aligned, which names no descriptor, with result 1 in MGMT_STATUS alone (log 36). -/
def State.mgmtWrite (s : State) (addr : Nat) : State :=
  if s.plat.busy then { s with plat := { s.plat with rejected := true } }
  else
    let code := s.mem.readHost addr 1
    let invalid := { s with plat := { s.plat with rejected := false, result := 1 } }
    if addr % 64 ≠ 0 then invalid
    else if isCommand code then
      { s with plat := { s.plat with busy := true, rejected := false, pending := some (code, BitVec.ofNat 64 addr), begun := false } }
    else invalid.putStatus addr 1 0

/-- A write to BAR0 takes effect (R329, R330, R369, R429). Offsets that have no meaning ignore it. The spec gives no access widths, so these are the
model's choice (log 49): MGMT_CMD takes a write of 8 bytes at its offset alone, PWR_LIMIT and EOL_THRESHOLD take all the bytes of a write that starts
at their offset, the doorbell takes the first byte of one that starts at 0, and a write that starts below a register does not reach it. -/
def State.writeBar0 (s : State) (fn off : Nat) (bytes : List Byte) : State :=
  if fn = 8 ∧ off = 8 ∧ bytes.length = 8 then s.mgmtWrite (natOfBytes bytes)
  else if fn = 8 ∧ off = 0x100 then s.setPwrLimit (natOfBytes bytes)
  else if fn = 8 ∧ off = 0x208 then s.setThreshold (natOfBytes bytes)
  else
    let s1 := if fn < 8 ∧ off = 0 ∧ bytes ≠ [] then s.readTail fn ((bytes.headD 0).toNat % 64) else s
    (((List.range bytes.length).zip bytes).foldl (fun (t : State) b => t.setBar0Byte fn (off + b.1) b.2) s1).sendPending fn

/-! ### Answering at all -/

/-- Does the port take requests in: the link is up, or the boot has failed and every request gets Unsupported Request (R367)? -/
def State.hears (s : State) : Bool := s.port.up || s.plat.bootStatus == 0xE1

/-- Does a function answer memory requests: the boot has not failed, and a VF's partition has been created (R328, R367)? -/
def State.fnAnswers (s : State) (fn : Nat) : Bool :=
  decide (fn ≤ 8) && decide (s.plat.bootStatus ≠ 0xE1) && (fn == 8 || (s.part fn).created)

/-- The state of a function's IDE stream after a request: an integrity failure makes it Insecure (R415). -/
def State.ideCheck (s : State) (fn : Nat) (ok : Bool) : Bool × State :=
  if (sget (0 : BitVec 256) s.port.ideKeys fn) = 0 then (true, s)
  else if sget false s.port.insecure fn then (false, s)
  else if ok then (true, s)
  else (false, { s with port := { s.port with insecure := sset false s.port.insecure fn true } }.aer { fn := fn, kind := 2 })

/-! ### Inbound writes (R331 to R333) -/

/-- The pieces of a range at the boundaries of blocks of a size. -/
def piecesAt (size : Nat) : Nat → Nat → List Byte → List (Nat × List Byte)
  | 0, _, _ => []
  | fuel + 1, va, bs =>
    if bs = [] then []
    else
      let n := size - va % size
      (va, bs.take n) :: piecesAt size fuel (va + n) (bs.drop n)

/-- The pieces of a range at 2 KiB boundaries; pages are multiples of 2 KiB (R332). -/
def pieces (fuel va : Nat) (bs : List Byte) : List (Nat × List Byte) := piecesAt 2048 fuel va bs

/-- The device address behind the window at a virtual address of domain 0 (R331). -/
def State.windowPa (s : State) (part va : Nat) (write : Bool) : Option Nat :=
  match s.translate part 0 va with
  | .ok p => if p.target = 0 ∧ (p.writable ∨ !write) then some p.addr else none
  | .error _ => none

/-- The ordering domain that a request belongs to (R333). -/
def HostReqDomain (fn requester : Nat) (ido : Bool) : Nat × Option Nat := (fn, if ido then some requester else none)
def InWrite.domain (w : InWrite) : Nat × Option Nat := (w.fn, w.requester)

/-- Host staging (R337): 8 MiB for the parts of inbound writes that are not yet over. -/
def hostStaging : Nat := 8 * 2 ^ 20
def State.stagedBytes (s : State) : Nat := (s.port.inWrites.map fun w => (w.parts.map fun q => q.bytes.length).sum).sum

/-- A write to BAR0 that stays within the IOD is one part (R332). -/
def iodPart (off : Nat) (bytes : List Byte) : List WritePart := if bytes = [] then [] else [{ route := 4, bytes := bytes, reg := some off }]

/-- The parts of a write through the queue-table alias: those of a write to the device memory that holds the table (R330, R332). -/
def aliasParts (table off : Nat) (bytes : List Byte) : List WritePart :=
  let pa := table + (off - 0x2000)
  (pieces 3 pa bytes).map fun x => { route := dieOfPa x.1, pa := x.1, bytes := x.2, reg := some (off + (x.1 - pa)) }

/-- The parts of a write to BAR0: what lies below the queue-table alias of a VF, in it and above it. -/
def bar0Parts (table fn off : Nat) (bytes : List Byte) : List WritePart :=
  if fn < 8 then
    let upper := bytes.drop (0x2000 - off)
    let start := max off 0x2000
    iodPart off (bytes.take (0x2000 - off)) ++ aliasParts table start (upper.take (0x3000 - start)) ++
      iodPart (max off 0x3000) (upper.drop (0x3000 - start))
  else iodPart off bytes

/-- The parts of a write to a function's BAR0. -/
def State.bar0Parts (s : State) (fn off : Nat) (bytes : List Byte) : List WritePart := Sys2Proof.Machine.bar0Parts (s.part fn).table fn off bytes

/-- Adds an inbound write; one with no part is over. -/
def State.addWrite (s : State) (w : InWrite) : State :=
  if w.parts = [] then s
  else { s with port := { s.port with inWrites := s.port.inWrites ++ [{ w with id := s.serial + 1 }] }, serial := s.serial + 1 }

/-- INBOUND_MEMORY_WRITE (R331 to R333, R415). -/
def execInboundMemoryWrite (r : HostReq) (s : State) : Out :=
  if !s.hears ∨ r.bytes = [] ∨ 512 < r.bytes.length ∨ hostStaging < s.stagedBytes + r.bytes.length then .next s
  else
    let (ok, t) := s.ideCheck r.fn r.ideOk
    if !ok then .next t
    else if !t.fnAnswers r.fn ∨ (r.fn = 8 ∧ !r.bar0) then .next (t.aerUnsupported r)
    else
      let w : InWrite := { fn := r.fn, requester := (HostReqDomain r.fn r.requester r.ido).2, relaxed := r.relaxed, poisoned := r.poisoned }
      let t1 := if r.poisoned then t.aerPoisoned r else t
      if r.bar0 then .next (t1.addWrite { w with parts := t.bar0Parts r.fn r.offset r.bytes })
      else
        let p := t.part r.fn
        let ps := (pieces 3 (p.wbase + r.offset) r.bytes).map fun x => (if x.1 < p.wbase + 2 ^ p.k then t.windowPa r.fn x.1 true else none, x.2)
        let parts := ps.filterMap fun x => x.1.map fun pa => { route := dieOfPa pa, pa := pa, bytes := x.2 : WritePart }
        let t2 := if (ps.any fun x => x.1.isNone) then t1.aerUnsupported r else t1
        .next (t2.addWrite { w with parts := parts })

/-- DOORBELL (R330): one part on the route within the IOD. A doorbell whose TLP fails its IDE check is an INBOUND_MEMORY_WRITE to offset 0 of BAR0 that
says so (log 38). -/
def execDoorbell (vf : Nat) (value : Word) (s : State) : Out :=
  if !s.hears ∨ !s.linkOpen vf ∨ hostStaging < s.stagedBytes + 4 then .next s
  else if !s.fnAnswers vf ∨ 8 ≤ vf then .next (s.aerUnsupported { fn := vf, bar0 := true, bytes := bytesOf value.toNat 4 })
  else .next (s.addWrite { fn := vf, parts := [{ route := 4, bytes := bytesOf value.toNat 4, reg := some 0 }] })

/-- Does an earlier write of its domain still hold a part back (R333)? -/
def heldBy (w : InWrite) (route : Nat) (e : InWrite) : Bool :=
  e.domain == w.domain && decide (e.id < w.id) && e.parts.any fun q => if q.route = route then q.released.isNone else !q.acked

def State.modWrite (s : State) (id : Nat) (f : InWrite → InWrite) : State :=
  { s with port := { s.port with inWrites := s.port.inWrites.map fun w => if w.id = id then f w else w } }
def InWrite.modPart (w : InWrite) (n : Nat) (f : WritePart → WritePart) : InWrite :=
  { w with parts := ((List.range w.parts.length).zip w.parts).map fun x => if x.1 = n then f x.2 else x.2 }

/-- WRITE_PART_RELEASE (R333). -/
def execWritePartRelease (id part : Nat) (s : State) : Out :=
  match s.port.inWrites.find? fun w => w.id = id with
  | none => .next s
  | some w => match w.parts[part]? with
    | none => .next s
    | some q =>
      if q.released.isSome ∨ (!w.relaxed ∧ s.port.inWrites.any (heldBy w q.route)) then .next s
      else .next ({ s with serial := s.serial + 1 }.modWrite id fun w => w.modPart part fun q => { q with released := some (s.serial + 1) })

/-- Applies a part where its route ends: to device memory at the pile, 32-byte block by block; to the queue table, which has its own home in State; or
to the registers, which ignore a poisoned write (log 38). The blocks of a poisoned write, and those that the host staging has lost, are
written poisoned (R415, Table 160). -/
def State.applyPart (s : State) (w : InWrite) (q : WritePart) : State :=
  let bad (a : Nat) : Bool := w.poisoned || q.poison.contains (a / 32)
  let blocks := piecesAt 32 (q.bytes.length + 1) q.pa q.bytes
  match q.reg with
  | none => { s with mem := blocks.foldl (fun m x => m.writeDram x.1 x.2.length (natOfBytes x.2) (bad x.1)) s.mem }
  | some off =>
    if q.route = 4 then (if w.poisoned ∨ q.poison ≠ [] then s else s.writeBar0 w.fn off q.bytes)
    else
      let rel (a : Nat) : Nat := off - 0x2000 + (a - q.pa)
      (s.writeBar0 w.fn off q.bytes).modPart w.fn fun p =>
        { p with queuePoison := blocks.foldl (fun m x => poisonAfter m 32 (rel x.1) x.2.length (bad x.1)) p.queuePoison }

/-- WRITE_PART_ACKNOWLEDGE: the oldest part released to its route is applied and acknowledged; a write is performed with its last part (R332). -/
def execWritePartAcknowledge (id part : Nat) (s : State) : Out :=
  match s.port.inWrites.find? fun w => w.id = id with
  | none => .next s
  | some w => match w.parts[part]? with
    | none => .next s
    | some q => match q.released with
      | none => .next s
      | some n =>
        let first := !(s.port.inWrites.any fun e => e.parts.any fun x => decide (x.route = q.route) && !x.acked && (match x.released with
          | some m => decide (m < n)
          | none => false))
        if q.acked ∨ !first then .next s
        else
          let t := (s.applyPart w q).modWrite id fun w => w.modPart part fun q => { q with acked := true }
          .next { t with port := { t.port with inWrites := t.port.inWrites.filter fun e => e.parts.any fun x => !x.acked } }

/-- A register write takes effect behind the earlier posted writes of its function (R333), unless its stream drops it (R415). -/
def State.registersFree (s : State) (fn : Nat) : Bool := s.hears && s.linkOpen fn && !(s.port.inWrites.any fun w => w.domain == (fn, none))

/-- Does a write to BAR0 reach the queue-table alias? -/
def reachesAlias (w : RegWrite) : Bool := decide (w.fn < 8 ∧ w.offset < 0x3000 ∧ 0x2000 < w.offset + w.bytes.length)

/-- REGISTER_WRITE (R329, R369): discarded where its TLP fails the IDE check (R415). One that reaches the queue-table alias goes by the rules of the
window, part by part (R330); any other takes effect as a whole. -/
def execRegisterWrite (w : RegWrite) (s : State) : Out :=
  let (ok, t) := s.ideCheck w.fn w.ideOk
  if !s.hears then .next s
  else if !ok then .next t
  else if !s.fnAnswers w.fn then .next (s.aerUnsupported { fn := w.fn, bar0 := true, offset := w.offset, bytes := w.bytes })
  else if reachesAlias w then
    if hostStaging < s.stagedBytes + w.bytes.length then .next s
    else .next (s.addWrite { fn := w.fn, parts := s.bar0Parts w.fn w.offset w.bytes })
  else if s.registersFree w.fn then .next (s.writeBar0 w.fn w.offset w.bytes)
  else .next s

/-- PWR_LIMIT_WRITE (R369). -/
def execPwrLimitWrite (value : Word) (s : State) : Out :=
  if s.registersFree 8 && s.fnAnswers 8 then .next (s.setPwrLimit value.toNat) else .next s

/-- EOL_THRESHOLD_WRITE (R429). -/
def execEolThresholdWrite (value : Word) (s : State) : Out :=
  if s.registersFree 8 && s.fnAnswers 8 then .next (s.setThreshold value.toNat) else .next s

/-! ### Inbound reads and AtomicOps (R334) -/

/-- Is a non-posted request released: every earlier posted write of its domain has been performed, or its read is relaxed? -/
def State.readFree (s : State) (r : HostReq) (relaxed : Bool) : Bool :=
  relaxed || !(s.port.inWrites.any fun w => w.domain == HostReqDomain r.fn r.requester r.ido)

def State.complete (s : State) (c : Completion) : State := { s with port := { s.port with completions := s.port.completions ++ [c] } }
def State.unsupported (s : State) (r : HostReq) : State :=
  (s.complete { fn := r.fn, requester := r.requester, unsupported := true }).aerUnsupported r

/-- Bytes and poison of the pieces of a window read; none when a piece lies on a failing page. -/
def State.windowBytes (s : State) (part : Nat) : List (Nat × List Byte) → Option (List Byte × Bool)
  | [] => some ([], false)
  | x :: xs => match s.windowPa part x.1 false, s.windowBytes part xs with
    | some pa, some (bs, bad) => some (bytesOf (s.mem.readDram pa x.2.length) x.2.length ++ bs, s.mem.dramBad pa x.2.length || bad)
    | _, _ => none

/-- INBOUND_MEMORY_READ: the completion carries the bytes in address order (R331, R334, R415). -/
def execInboundMemoryRead (r : HostReq) (s : State) : Out :=
  if !s.hears ∨ r.len = 0 ∨ 4096 < r.len ∨ !s.readFree r r.relaxed then .next s
  else
    let (ok, t) := s.ideCheck r.fn r.ideOk
    if !ok then .next t
    else if !t.fnAnswers r.fn ∨ (r.fn = 8 ∧ !r.bar0) then .next (t.unsupported r)
    else if r.bar0 then
      .next (t.complete { fn := r.fn, requester := r.requester, bytes := (List.range r.len).map fun i => t.bar0Byte r.fn (r.offset + i),
                          poisoned := (List.range r.len).any fun i => t.bar0Bad r.fn (r.offset + i) })
    else
      let p := t.part r.fn
      if 2 ^ p.k < r.offset + r.len then .next (t.unsupported r)
      else match t.windowBytes r.fn (pieces 4 (p.wbase + r.offset) (zeros r.len)) with
        | some (bs, bad) => .next (t.complete { fn := r.fn, requester := r.requester, bytes := bs, poisoned := bad })
        | none => .next (t.unsupported r)

/-- INBOUND_ATOMICOP: one atomic step at the pile, for 32-bit and 64-bit operands (R334, Table 113). -/
def execInboundAtomicop (r : HostReq) (s : State) : Out :=
  if !s.hears ∨ !s.readFree r false then .next s
  else
    let (ok, t) := s.ideCheck r.fn r.ideOk
    let p := t.part r.fn
    if !ok then .next t
    else if !t.fnAnswers r.fn ∨ r.fn = 8 ∨ r.bar0 ∨ (r.len ≠ 4 ∧ r.len ≠ 8) ∨ r.offset % r.len ≠ 0 ∨ 2 ^ p.k < r.offset + r.len ∨ 2 < r.op then
      .next (t.unsupported r)
    else match t.windowPa r.fn (p.wbase + r.offset) true with
      | none => .next (t.unsupported r)
      | some pa =>
        let kind : FKind := if r.op = 0 then .atom 0 else if r.op = 1 then .atom 11 else .cas
        let (u, f) := t.applyAccess { kind := kind, place := .dram pa, core := 1024, width := r.len, data := r.operand % 2 ^ (8 * r.len),
                                      cmp := r.compare % 2 ^ (8 * r.len) }
        .next (u.complete { fn := r.fn, requester := r.requester, bytes := bytesOf f.result r.len, poisoned := f.rpoison })

/-! ### Outbound requests (R335, R415) -/

/-- The posted order once the flush read of an access has shown what stands before it to be performed: that access leaves, and so do the messages
before it. -/
def afterFlush (id : Nat) (ps : List Posted) : List Posted :=
  let before := ps.takeWhile fun p => p != .access id
  let isAccess (p : Posted) : Bool := match p with
    | .access _ => true
    | .msix _ _ => false
  before.filter isAccess ++ (ps.dropWhile fun p => p != .access id).drop 1

/-- A flush read has ended: the write is performed at system scope, or its channel is uncertain (R402). -/
def State.flushDone (s : State) (f : Flight) (ok : Bool) : State :=
  let t := s.modFlight f.id fun g => { g with done := 3 }
  let t1 := { t with port := { t.port with posted := if t.port.posted.contains (.access f.id) then afterFlush f.id t.port.posted else t.port.posted } }
  let t2 := match ok, f.chan with
    | false, some c => t1.modTeam f.who.group.stream fun x => { x with uncertain := setBit x.uncertain c true }
    | _, _ => t1
  t2.sweep

/-- OUTBOUND_COMPLETION: data, a failed status, or a poisoned payload (R335, R415). The statuses of a completion are 0 to 7; a value from 8 up stands for
a completion that fails its IDE check, which is discarded (log 38). -/
def execOutboundCompletion (id : Nat) (status : Nat) (data : List Byte) (poison : Bool) (s : State) : Out :=
  match s.flight? id with
  | none => .next s
  | some f =>
    let (ok, t) := s.ideCheck f.part (decide (status < 8))
    if !s.port.up then .next s
    else if !ok then .next t
    else if f.waitsFlush then .next ((if status = 0 then s else s.aerStatus f.part status).flushDone f (status == 0 && !poison))
    else if !s.wentOut f then .next s
    else if status ≠ 0 then .next ((s.aerStatus f.part status).poisonFlight id)
    else if data.length ≠ f.width then .next s
    else match f.place with
      | .host a =>
        let t := { s with mem := s.mem.writeHost a f.width (natOfBytes data) }
        if poison then .next (s.poisonFlight id)
        else
          let (u, g) := t.applyAccess f
          .next (u.performed g)
      | _ => .next s

/-- COMPLETION_TIMEOUT: 50 ms without a completion (R415); for a write, its flush read. -/
def execCompletionTimeout (id : Nat) (s : State) : Out :=
  match s.flight? id with
  | none => .next s
  | some f =>
    if f.waitsFlush then .next ((s.aer { fn := f.part, kind := 3 }).flushDone f false)
    else if s.wentOut f then .next ((s.aer { fn := f.part, kind := 3 }).poisonFlight id)
    else .next s

/-- SURPRISE_DOWN: outstanding reads and AtomicOps complete poisoned, flush reads fail; posted writes are discarded while the link is down (R415). -/
def execSurpriseDown (s : State) : Out :=
  if !s.port.up then .next s
  else
    let t := { s with port := { s.port with up := false } }.aer { fn := 8, kind := 4 }
    let t1 := (t.flights.filter fun f => t.wentOut f).foldl (fun (t : State) f => t.poisonFlight f.id) t
    .next ((t1.flights.filter fun f => f.waitsFlush).foldl (fun (t : State) f => t.flushDone f false) t1)

/-- HOST_LINK_RETURN: the link is up again without a hot reset (R415). -/
def execHostLinkReturn (s : State) : Out :=
  if s.plat.bootStatus = 0x10 then .next { s with port := { s.port with up := true } } else .next s

/-- IDE_KM: new keys take a stream out of the Insecure state (R415). -/
def execIdeKm (fn : Nat) (key : BitVec 256) (s : State) : Out :=
  .next { s with port := { s.port with ideKeys := sset 0 s.port.ideKeys fn key, insecure := sset false s.port.insecure fn false } }

end Sys2Proof.Machine
end

