-- ==== Sys2Proof/Machine/LaneCross.lean ====
section
/-! DEFINITION. Machine/LaneCross.lean: lane predicates (11 R253) and the cross-lane instructions (R254 to R257). -/

namespace Sys2Proof.Machine

/-! ### Predicates (R253) -/

/-- p_d := f(p_a, p_b) per executing lane; .NEG inverts p_a. -/
def lanePred (s : State) (x : Args) (f : Bool → Bool → Bool) : Out :=
  laneRun s x 1 [] [] [] (s.writePreds (s.lanesFor x) x.d.toNat fun l => f (xor (s.p l x.a.toNat) x.neg) (s.p l x.b.toNat))

def execPand (x : Args) (s : State) : Out := lanePred s x and
def execPor (x : Args) (s : State) : Out := lanePred s x or
def execPxor (x : Args) (s : State) : Out := lanePred s x xor
def execPmov (x : Args) (s : State) : Out :=
  laneRun s x 1 [] [] [] (s.writePreds (s.lanesFor x) x.d.toNat fun l => s.p l x.a.toNat)
def execPnot (x : Args) (s : State) : Out :=
  laneRun s x 1 [] [] [] (s.writePreds (s.lanesFor x) x.d.toNat fun l => !s.p l x.a.toNat)

/-! ### Reads across lanes (R255) -/

/-- Poison of the registers that lanes deliver to the executing lanes. -/
def State.poisonFrom (s : State) (lanes : List Nat) (reg : Nat) (src : Nat → Option Nat) : Option Code :=
  if lanes.any fun l => match src l with
    | some m => (s.laneRead m reg).poison
    | none => false
  then some ⟨cPoison, reg * 2 ^ 8⟩ else none

/-- XLD: v_d := lane_read(B, A). -/
def execXld (x : Args) (s : State) : Out :=
  let ls := s.lanesFor x
  let regs := [x.d.toNat, x.a.toNat, x.b.toNat]
  laneRun s x 1 regs regs [s.poisonFrom ls x.a.toNat fun l => some (s.v l x.b.toNat), s.poisonV ls [x.b.toNat]]
    (s.writeLanes ls x.d.toNat fun l => (s.laneRead (s.v l x.b.toNat) x.a.toNat).val.toNat)

/-- The lane that XSHF reads for lane `l` under a pattern. -/
def shuffleLane (pat l : Nat) : Option Nat :=
  let k := field pat 10 0
  let w := 2 ^ min (field pat 19 16) 10
  let i := l % w
  let base := l - i
  match field pat 13 12 with
  | 0 => if k ≤ i then some (base + (i - k)) else none
  | 1 => if i + k < w then some (base + (i + k)) else none
  | 2 => if Nat.xor i k < w then some (base + Nat.xor i k) else none
  | _ => some (base + (i + k) % w)

def execXshf (x : Args) (s : State) : Out :=
  let ls := s.lanesFor x
  let regs := [x.d.toNat, x.a.toNat]
  let src := shuffleLane (s.sr x.b.toNat)
  laneRun s x 1 regs regs
    [s.poisonFrom ls x.a.toNat src, if ls = [] then none else s.poisonS [x.b.toNat]]
    (s.writeLanes ls x.d.toNat fun l => match src l with
      | some m => (s.laneRead m x.a.toNat).val.toNat
      | none => 0)

/-! ### Votes (R256) -/

/-- The ballot word w of a predicate over the contributing lanes. -/
def ballotWord (s : State) (ls : List Nat) (n w : Nat) : Nat :=
  (ls.map fun l => if l / 32 = w ∧ s.p l n then 2 ^ (l % 32) else 0).sum

def execXbal (x : Args) (s : State) : Out :=
  let ls := s.lanesFor x
  laneRun s x 1 [x.d.toNat] [x.d.toNat] [] (s.writeLanes ls x.d.toNat fun l => ballotWord s ls x.a.toNat (l % 32))
def execXany (x : Args) (s : State) : Out :=
  let ls := s.lanesFor x
  let r := ls.any fun l => s.p l x.a.toNat
  laneRun s x 1 [] [] [] (s.writePreds ls x.d.toNat fun _ => r)
def execXall (x : Args) (s : State) : Out :=
  let ls := s.lanesFor x
  let r := ls.all fun l => s.p l x.a.toNat
  laneRun s x 1 [] [] [] (s.writePreds ls x.d.toNat fun _ => r)

/-! ### Reductions and scans (R257) -/

/-- A two-operand operation of Table 65; .FADD is FADD in mode 0. -/
def crossOp (op a b : Nat) : Nat :=
  match op with
  | 0 => (a + b) % 2 ^ 32
  | 1 => smin32 a b
  | 2 => smax32 a b
  | 3 => min a b
  | 4 => max a b
  | 5 => Nat.land a b
  | 6 => Nat.lor a b
  | 7 => Nat.xor a b
  | 8 => addF fF32 0 false a b
  | 9 => minF fF32 a b
  | _ => maxF fF32 a b

/-- Identities (Table 85). -/
def crossIdentity (op : Nat) : Nat :=
  match op with
  | 1 => 0x7FFFFFFF
  | 2 => 0x80000000
  | 3 => 0xFFFFFFFF
  | 5 => 0xFFFFFFFF
  | 8 => 0x80000000
  | 9 => 0x7F800000
  | 10 => 0xFF800000
  | _ => 0

/-- One level of the fixed tree: neighbours combined, an absent side passing the other up. -/
def treeLevel (op : Nat) : List (Option Nat) → List (Option Nat)
  | a :: b :: rest =>
    (match a, b with
     | some u, some v => some (crossOp op u v)
     | some u, none => some u
     | none, v => v) :: treeLevel op rest
  | rest => rest

/-- `n` levels of the tree. -/
def treeReduce (op : Nat) : Nat → List (Option Nat) → Option Nat
  | 0, l => l.headD none
  | n + 1, l => treeReduce op n (treeLevel op l)

/-- r of XRED over the contributing lanes: the tree for .FADD; the other operations give the same result in any order, a single
contributor's value unchanged. -/
def reduceLanes (op : Nat) (ls : List Nat) (val : Nat → Nat) : Nat :=
  if op = 8 then
    (treeReduce 8 10 ((List.range 1024).map fun l => if ls.contains l then some (val l) else none)).getD 0
  else match ls with
    | [] => 0
    | l :: rest => rest.foldl (fun e m => crossOp op e (val m)) (val l)

def execXred (x : Args) (s : State) : Out :=
  let ls := s.lanesFor x
  let regs := [x.d.toNat, x.a.toNat]
  let r := reduceLanes x.sub.toNat ls fun l => s.v l x.a.toNat
  laneRun s x 1 regs regs [s.poisonV ls [x.a.toNat]] (s.writeLanes ls x.d.toNat fun _ => r)

/-- The scan: the values written to the contributing lanes in ascending order. -/
def scanLanes (op : Nat) (exclusive : Bool) (val : Nat → Nat) : Nat → List Nat → List (Nat × Nat)
  | _, [] => []
  | e, l :: rest =>
    let e' := crossOp op e (val l)
    (l, if exclusive then e else e') :: scanLanes op exclusive val e' rest

/-- XSCAN and XSCAN_EX. -/
def scanOp (s : State) (x : Args) (exclusive : Bool) : Out :=
  let ls := s.lanesFor x
  let op := x.sub.toNat
  let regs := [x.d.toNat, x.a.toNat]
  let out := scanLanes op exclusive (fun l => s.v l x.a.toNat) (crossIdentity op) ls
  laneRun s x 1 regs regs [s.poisonV ls [x.a.toNat]] (out.foldl (fun t e => t.setVw e.1 x.d.toNat e.2) s)

def execXscan (x : Args) (s : State) : Out := scanOp s x false
def execXscanEx (x : Args) (s : State) : Out := scanOp s x true

end Sys2Proof.Machine
end

