-- ==== Sys2Proof/Machine/LaneInt.lean ====
section
/-! DEFINITION. Machine/LaneInt.lean: the lane integer instructions (11 R235 to R240). -/

namespace Sys2Proof.Machine

/-- IADD: wrap_u(A + B, 32), or sat_s(sA + sB, 32) (Table 76). -/
def execIadd (x : Args) (s : State) : Out := lane2 s x fun a b => intResult x.sat (a + b) (s32 a + s32 b) 32
/-- ISUB: wrap_u(A - B, 32), or sat_s(sA - sB, 32). -/
def execIsub (x : Args) (s : State) : Out := lane2 s x fun a b => intResult x.sat ((a : Int) - b) (s32 a - s32 b) 32
/-- IMUL: wrap_u(A × B, 32), or sat_s(sA × sB, 32). -/
def execImul (x : Args) (s : State) : Out := lane2 s x fun a b => intResult x.sat (a * b) (s32 a * s32 b) 32
/-- IMULH: wrap_u(floor(sA × sB ÷ 2^32), 32). -/
def execImulh (x : Args) (s : State) : Out := lane2 s x mulh32
/-- IMAD: wrap_u(A × B + C, 32), or sat_s(sA × sB + sC, 32). -/
def execImad (x : Args) (s : State) : Out := lane3 s x fun a b c => intResult x.sat (a * b + c) (s32 a * s32 b + s32 c) 32
def execImin (x : Args) (s : State) : Out := lane2 s x smin32
def execImax (x : Args) (s : State) : Out := lane2 s x smax32
def execIand (x : Args) (s : State) : Out := lane2 s x Nat.land
def execIor (x : Args) (s : State) : Out := lane2 s x Nat.lor
def execIxor (x : Args) (s : State) : Out := lane2 s x Nat.xor
/-- ISHL to IROT: as SSHL, SSHR, SSRA and SROT of Table 70. -/
def execIshl (x : Args) (s : State) : Out := lane2 s x shl32
def execIshr (x : Args) (s : State) : Out := lane2 s x shr32
def execIsra (x : Args) (s : State) : Out := lane2 s x sra32
def execIrot (x : Args) (s : State) : Out := lane2 s x rot32
/-- IBFE and IBFI: as SBFE and SBFI of Table 70. -/
def execIbfe (x : Args) (s : State) : Out := lane2 s x bfe32
def execIbfi (x : Args) (s : State) : Out := lane3 s x bfi32

/-- IADDS: the sum of A, B and the carry predicate, and its carry out (R236). -/
def execIadds (x : Args) (s : State) : Out :=
  let ls := s.lanesFor x
  let k := field x.c.toNat 5 0
  let t (l : Nat) : Nat := s.a x l + s.b x l + (if s.p l k then 1 else 0)
  let regs := [x.d.toNat, x.a.toNat, x.b.toNat]
  laneRun s x 1 regs regs [s.poisonV ls [x.a.toNat, x.b.toNat]]
    ((s.writeLanes ls x.d.toNat fun l => t l % 2 ^ 32).writePreds ls k fun l => decide (t l / 2 ^ 32 ≠ 0))

/-- IMADW: pair d := wrap_u(A × B + pair C, 64) (R237). -/
def execImadw (x : Args) (s : State) : Out :=
  let ls := s.lanesFor x
  let c := third x
  let regs := [x.d.toNat, x.d.toNat + 1, x.a.toNat, x.b.toNat, c, c + 1]
  laneRun s x 1 regs regs [s.poisonV ls [x.a.toNat, x.b.toNat, c, c + 1]]
    (s.writePairs ls x.d.toNat fun l => (s.a x l * s.b x l + s.vpair l c) % 2 ^ 64)

/-- The bytes that IPRM selects (R238). -/
def permuteBytes (a b c : Nat) : Nat :=
  let y (i : Nat) : Nat :=
    let n := field c (4 * i + 3) (4 * i)
    let v := field (a + b * 2 ^ 32) (8 * (n % 8) + 7) (8 * (n % 8))
    if n ≥ 8 then (if bitOf v 7 then 0xFF else 0) else v
  y 0 + y 1 * 2 ^ 8 + y 2 * 2 ^ 16 + y 3 * 2 ^ 24
def execIprm (x : Args) (s : State) : Out := lane3 s x permuteBytes

/-- ICMP (R239). -/
def execIcmp (x : Args) (s : State) : Out := laneCmp s x (condInt (field x.sub.toNat 2 0))

/-- ISEL: A where the predicate is 1, else B (R239). -/
def execIsel (x : Args) (s : State) : Out :=
  let ls := s.lanesFor x
  let k := field x.c.toNat 5 0
  let regs := [x.d.toNat, x.a.toNat, x.b.toNat]
  laneRun s x 1 regs regs [s.poisonV ls [x.a.toNat, x.b.toNat]]
    (s.writeLanes ls x.d.toNat fun l => if s.p l k then s.v l x.a.toNat else s.v l x.b.toNat)

def execIabs (x : Args) (s : State) : Out := lane1 s x fun a => intResult x.sat (s32 a).natAbs (s32 a).natAbs 32
def execIneg (x : Args) (s : State) : Out := lane1 s x fun a => intResult x.sat (-(s32 a)) (-(s32 a)) 32
def execInot (x : Args) (s : State) : Out := lane1 s x fun a => 2 ^ 32 - 1 - a
def execIclz (x : Args) (s : State) : Out := lane1 s x clz32
def execIpop (x : Args) (s : State) : Out := lane1 s x fun a => popCount a 32
def execIbrev (x : Args) (s : State) : Out := lane1 s x fun a => revBits a 32

/-- MOV copies A and keeps its poison (R235, R384). -/
def execMov (x : Args) (s : State) : Out :=
  let ls := s.lanesFor x
  laneRun s x 1 (directDA x) ([x.d.toNat] ++ s.regsA x)
    [s.xmodeCheck x, if x.xmode = 3 ∧ !bitOf x.c.toNat 7 ∧ ls ≠ [] then s.poisonS [field x.c.toNat 6 0] else none]
    (ls.foldl (fun t l => t.setV l x.d.toNat (s.srcA x l)) s)

/-- LID writes each lane's number. -/
def execLid (x : Args) (s : State) : Out :=
  laneRun s x 1 [x.d.toNat] [x.d.toNat] [] (s.writeLanes (s.lanesFor x) x.d.toNat id)

/-- The immediate of class I, sign-extended to 32 bits (R185, R240). -/
def immSigned (x : Args) : Int := signedOf x.imm (if x.long then 16 else 11)

/-- IMOVI: v_d := sign_extend(imm, 32) (R240). -/
def execImovi (x : Args) (s : State) : Out :=
  laneRun s x 1 [x.d.toNat] [x.d.toNat] [] (s.writeLanes (s.lanesFor x) x.d.toNat fun _ => wrapU (immSigned x) 32)

/-- IMOVH: the high half of v_d; it reads v_d. -/
def execImovh (x : Args) (s : State) : Out :=
  let ls := s.lanesFor x
  let d := x.d.toNat
  laneRun s x 1 [d] [d] [s.poisonV ls [d]] (s.writeLanes ls d fun l => x.imm * 2 ^ 16 + s.v l d % 2 ^ 16)

/-- MOVX: v(xk + o) := A (R240). -/
def execMovx (x : Args) (s : State) : Out :=
  let ls := s.lanesFor x
  let n := s.xr x.b.toNat + x.d.toNat
  laneRun s x 1 [x.a.toNat] [x.a.toNat, n] [s.indexCheck n, s.poisonV ls [x.a.toNat]]
    (s.writeLanes ls n fun l => s.v l x.a.toNat)

end Sys2Proof.Machine
end

