-- ==== Sys2Proof/Machine/Reset.lean ====
section
/-! DEFINITION. Machine/Reset.lean: what the reset ladder discards (21 R392; 23 R419) and the boot order (20 R367, R368), power and health (20 R376; 26
R427 to R434; 22 R399, R400). -/

namespace Sys2Proof.Machine

/-! ### Discarding work (R419) -/

/-- Discards teams unsaved: their groups and engine work go, accesses that have not been issued on a channel are dropped, and issued ones go on, with
their channel entries, which a saved team's image gives back to the table of its last core until they are acknowledged. No unit is in issue. -/
def State.discardTeams (s : State) (drop : Team → Bool) : State :=
  let gone := (s.teams.filter drop).map fun t => t.stream
  let images := ((s.teams.filter drop).map fun t => (t.part, (t.image.map fun im => im.bytes).getD 0))
  let held := (s.teams.filter drop).flatMap fun t => match t.image with
    | some im => im.chans.map fun e => (t.core, e)
    | none => []
  let core (k : Core) : Core :=
    let m (c : MContext) : MContext :=
      let keep := c.latch.all fun l => !gone.contains l.1.stream
      { c with queue := c.queue.filter fun e => e.bundle.isSome || !gone.contains e.stream, latch := if keep then c.latch else none,
               latchData := if keep then c.latchData else [] }
    { k with copies := k.copies.filter fun r => r.bundle.isSome || !gone.contains r.stream, mctx := k.mctx.map fun (c : Nat × MContext) => (c.1, m c.2) }
  let stays (f : Flight) : Bool := !gone.contains f.who.group.stream || f.copy.isSome && f.seq.isSome || f.seq.isSome
  let mark (f : Flight) : Flight := if gone.contains f.who.group.stream then { f with flag := none, acq := none, dst := none } else f
  let cores := s.cores.map fun (c : Nat × Core) => (c.1, core c.2)
  let t := { s with teams := s.teams.filter fun t => !drop t, groups := s.groups.filter fun g => !gone.contains g.key.stream, cores := cores,
                    flights := (s.flights.filter stays).map mark }
  let t1 := images.foldl (fun (t : State) i => t.modPart i.1 fun p => { p with poolUsed := p.poolUsed - i.2 }) t
  let t2 := held.foldl (fun (t : State) h => t.modCore h.1 fun k => { k with chans := chanPut k.chans h.2 }) t1
  t2.stopAllFenced

/-- Discards the started bundles of a partition that a test picks, with their grids, teams, copies and streams. -/
def State.discardBundles (s : State) (part : Nat) (pick : Bundle → Bool) : State :=
  let p := s.part part
  let bs := (p.bundles.filter pick).map fun b => b.id
  let gs := (p.grids.filter fun g => bs.contains g.bundle).map fun g => g.id
  let s1 := s.vacate.discardTeams fun t => t.part == part && gs.contains t.grid
  let mine (b : Option (Nat × Nat)) : Bool := b.any fun x => bs.contains x.1
  let ctx (c : MContext) : MContext := { c with queue := c.queue.filter fun e => !(e.part == part && mine e.bundle) }
  let core (k : Core) : Core :=
    { k with copies := k.copies.filter fun r => !(r.part == part && mine r.bundle), mctx := k.mctx.map fun (c : Nat × MContext) => (c.1, ctx c.2) }
  let cores := s1.cores.map fun (c : Nat × Core) => (c.1, core c.2)
  (({ s1 with cores := cores }.freeBoards (p.grids.filter fun g => bs.contains g.bundle)).modPart part fun p =>
    { p with bundles := p.bundles.filter fun b => !bs.contains b.id, grids := p.grids.filter fun g => !bs.contains g.bundle }).stopAllFenced

/-- Commands that stand in a ring from one count to another; a header that cannot be read counts as one slot. -/
def State.countCommands (s : State) (part d tail : Nat) : Nat → Nat → Nat
  | 0, _ => 0
  | fuel + 1, i =>
    if i = tail then 0
    else
      let n := match s.ringSlot part d i with
        | .ok h => cmLength h.toNat
        | .error _ => 1
      if (tail + 2 ^ 32 - i) % 2 ^ 32 < n then 1 else 1 + s.countCommands part d tail fuel ((i + n) % 2 ^ 32)

/-- Queue reset (rung 1): the queue is disabled, its started bundles are stopped, every command is discarded and counted past. -/
def State.resetQueue (s : State) (part q : Nat) : State :=
  let d := s.queue part q
  let waiting := s.countCommands part d (qTail d) (2 ^ 20) (qHead d)
  let started := ((s.part part).claimed.filter fun c => decide (c.queue = q) && c.started).length
  let s1 := s.discardBundles part fun b => decide (b.queue = q)
  let d1 := setField (setField (setField (setField d 128 128 0) 319 288 0) 255 224 (qTail d)) 287 256 ((qRetired d + waiting + started) % 2 ^ 32)
  (s1.setQueue part q d1).modPart part fun p => { p with claimed := p.claimed.filter fun c => decide (c.queue ≠ q), seen := sset 0 p.seen q (qTail d) }

/-- The queues of a partition that are in use. -/
def Partition.queueList (p : Partition) : List Nat := p.queues.map fun e => e.1

/-- Partition reset (rung 3, R392): every team, bundle and command goes, the halt state is 0 again and halt_seq stays. -/
def State.resetPartition (s : State) (part : Nat) : State :=
  let s1 := (s.part part).queueList.foldl (fun (t : State) q => t.resetQueue part q) s.vacate
  let s2 := (s1.discardBundles part fun _ => true).discardTeams fun t => t.part == part
  let clear (k : Core) : Core := { k with stopped := [], origin := [], lastUnit := [], served := [], hqs := [], copyFaulted := none }
  let s3 := (s2.part part).coreList.foldl (fun (t : State) c => t.modCore c clear) s2
  let h : Halt := { seq := (s3.part part).halt.seq }
  (s3.modPart part fun p => { p with halt := h, poolUsed := 0, claimed := [], bundles := [], grids := [] }).writeHalt part 0 64 (haltSummary h)

/-! ### Health (26) -/

/-- Does every monitor of a unit report 0 to 100 % (R427)? -/
def readingOk (r : MonitorReading) : Bool := (List.range 4).all fun m => decide (MonitorUsed r m ≤ 10000)

/-- HEALTH_SAMPLE, once per hour: readings of the 17 units in the order of R400 (R428). The last 30 days and the sample before them are kept. -/
def execHealthSample (readings : List MonitorReading) (s : State) : Out :=
  if s.plat.bootStatus < 3 ∨ readings.length ≠ 17 ∨ !(readings.all readingOk) then .next s
  else .next ({ s with health := { s.health with history := (readings :: s.health.history).take 721 } }.updateHealth true)

/-- PLANE_LOST: a lane has been down for 24 h (R433). -/
def execPlaneLost (lane : Nat) (s : State) : Out :=
  if !(s.lane lane).up ∧ lane < 128 ∧ s.plat.bootStatus = 0x10 then .next ((s.modLane lane fun l => { l with lost := true }).updateHealth false) else .next s

/-- A core is fenced (R432): it leaves service, and once no team remains on it its slot 16 is stopped. -/
def State.fence (s : State) (core : Nat) : State :=
  ({ s with health := { s.health with fenced := sset false s.health.fenced core true } }.updateHealth false).stopFenced core

/-! ### Boot (R367, R368) -/

/-- Fields of the device configuration record (Table 180), with the values of one that is not used. -/
def configFields (r : BitVec 512) : Nat × Nat × Nat :=
  let n := r.toNat
  let ok := field n 31 0 == 0x43464744 && field n 47 32 == 1 && field n 63 48 == 0 && field n 87 74 == 0 && field n 511 112 == 0 &&
    decide (field n 95 88 ≤ 192) && decide (1200 ≤ field n 111 96 ∧ field n 111 96 ≤ 3200)
  if ok then (field n 73 64, field n 95 88, field n 111 96) else (0, 0, 3200)

/-- The bytes of the pilot image, in place (log 7). -/
def imageCells : Nat → List Byte → List (Nat × Byte)
  | _, [] => []
  | a, b :: bs => if b = 0 then imageCells (a + 1) bs else (a, b) :: imageCells (a + 1) bs

/-- The pilot's group of a core, as it starts (log 7). -/
def pilotOf (core : Nat) : Group := { key := ⟨0, core⟩, core := core, slot := 16, lanes := 32, budget := 256, units := [pilotUnit] }

/-- The machine when a boot starts at step 1: all volatile state is gone; flash keeps the record, the monitor history and the fence list (R367, R419,
R428, R432). -/
def State.rebooted (s : State) (step : Nat) : State :=
  { State.reset with
    plat := { bootStatus := step, flash := s.plat.flash }
    health := { history := s.health.history, fenced := s.health.fenced }
    mem := { host := s.mem.host }
    free := s.free, serial := s.serial, agenda := s.agenda }

/-- Warm reset (rungs 4 and 5): the boot order restarts. REPLACE_REQUESTED stays (R431). -/
def State.warm (s : State) : State :=
  let t := s.rebooted 1
  { t with health := { t.health with status := BitVec.ofNat 4 (s.health.status.toNat % 2) } }

/-- Loads the pilots and starts them: one group in slot 16 of every core in service. -/
def State.startPilots (s : State) : State :=
  let cores := (List.range 256).filter fun c => !sget false s.health.fenced c
  let t := s.vacate
  let others := t.groups.filter fun g => decide (g.slot ≠ 16)
  let t1 := { t with mem := { t.mem with pilot := imageCells 0 Config.pilotImage }, groups := cores.map pilotOf ++ others }
  cores.foldl (fun (u : State) c => u.modCore c fun k => { k with pilot := true }) t1

/-- BOOT_STEP_COMPLETE: the step in progress ends and the next begins; a failed signature, at steps 1 and 3, stops the boot (R367). -/
def execBootStepComplete (ok : Bool) (s : State) : Out :=
  let p := s.plat
  match p.bootStatus, ok with
  | 1, true => .next { s with plat := { p with bootStatus := 2, m0 := Config.sha384 Config.iodImage } }
  | 2, true =>
    let (device, carve, limit) := configFields p.flash
    .next { s with plat := { p with bootStatus := 3, m2 := Config.sha384 (bytesOf p.flash.toNat 64), device := device, carve := carve, pwrLimit := limit },
                   port := { s.port with up := true } }
  | 3, true => .next ({ s with plat := { p with bootStatus := 4, m1 := Config.sha384 Config.pilotImage } }.startPilots)
  | 4, true =>
    let k := Config.p384Private s.free
    .next { s with plat := { p with bootStatus := 5, akeyPriv := k, akeyPub := Config.p384Public k }, free := s.free + 1 }
  | 5, true =>
    .next (((List.range 128).foldl (fun (t : State) n => t.modLane n fun l => { l with up := true }) { s with plat := { p with bootStatus := 0x10 } }).updateHealth true)
  | 1, false => .next { s with plat := { p with bootStatus := 0xE1 }, port := { s.port with up := false } }
  | 3, false => .next { s with plat := { p with bootStatus := 0xE1 }, port := { s.port with up := false } }
  | _, _ => .next s

/-- POWER_GOOD starts the boot order of a module without power (R367). -/
def execPowerGood (s : State) : Out := if s.plat.bootStatus = 0 then .next (s.rebooted 1) else .next s

/-- POWER_GOOD_REMOVAL: the cold reset of rung 5 (R419). -/
def execPowerGoodRemoval (s : State) : Out := .next { s.rebooted 0 with grp := { st := .free, key := ⟨0, 2 ^ 20⟩ }, cur := { st := .ended } }

/-- HOT_RESET: a hot reset of the port is a device warm reset (R415). -/
def execHotReset (s : State) : Out := if s.plat.bootStatus = 0 then .next s else .next s.warm

/-! ### Power (R376, R377) -/

/-- A new clock takes effect between two cycles; the time elapsed so far stays counted. -/
def State.setClock (s : State) (mhz : Nat) : State :=
  if mhz = s.plat.clkNow then s
  else { s with plat := { s.plat with clkNow := mhz, microsAt := s.micros, clkSince := s.cycle } }

/-- POWER_CONTROL_SAMPLE, every 1 ms: the power of the last 1 ms in mW, and whether the cold plate's outlet is above its rated temperature. -/
def execPowerControlSample (mw : Nat) (hot : Bool) (s : State) : Out :=
  let p := s.plat
  if p.bootStatus < 3 then .next s
  else
    let limit := p.pwrLimit * 1000
    let below := if 100 * mw < 95 * limit then min 10 (p.belowMs + 1) else 0
    let f := if hot ∨ limit < mw then max 950 (p.clkNow - 25) else if below ≥ 10 then min 1900 (p.clkNow + 25) else p.clkNow
    let cap := (if f < 1900 then 1 else 0) + (if hot then 2 else 0)
    .next ({ s with plat := { p with pwrNow := mw, energy := p.energy + mw, belowMs := below, cap := BitVec.ofNat 2 cap } }.setClock f)

/-! ### Soft errors (R399, R400, Table 160) -/

/-- The structure code of Table 160. -/
def eccCode : EccSite → Nat
  | .mainReg _ _ _ => 0
  | .regionReg _ _ _ => 0
  | .uniformReg _ _ => 1
  | .spad _ _ => 2
  | .fullBit _ _ => 3
  | .tile _ _ _ => 4
  | .queue _ _ _ => 5
  | .l1 _ _ => 6
  | .tlb _ _ _ => 7
  | .pte _ => 7
  | .xlate _ _ => 7
  | .cleanLine _ => 8
  | .dram _ => 9
  | .staging _ _ _ => 10
  | .retransmit _ => 11
  | .stored _ _ => 11
  | .control _ _ => 12

/-- The core whose structure it is, if it is a core's. -/
def State.siteCore (s : State) : EccSite → Option Nat
  | .mainReg g _ _ => (s.group? g).map fun g => g.core
  | .regionReg g _ _ => (s.group? g).map fun g => g.core
  | .uniformReg g _ => (s.group? g).map fun g => g.core
  | .xlate g _ => (s.group? g).map fun g => g.core
  | .spad c _ => some c
  | .fullBit c _ => some c
  | .tile c _ _ => some c
  | .queue c _ _ => some c
  | .l1 c _ => some c
  | .tlb c _ _ => some c
  | .control c g => some (((g.bind s.group?).map fun g => g.core).getD c)
  | _ => none

/-- The unit in the order of R400: the core's die, the pile of a DRAM address, or the I/O die. -/
def State.siteUnit (s : State) (e : EccSite) : Nat :=
  match e, s.siteCore e with
  | .cleanLine pa, _ => 5 + (placeOf s.plat.carve pa).1
  | .dram pa, _ => 5 + (placeOf s.plat.carve pa).1
  | _, some c => dieOfCore c
  | _, none => 4

/-- The location that the log shows (Table 161): a register-window address, a byte offset in a slice, a physical address, or what the event gives. -/
def State.siteLocation (s : State) (e : EccEvent) : Nat :=
  let window (g : GKey) (lane reg : Nat) : Nat := match s.group? g with
    | some x => if x.slot < 16 then x.core * 2 ^ 24 + x.slot * 2 ^ 20 + lane * 2 ^ 10 + reg * 4 else e.offset
    | none => e.offset
  match e.site with
  | .mainReg g l r => window g l r
  | .regionReg g l r => window g l r
  | .spad _ n => n * 16
  | .cleanLine pa => pa
  | .dram pa => pa
  | _ => e.offset

/-- Does a site lie in the device? -/
def State.siteOk (s : State) (e : EccSite) : Bool :=
  match s.siteCore e with
  | some c => decide (c < 256)
  | none => match e with
    | .mainReg _ _ _ => false
    | .regionReg _ _ _ => false
    | .uniformReg _ _ => false
    | .xlate _ _ => false
    | .cleanLine pa => decide (pa < 2 ^ 41)
    | .dram pa => decide (pa < 2 ^ 41)
    | _ => true

/-- Kind of a log record (Table 161). -/
def eccKind (e : EccEvent) : Nat :=
  let c := eccCode e.site
  if e.corrected then 0 else if c = 12 then 3 else if (6 ≤ c ∧ c ≤ 8) ∨ c = 11 then 2 else 1

/-- Counts an event of a unit, corrected or not, and writes it to the log of 64. -/
def State.logEvent (s : State) (e : EccEvent) : State :=
  let h := s.health
  let k := s.siteUnit e.site * 3 + (if e.corrected then 0 else 1)
  { s with health := { h with counters := sset 0 h.counters k (sget 0 h.counters k + 1) } }.logRecord
    { location := s.siteLocation e, structure_ := if e.corrected then 13 else (eccCode e.site), unit := s.siteUnit e.site, core := (s.siteCore e.site).getD 511,
      kind := eccKind e, part := e.part }

/-- A register of the main file is poisoned, beneath a resident region or not. -/
def Group.poisonMain (g : Group) (lane reg : Nat) : Group :=
  let k := lane * 256 + reg
  g.setMain k { g.mainFile k with poison := true }

/-- A word of a region buffer is poisoned: what the region's unit sees, and not the main file beneath. -/
def Group.poisonRegion (g : Group) (lane reg : Nat) : Group :=
  let k := lane * 256 + reg
  let old := sget {} g.r.v k
  let covers (r : Region) : Bool := r.resident && r.regs.contains reg && r.lanes.toNat.testBit lane
  let keep (r : Region) : Region := if covers r && (sget none r.main k).isNone then { r with main := sset none r.main k (some old) } else r
  if g.units.any fun u => u.region.any covers then
    { g with r := { g.r with v := sset {} g.r.v k { old with poison := true } }, units := g.units.map fun u => { u with region := u.region.map keep } }
  else g

def Group.poisonUniform (g : Group) (reg : Nat) : Group :=
  { g with r := { g.r with s := sset {} g.r.s reg { sget {} g.r.s reg with poison := true } } }

/-- The key at the source of a buffered request packet, the one at position `n` of the retransmit buffer. -/
def State.loseOut (s : State) (n : Nat) : State :=
  match (s.iod.out.filter fun o => decide (o.packet.kind ≤ 4))[n]? with
  | none => s
  | some o => match o.key with
    | none => s
    | some k => match s.keyEntry k with
      | none => s
      | some e =>
        let t := s.setKeyEntry { e with lostPackets := e.lostPackets ++ [o.packet.seq] }
        { t with iod := { t.iod with out := t.iod.out.filter fun x => decide (x ≠ o) } }.startExchange k

/-- STATE_LOST halts the partition of the group that lost its state, or, for state of no one group, the core's or the one that the event names (H* of
Table 158). A pilot that lost its state is stopped (log 7). -/
def State.stateLost (s : State) (core : Nat) (g : Option GKey) (part : Option Nat) : State :=
  match g.bind s.group? with
  | some g =>
    if g.slot = 16 then
      let v := s.vacate
      { v with groups := v.groups.filter fun x => decide (x.key ≠ g.key) }.modCore g.core fun k => { k with pilot := false }
    else match s.team? g.key.stream with
      | some t => s.halt t.part g.core g.pipe cStateLost 12 ((g.units.head?.map fun u => u.pc.toNat).getD 0)
      | none => s
  | none => match part.orElse fun _ => s.partOf core with
    | some p => s.halt p core 0 cStateLost 12 0
    | none => s

/-- The result of an uncorrectable error (Table 160). A translation register is derived again in the same step; a block of a partition's queue table is
poisoned where the table has its home. -/
def State.eccResult (s : State) (e : EccEvent) : State :=
  match e.site with
  | .mainReg g l r => s.modGroup g fun x => x.poisonMain l r
  | .regionReg g l r => s.modGroup g fun x => x.poisonRegion l r
  | .uniformReg g r => s.modGroup g fun x => x.poisonUniform r
  | .spad c n => { s with mem := { s.mem with spadPoison := sset false s.mem.spadPoison (granKey c (n * 16)) true } }
  | .fullBit c n =>
    { s with mem := { s.mem with spadPoison := sset false s.mem.spadPoison (granKey c (n * 16)) true, full := sset false s.mem.full (granKey c (n * 16)) true } }
  | .tile c x n => s.modCore c fun k =>
      let m := k.ctx x
      k.setCtx x { m with tiles := sset {} m.tiles n { sget {} m.tiles n with poison := true } }
  | .queue c q n => s.modCore c fun k =>
      let h := k.hq q
      k.setHq q { h with items := ((List.range h.items.length).zip h.items).map fun x => if x.1 = n then { x.2 with poison := true } else x.2 }
  | .l1 c n => s.modCore c fun k => { k with l1 := k.l1.filter fun l => decide (l.key ≠ n) }
  | .tlb c none va => s.modCore c fun k => { k with tlb := k.tlb.filter fun t => decide (t.va ≠ va) }
  | .tlb c (some p) va => s.modCore c fun k => { k with pipeTlb := sset [] k.pipeTlb p ((sget [] k.pipeTlb p).filter fun t => decide (t.va ≠ va)) }
  | .pte va => { s with iod := { s.iod with ptes := s.iod.ptes.filter fun t => decide (t.va ≠ va) } }
  | .xlate g n => match (s.group? g).bind fun x => s.team? x.key.stream with
    | some t => s.modGroup g fun x => s.rederiveSlot t.part n (sget 0 (x.table t) n) x
    | none => s.modGroup g fun x => { x with xlate := x.xlate.filter fun e => decide (e.1 ≠ n) }
  | .cleanLine _ => s
  | .dram pa =>
    let inTable (p : Partition) : Bool := p.created && decide (p.table ≤ pa) && decide (pa < p.table + 4096)
    let mark (p : Partition) : Partition := { p with queuePoison := sset false p.queuePoison ((pa - p.table) / 32) true }
    { s with mem := { s.mem with dramPoison := sset false s.mem.dramPoison (pa / 32) true },
             parts := s.parts.map fun p => (p.1, if inTable p.2 then mark p.2 else p.2) }
  | .staging w n b => s.modWrite w fun w => w.modPart n fun q => { q with poison := q.poison ++ [(q.pa + b) / 32] }
  | .retransmit n => s.loseOut n
  | .stored k q =>
    let drop (x : SeqState) : SeqState := if x.key = k then { x with stored := x.stored.filter fun p => decide (p.2.seq ≠ q) } else x
    { s with iod := { s.iod with keys := s.iod.keys.map drop } }
  | .control c g => s.stateLost c g e.part

/-- Notes an uncorrectable event of a core, and fences the core when R432 says so. -/
def State.noteCoreEvent (s : State) (core code : Nat) : State :=
  let now := s.micros
  let recent (l : List (Nat × Nat)) : Nat := (l.filter fun x => decide (x.1 = core ∧ now < x.2 + 86400000000)).length
  let h := s.health
  let errs := if code ≤ 5 then h.coreErrors ++ [(core, now)] else h.coreErrors
  let lost := if code = 12 then h.coreLost ++ [(core, now)] else h.coreLost
  let t := { s with health := { h with coreErrors := errs, coreLost := lost } }
  if (recent lost ≥ 2 ∨ recent errs ≥ 16) ∧ !sget false h.fenced core then t.fence core else t

/-- ECC_ERROR_DETECTED (R399, R400, Table 160). -/
def execEccErrorDetected (e : EccEvent) (s : State) : Out :=
  if !s.siteOk e.site then .next s
  else
    let t := s.logEvent e
    if e.corrected then .next t
    else
      let t1 := (t.eccResult e).sendMsix 8 1
      .next (match s.siteCore e.site with
        | some c => t1.noteCoreEvent c (eccCode e.site)
        | none => t1)

end Sys2Proof.Machine
end

