-- ==== Sys2Proof/Machine/Mgmt.lean ====
section
/-! DEFINITION. Machine/Mgmt.lean: the management commands (20 R369 to R375; Tables 150, 181 and 182; 06 R137; 14 R342, R343; 22 R400; 23 R414, R419; 26
R430). A command reads its descriptor from host memory and writes its status bytes there when it ends. -/

namespace Sys2Proof.Machine

/-! ### Descriptors -/

/-- Argument bytes from byte `b` on of a descriptor. -/
def mgArg (d b n : Nat) : Nat := field d (8 * (b + n) - 1) (8 * b)
def mgPart (d : Nat) : Nat := field d 10 8

/-- Is every argument bit outside the ranges given zero (R371)? A range is its first bit in the descriptor and its width. -/
def mgClean (d : Nat) (named : List (Nat × Nat)) : Bool :=
  ((List.range 384).map fun i => i + 64).all fun b => (named.any fun r => decide (r.1 ≤ b) && decide (b < r.1 + r.2)) || !bitOf d b

/-- Ends the pending command: its status bytes are written and the interface is free (R370, R371). -/
def State.endCommand (s : State) (desc : DWord) (result bytes : Nat) : State :=
  { s.putStatus desc.toNat result bytes with plat := { s.plat with busy := false, result := result, pending := none, begun := false } }

/-- Is a command pending, with a link over which to read its descriptor? -/
def State.isPending (s : State) (code : Nat) (desc : DWord) : Bool := s.plat.pending == some (code, desc) && s.port.up && s.linkOpen 8

def State.descriptor (s : State) (desc : DWord) : Nat := s.mem.readHost desc.toNat 64

/-- Runs a pending command: reserved argument bits end it with result 1. -/
def mgmt (code : Nat) (desc : DWord) (named : List (Nat × Nat)) (s : State) (f : Nat → State) : Out :=
  if s.isPending code desc then
    let d := s.descriptor desc
    if mgClean d named then .next (f d) else .next (s.endCommand desc 1 0)
  else .next s

/-- Writes bytes to host memory as requester on the PF (R371). -/
def State.toHost (s : State) (addr : Nat) (bs : List Byte) : State := { s with mem := s.mem.writeHost addr bs.length (natOfBytes bs) }

/-! ### Partitions (R370, R372, R390) -/

/-- Is a valid domain descriptor well-formed, its root apart (Table 36)? -/
def domainOk (d : Nat) : Bool :=
  !bitOf d 0 || (field d 255 249 == 0 && field d 191 185 == 0 && field d 47 1 == 0 && field d 248 192 % 2048 == 0 && field d 127 96 % 16384 == 0 &&
    field d 95 64 % 16384 == 0 && (field d 95 64 == 0 || field d 127 126 == 2))

/-- The fields of a parameter block (Table 182), when they are in order. A window base that is no multiple of 2^k is taken as it stands, for R357 and
R424 use such bases (log 36). -/
def blockOk (b : Nat) : Bool :=
  let k := field b 461 456
  let wbase := field b 447 384
  let pool := field b 383 320
  field b 1023 576 == 0 && field b 511 462 == 0 && field b 455 449 == 0 && decide (30 ≤ k ∧ k ≤ 38) && wbase % 65536 == 0 && decide (wbase + 2 ^ k ≤ 2 ^ 57) &&
  pool % 65536 == 0 && decide (132 * 1024 ≤ pool ∧ pool ≤ 2 ^ k) && field b 319 256 % 65536 == 0

/-- A level-0 table for each valid domain. -/
def State.allocRoots (s : State) : List (Nat × BitVec 512) → Option (List (Nat × BitVec 512) × State)
  | [] => some ([], s)
  | (n, d) :: ds =>
    if !domValid d then s.allocRoots ds
    else match s.allocTable 4096 with
      | none => none
      | some (a, t) => match t.allocRoots ds with
        | none => none
        | some (xs, u) => some ((n, BitVec.ofNat 512 (setField d.toNat 184 128 a)) :: xs, u)

/-- Pins 64 KiB pages of domain 0 on fresh frames of the first region that has them, outside the allowance. -/
def State.pinOwn (s : State) (part va n : Nat) : Option State :=
  ([0, 1, 2, 3, 4].findSome? fun r => s.mapPages part 0 0 r none true false n va).map fun t =>
    t.modPart part fun p => { p with uncounted := p.uncounted ++ (List.range n).map fun i => va + i * 65536 }

/-- Fills `n` 64 KiB pages of domain 0 with zeros. -/
def State.zeroPages (s : State) (part va : Nat) : Nat → State
  | 0 => s
  | n + 1 =>
    let t := match s.translate part 0 va with
      | .ok p => { s with mem := s.mem.zeroDram p.addr 65536 }
      | .error _ => s
    t.zeroPages part (va + 65536) n

/-- Bytes of a partition's dispatch block: its claim tickets and grid records (R114), whose layout the spec does not give (log 31). -/
def dispatchBytes : Nat := 65536

/-- The partition that a parameter block asks for, with its page tables, its queue table (R106), its dispatch block (R114) and its save pool; none when
frames run out. -/
def State.makePartition (s : State) (part desc b : Nat) (domains : List (Nat × BitVec 512)) : Option State :=
  match s.allocRoots domains with
  | none => none
  | some (ds, t0) => (t0.allocTable 4096).bind fun (table, t1) => (t1.allocTable dispatchBytes).bind fun (dispatch, t) =>
    let k := field b 461 456
    let wbase := field b 447 384
    let pool := field b 383 320
    let p : Partition :=
      { created := true, cores := BitVec.ofNat 256 (field b 255 0), dram := field b 319 256, tick := bitOf b 448, pool := pool, k := k, wbase := wbase,
        digest := Config.sha384 (bytesOf desc 64), domains := ds, table := table, dispatch := dispatch }
    ((t.setPart part p).pinOwn part (wbase + 2 ^ k - pool) (pool / 65536)).map fun u => u.zeroPages part (wbase + 2 ^ k - pool) 3

/-- Is a core of a mask taken by another partition, or fenced (R372, R434)? -/
def State.coreTaken (s : State) (part mask : Nat) : Bool :=
  (onesFrom mask 0 256).any fun c => sget false s.health.fenced c || s.parts.any fun p => decide (p.1 ≠ part) && p.2.created && p.2.cores.toNat.testBit c

/-- CREATE_PARTITION. -/
def execCreatePartition (desc : DWord) (s : State) : Out :=
  mgmt 1 desc [(64, 64)] s fun d =>
    let part := mgPart d
    let b := s.mem.readHost (mgArg d 8 8) 128
    let domains := (List.range 16).map fun i => (i, BitVec.ofNat 512 (s.mem.readHost (field b 575 512 + 64 * i) 64))
    let d0 := (domains.head?.map fun x => x.2).getD 0
    if (s.part part).created ∨ !blockOk b ∨ !domValid d0 ∨ !(domains.all fun x => domainOk x.2.toNat) then s.endCommand desc 1 0
    else if s.coreTaken part (field b 255 0) then s.endCommand desc 2 0
    else match s.makePartition part d b domains with
      | some t => t.endCommand desc 0 0
      | none => s.endCommand desc 2 0

/-- The tables and the pinned device pages under a table: address, size. -/
def framesUnder (m : Memory) : Nat → Nat → Nat → List (Nat × Nat)
  | 0, _, _ => []
  | fuel + 1, table, level =>
    let n := if level = 4 then 32 else 512
    (table, nextTableAlign (level - 1)) :: (List.range n).flatMap fun i =>
      let e := m.readDram (table + 8 * i) 8
      if !pteValid e then []
      else if pteLeaf e then (if ptePinned e && pteTarget e == 0 then [(pteAddr e, pageSize level)] else [])
      else framesUnder m fuel (pteAddr e) (level + 1)

/-- Frees the cores and the memory of a partition. -/
def State.freePartition (s : State) (part : Nat) : State :=
  let p := s.part part
  let frames := (p.domains.filter fun d => domValid d.2).flatMap fun d => framesUnder s.mem 5 (domRoot d.2) 0
  let own := [(p.table, 4096), (p.dispatch, dispatchBytes)]
  let t := ((frames ++ own).foldl (fun (t : State) f => t.freeFrame f.1 f.2) s).freeBoards (p.grids ++ p.past)
  let keep (e : TlbEntry) : Bool := decide (e.part ≠ part)
  let drop (c : Core) : Core := { c.keepTlb keep with l1 := [] }
  let t1 := p.coreList.foldl (fun (t : State) c => t.modCore c drop) t
  { t1 with iod := { t1.iod with ptes := t1.iod.ptes.filter keep } }.setPart part {}

/-- DESTROY_PARTITION: every grid is discarded; once the accesses under way are over, cores and memory are freed. -/
def execDestroyPartition (desc : DWord) (s : State) : Out :=
  mgmt 2 desc [] s fun d =>
    let part := mgPart d
    if !(s.part part).created then s.endCommand desc 1 0
    else
      let t := if s.plat.begun then s
        else { s.resetPartition part with plat := { s.plat with begun := true } }
      if (t.flights.any fun f => f.part = part) ∨ (t.port.inWrites.any fun w => w.fn = part) then t else (t.freePartition part).endCommand desc 0 0

/-- CREATE_QUEUE: the ring's pages that are not pinned yet are pinned, and the descriptor is written, enabled (Table 28). -/
def execCreateQueue (desc : DWord) (s : State) : Out :=
  mgmt 3 desc [(64, 6), (72, 2), (96, 96)] s fun d =>
    let part := mgPart d
    let q := field (mgArg d 8 1) 5 0
    let slots := mgArg d 12 4
    let base := mgArg d 16 8
    let first := base / 65536 * 65536
    let n := ceilDiv (base + 64 * slots - first) 65536
    let power := (List.range 18).any fun i => slots == 8 * 2 ^ i
    if !(s.part part).created ∨ !power ∨ base % 4096 ≠ 0 ∨ 2 ^ 57 < base + 64 * slots ∨ qEnable (s.queue part q) then s.endCommand desc 1 0
    else
      let pages := ((List.range n).map fun i => first + i * 65536).filter fun a => !s.pinnedAt part 0 a
      match pages.foldl (fun (t : Option State) a => t.bind fun u => u.pinOwn part a 1) (some s) with
      | none => s.endCommand desc 2 0
      | some t => ((t.setQueue part q (base + 2 ^ 128 + field (mgArg d 9 1) 1 0 * 2 ^ 129 + slots * 2 ^ 160)).modPart part fun p =>
          { p with seen := sset 0 p.seen q 0, tickets := sset 0 p.tickets q 0 }).endCommand desc 0 0

/-- PREEMPT: every admitted team is asked to stop, Reserved teams give up their room; the command ends when every image is written (R131, R392). -/
def execPreempt (desc : DWord) (s : State) : Out :=
  mgmt 4 desc [] s fun d =>
    let part := mgPart d
    if !(s.part part).created ∨ (s.part part).halt.state ≠ 0 then s.endCommand desc 1 0
    else
      let ask (t : Team) : Team := if t.part = part ∧ s.canPreempt t then { t with preempt := true } else t
      let t := if s.plat.begun then s
        else ({ s with team := ask s.team, teams := s.teams.map ask, plat := { s.plat with begun := true } }.modPart part fun p =>
          { p with grids := p.grids.map fun (g : Grid) => g.dropReserved fun _ => true }).stopAllFenced
      if (t.allTeams.any fun x => decide (x.part = part) && (x.st == .saving || (x.preempt && x.st == .admitted))) then t else t.endCommand desc 0 0

/-- INSTALL_GATE (R137). -/
def execInstallGate (desc : DWord) (s : State) : Out :=
  mgmt 5 desc [(64, 8), (128, 128)] s fun d =>
    let part := mgPart d
    let e := mgArg d 16 16
    if !(s.part part).created ∨ field e 124 120 ≠ 0 ∨ field e 61 59 ≠ 0 then s.endCommand desc 1 0
    else (s.modPart part fun p => { p with gates := sset 0 p.gates (mgArg d 8 1) (BitVec.ofNat 128 e) }).endCommand desc 0 0

/-- `n` bytes go from device memory to the host, 32-byte block by block: a poisoned block leaves as a poisoned TLP, and what the host then holds is
free (R399; log 38). -/
def State.copyOut (s : State) (h pa n : Nat) : State :=
  (piecesAt 32 (n + 1) pa (zeros n)).foldl (fun (t : State) x =>
    let w := x.2.length
    let (v, u) := if t.mem.dramBad x.1 w then t.drawFree (8 * w) else (t.mem.readDram x.1 w, t)
    { u with mem := u.mem.writeHost (h + (x.1 - pa)) w v }) s

/-- DOMAIN_COPY (R373): every page of the range is checked before a byte moves. -/
def execDomainCopy (desc : DWord) (s : State) : Out :=
  mgmt 0x14 desc [(64, 4), (72, 1), (96, 160)] s fun d =>
    let part := mgPart d
    let dom := field (mgArg d 8 1) 3 0
    let out := bitOf (mgArg d 9 1) 0
    let len := mgArg d 12 4
    let va := mgArg d 16 8
    let host := mgArg d 24 8
    let place (a : Nat) : Option Nat := match s.translate part dom a with
      | .ok p => if p.target = 0 then some p.addr else none
      | .error _ => none
    let ps := (pieces (len / 2048 + 2) va (zeros len)).map fun x => (x.1, place x.1, x.2.length)
    if !(s.part part).created ∨ len % 4 ≠ 0 ∨ len < 4 ∨ 2 ^ 24 < len ∨ 2 ^ 57 < va + len ∨ (ps.any fun x => x.2.1.isNone) then s.endCommand desc 1 0
    else
      let move (t : State) (x : Nat × Option Nat × Nat) : State :=
        let pa := x.2.1.getD 0
        let h := host + (x.1 - va)
        if out then t.copyOut h pa x.2.2
        else { t with mem := t.mem.writeDram pa x.2.2 (t.mem.readHost h x.2.2) false }
      (ps.foldl move s).endCommand desc 0 0

/-! ### The reset ladder (R419) -/

/-- RESET_QUEUE. -/
def execResetQueue (desc : DWord) (s : State) : Out :=
  mgmt 0x0D desc [(64, 6)] s fun d =>
    if (s.part (mgPart d)).created then (s.resetQueue (mgPart d) (field (mgArg d 8 1) 5 0)).endCommand desc 0 0 else s.endCommand desc 1 0

/-- A partition after the pilots of some cores have been restarted: claimed commands that have not started return to their queues with their tickets, and
Reserved teams of those cores, members of gangs among them, return by the save list. -/
def Partition.restartPilots (p : Partition) (cores : List Nat) : Partition :=
  let q := p.unclaim fun c => cores.contains c.core
  { q with grids := p.grids.map fun (g : Grid) => g.dropReserved fun r => cores.contains r.pilot || r.rooms.any fun x => cores.contains x.core }

/-- RESTART_PILOT: slot 16 of each named core in service is stopped, reloaded from flash, and started again if the image's digest equals M1; else it
stays stopped, and the command ends with result 2 (log 37). -/
def execRestartPilot (desc : DWord) (s : State) : Out :=
  mgmt 0x0E desc [(64, 256)] s fun d =>
    let p := s.part (mgPart d)
    let mask := mgArg d 8 32
    if !p.created ∨ (BitVec.ofNat 256 mask &&& ~~~ p.cores) ≠ 0 then s.endCommand desc 1 0
    else
      let cores := (onesFrom mask 0 256).filter fun c => !sget false s.health.fenced c
      let v := s.vacate
      let good := Config.sha384 Config.pilotImage == s.plat.m1
      let groups := (v.groups.filter fun g => !(g.slot == 16 && cores.contains g.core)) ++ if good then cores.map pilotOf else []
      let t := { v with groups := groups, mem := { v.mem with pilot := imageCells 0 Config.pilotImage } }.modPart (mgPart d) fun p => p.restartPilots cores
      (cores.foldl (fun (t : State) c => t.modCore c fun k => { k with pilot := good }) t).stopAllFenced.endCommand desc (if good then 0 else 2) 0

/-- RESET_PARTITION (R392). -/
def execResetPartition (desc : DWord) (s : State) : Out :=
  mgmt 0x0F desc [] s fun d =>
    if (s.part (mgPart d)).created then (s.resetPartition (mgPart d)).endCommand desc 0 0 else s.endCommand desc 1 0

/-- WARM_RESET: its status bytes are written, and the boot order restarts. -/
def execWarmReset (desc : DWord) (s : State) : Out := mgmt 0x10 desc [] s fun _ => (s.endCommand desc 0 0).warm

/-! ### Fabric tables and keys -/

/-- WRITE_SEGMENT (R342). -/
def execWriteSegment (desc : DWord) (s : State) : Out :=
  mgmt 6 desc [(64, 6), (128, 128)] s fun d =>
    let e := mgArg d 16 16
    if field e 93 57 ≠ 0 ∨ (bitOf e 127 ∧ (sgSize e = 0 ∨ sgBase e % 65536 ≠ 0)) then s.endCommand desc 1 0
    else { s with iod := { s.iod with segments := sset 0 s.iod.segments (field (mgArg d 8 1) 5 0) (BitVec.ofNat 128 e) } }.endCommand desc 0 0

/-- WRITE_PEER: the write clears the loss and starts a new key handshake (R412). -/
def execWritePeer (desc : DWord) (s : State) : Out :=
  mgmt 7 desc [(64, 10), (128, 128)] s fun d =>
    let n := field (mgArg d 8 2) 9 0
    let e := mgArg d 16 16
    if field e 125 124 ≠ 0 ∨ field e 87 64 ≠ 0 then s.endCommand desc 1 0
    else ((s.modPeer n fun p => { p with entry := BitVec.ofNat 128 e, lost := false }).startHandshake n).endCommand desc 0 0

/-- WRITE_TRUST (R375). -/
def execWriteTrust (desc : DWord) (s : State) : Out :=
  mgmt 8 desc [(64, 4), (128, 64)] s fun d =>
    let x := s.mem.readHost (mgArg d 16 8) 144
    let m (i : Nat) : BitVec 384 := BitVec.ofNat 384 (x / 2 ^ (384 * i))
    { s with plat := { s.plat with trust := sset none s.plat.trust (field (mgArg d 8 1) 3 0) (some (m 0, m 1, m 2)) } }.endCommand desc 0 0

/-- REKEY (R348). -/
def execRekey (desc : DWord) (s : State) : Out :=
  mgmt 9 desc [(64, 10)] s fun d =>
    let n := field (mgArg d 8 2) 9 0
    if s.canShake n then (s.startHandshake n).endCommand desc 0 0 else s.endCommand desc 1 0

/-! ### Reports (R371, R374, R400, R414, R430) -/

/-- GET_REPORT. -/
def execGetReport (desc : DWord) (s : State) : Out :=
  mgmt 0x0A desc [(64, 320)] s fun d =>
    let p := s.part (mgPart d)
    if !p.created ∧ mgPart d ≠ 0 then s.endCommand desc 1 0
    else
      let r := s.report p.digest (BitVec.ofNat 256 (mgArg d 16 32))
      (s.toHost (mgArg d 8 8) r).endCommand desc 0 r.length

/-- GET_CERTS. -/
def execGetCerts (desc : DWord) (s : State) : Out :=
  mgmt 0x0B desc [(64, 96)] s fun d =>
    let a := Config.identityCert
    let b := Config.attestationCert s.plat.akeyPub
    let all := bytesOf a.length 4 ++ a ++ bytesOf b.length 4 ++ b
    if mgArg d 16 4 < all.length then s.endCommand desc 1 0 else (s.toHost (mgArg d 8 8) all).endCommand desc 0 all.length

/-- A record of the error log (Table 161). -/
def logBytes (r : LogRecord) : List Byte :=
  bytesOf (r.location % 2 ^ 64 * 2 ^ 192 + r.time % 2 ^ 64 * 2 ^ 128 + r.structure_ * 2 ^ 120 + r.unit * 2 ^ 115 + r.core * 2 ^ 106 + r.kind * 2 ^ 104 +
    (r.part.getD 0) * 2 ^ 101 + (if r.part.isSome then 2 ^ 100 else 0)) 32

/-- The 3 KiB of READ_ERRORS. -/
def State.errorBytes (s : State) : List Byte :=
  let counters := (List.range 17).flatMap fun u => (List.range 3).flatMap (fun k => bytesOf (sget 0 s.health.counters (u * 3 + k)) 4) ++ zeros 4
  let log := s.health.log.flatMap logBytes
  counters ++ zeros 240 ++ bytesOf s.health.logged 8 ++ zeros 504 ++ log ++ zeros (2048 - log.length)

/-- READ_ERRORS. -/
def execReadErrors (desc : DWord) (s : State) : Out :=
  mgmt 0x0C desc [(64, 64), (128, 1)] s fun d =>
    let t := s.toHost (mgArg d 8 8) s.errorBytes
    let t1 := if bitOf (mgArg d 16 1) 0 then { t with health := { t.health with counters := [] } } else t
    t1.endCommand desc 0 0

/-- A lane record (Table 164). -/
def State.laneBytes (s : State) (n : Nat) : List Byte :=
  let l := s.lane n
  let excluded := s.iod.peers.any fun p => p.2.excluded.contains n
  let st := if !l.up then 1 else if excluded then 2 else 0
  bytesOf (l.tagFail % 2 ^ 32 * 2 ^ 96 + l.replays % 2 ^ 32 * 2 ^ 64 + l.downs % 2 ^ 16 * 2 ^ 48 + l.refused % 2 ^ 16 * 2 ^ 32 + st) 16

/-- READ_LINKS: the clear bit zeroes the counts. -/
def execReadLinks (desc : DWord) (s : State) : Out :=
  mgmt 0x11 desc [(64, 64), (128, 1)] s fun d =>
    let t := s.toHost (mgArg d 8 8) ((List.range 128).flatMap fun n => s.laneBytes n)
    let zero (l : Lane) : Lane := { l with tagFail := 0, replays := 0, downs := 0, refused := 0 }
    let t1 := if bitOf (mgArg d 16 1) 0 then (List.range 128).foldl (fun (t : State) n => t.modLane n zero) t else t
    t1.endCommand desc 0 0

/-- A health record (Table 179); margins in percent, rounded down. -/
def State.healthBytes (s : State) (u : Nat) : List Byte :=
  let r := (s.unitHistory u).headD {}
  let (e, lim) := s.eol u
  let fenced := if u < 4 then (s.health.fenced.filter fun c => decide (dieOfCore c.1 = u)).length else 0
  bytesOf (e * 2 ^ 112 + r.age / 100 % 256 * 2 ^ 104 + r.em / 100 % 256 * 2 ^ 96 + r.vmin / 100 % 256 * 2 ^ 88 + r.eye / 100 % 256 * 2 ^ 80 +
    lim * 2 ^ 72 + fenced * 2 ^ 64) 16

/-- READ_HEALTH. -/
def execReadHealth (desc : DWord) (s : State) : Out :=
  mgmt 0x12 desc [(64, 64)] s fun d => (s.toHost (mgArg d 8 8) ((List.range 17).flatMap fun u => s.healthBytes u)).endCommand desc 0 0

/-- WRITE_CONFIG: the record takes effect at the next device warm reset (R368). -/
def execWriteConfig (desc : DWord) (s : State) : Out :=
  mgmt 0x13 desc [(64, 64)] s fun d =>
    { s with plat := { s.plat with flash := BitVec.ofNat 512 (s.mem.readHost (mgArg d 8 8) 64) } }.endCommand desc 0 0

end Sys2Proof.Machine
end

