-- ==== Sys2Proof/Machine/Dispatch.lean ====
section
/-! DEFINITION. Machine/Dispatch.lean: one arm per constructor of Instr. -/

namespace Sys2Proof.Machine

def exec (i : Instr) (s : State) : Host.Outcome State Fault Refusal :=
  match i with
  | .iadd x => Sys2Proof.Machine.execIadd x s
  | .isub x => Sys2Proof.Machine.execIsub x s
  | .iadds x => Sys2Proof.Machine.execIadds x s
  | .imul x => Sys2Proof.Machine.execImul x s
  | .imulh x => Sys2Proof.Machine.execImulh x s
  | .imad x => Sys2Proof.Machine.execImad x s
  | .imadw x => Sys2Proof.Machine.execImadw x s
  | .imin x => Sys2Proof.Machine.execImin x s
  | .imax x => Sys2Proof.Machine.execImax x s
  | .iand x => Sys2Proof.Machine.execIand x s
  | .ior x => Sys2Proof.Machine.execIor x s
  | .ixor x => Sys2Proof.Machine.execIxor x s
  | .ishl x => Sys2Proof.Machine.execIshl x s
  | .ishr x => Sys2Proof.Machine.execIshr x s
  | .isra x => Sys2Proof.Machine.execIsra x s
  | .irot x => Sys2Proof.Machine.execIrot x s
  | .ibfe x => Sys2Proof.Machine.execIbfe x s
  | .ibfi x => Sys2Proof.Machine.execIbfi x s
  | .iprm x => Sys2Proof.Machine.execIprm x s
  | .icmp x => Sys2Proof.Machine.execIcmp x s
  | .isel x => Sys2Proof.Machine.execIsel x s
  | .iabs x => Sys2Proof.Machine.execIabs x s
  | .ineg x => Sys2Proof.Machine.execIneg x s
  | .inot x => Sys2Proof.Machine.execInot x s
  | .iclz x => Sys2Proof.Machine.execIclz x s
  | .ipop x => Sys2Proof.Machine.execIpop x s
  | .ibrev x => Sys2Proof.Machine.execIbrev x s
  | .mov x => Sys2Proof.Machine.execMov x s
  | .lid x => Sys2Proof.Machine.execLid x s
  | .imovi x => Sys2Proof.Machine.execImovi x s
  | .imovh x => Sys2Proof.Machine.execImovh x s
  | .movx x => Sys2Proof.Machine.execMovx x s
  | .fadd x => Sys2Proof.Machine.execFadd x s
  | .fsub x => Sys2Proof.Machine.execFsub x s
  | .fmul x => Sys2Proof.Machine.execFmul x s
  | .ffma x => Sys2Proof.Machine.execFfma x s
  | .fmin x => Sys2Proof.Machine.execFmin x s
  | .fmax x => Sys2Proof.Machine.execFmax x s
  | .fcmp x => Sys2Proof.Machine.execFcmp x s
  | .fdiv x => Sys2Proof.Machine.execFdiv x s
  | .frcp x => Sys2Proof.Machine.execFrcp x s
  | .frsq x => Sys2Proof.Machine.execFrsq x s
  | .fsqrt x => Sys2Proof.Machine.execFsqrt x s
  | .fexp2 x => Sys2Proof.Machine.execFexp2 x s
  | .flog2 x => Sys2Proof.Machine.execFlog2 x s
  | .fsin x => Sys2Proof.Machine.execFsin x s
  | .fcos x => Sys2Proof.Machine.execFcos x s
  | .frnd x => Sys2Proof.Machine.execFrnd x s
  | .fcls x => Sys2Proof.Machine.execFcls x s
  | .hadd2 x => Sys2Proof.Machine.execHadd2 x s
  | .hmul2 x => Sys2Proof.Machine.execHmul2 x s
  | .hfma2 x => Sys2Proof.Machine.execHfma2 x s
  | .dadd x => Sys2Proof.Machine.execDadd x s
  | .dmul x => Sys2Proof.Machine.execDmul x s
  | .dfma x => Sys2Proof.Machine.execDfma x s
  | .cvt x => Sys2Proof.Machine.execCvt x s
  | .pack x => Sys2Proof.Machine.execPack x s
  | .unpk x => Sys2Proof.Machine.execUnpk x s
  | .idp4 x => Sys2Proof.Machine.execIdp4 x s
  | .idp8 x => Sys2Proof.Machine.execIdp8 x s
  | .fdp4 x => Sys2Proof.Machine.execFdp4 x s
  | .fdp2 x => Sys2Proof.Machine.execFdp2 x s
  | .scl x => Sys2Proof.Machine.execScl x s
  | .pand x => Sys2Proof.Machine.execPand x s
  | .por x => Sys2Proof.Machine.execPor x s
  | .pxor x => Sys2Proof.Machine.execPxor x s
  | .pmov x => Sys2Proof.Machine.execPmov x s
  | .pnot x => Sys2Proof.Machine.execPnot x s
  | .xld x => Sys2Proof.Machine.execXld x s
  | .xshf x => Sys2Proof.Machine.execXshf x s
  | .xbal x => Sys2Proof.Machine.execXbal x s
  | .xany x => Sys2Proof.Machine.execXany x s
  | .xall x => Sys2Proof.Machine.execXall x s
  | .xred x => Sys2Proof.Machine.execXred x s
  | .xscan x => Sys2Proof.Machine.execXscan x s
  | .xscanEx x => Sys2Proof.Machine.execXscanEx x s
  | .ld x => Sys2Proof.Machine.execLd x s
  | .st x => Sys2Proof.Machine.execSt x s
  | .ldfe x => Sys2Proof.Machine.execLdfe x s
  | .stfe x => Sys2Proof.Machine.execStfe x s
  | .ldr x => Sys2Proof.Machine.execLdr x s
  | .atom x => Sys2Proof.Machine.execAtom x s
  | .cas x => Sys2Proof.Machine.execCas x s
  | .red x => Sys2Proof.Machine.execRed x s
  | .pref x => Sys2Proof.Machine.execPref x s
  | .invl x => Sys2Proof.Machine.execInvl x s
  | .popq x => Sys2Proof.Machine.execPopq x s
  | .pushq x => Sys2Proof.Machine.execPushq x s
  | .mloop x => Sys2Proof.Machine.execMloop x s
  | .mloopj x => Sys2Proof.Machine.execMloopj x s
  | .mzero x => Sys2Proof.Machine.execMzero x s
  | .mlda x => Sys2Proof.Machine.execMlda x s
  | .mdrn x => Sys2Proof.Machine.execMdrn x s
  | .mrsum x => Sys2Proof.Machine.execMrsum x s
  | .clh h => Sys2Proof.Machine.execClh h s
  | .rep r => Sys2Proof.Machine.execRep r s
  | .bra off => Sys2Proof.Machine.execBra off s
  | .brq x => Sys2Proof.Machine.execBrq x s
  | .brd x => Sys2Proof.Machine.execBrd x s
  | .call off => Sys2Proof.Machine.execCall off s
  | .nop x => Sys2Proof.Machine.execNop x s
  | .ret x => Sys2Proof.Machine.execRet x s
  | .exit x => Sys2Proof.Machine.execExit x s
  | .tret x => Sys2Proof.Machine.execTret x s
  | .gret x => Sys2Proof.Machine.execGret x s
  | .halt x => Sys2Proof.Machine.execHalt x s
  | .sleep x => Sys2Proof.Machine.execSleep x s
  | .brx x => Sys2Proof.Machine.execBrx x s
  | .gateRegister x => Sys2Proof.Machine.execGateRegister x s
  | .wpt x => Sys2Proof.Machine.execWpt x s
  | .trap x => Sys2Proof.Machine.execTrap x s
  | .gate x => Sys2Proof.Machine.execGate x s
  | .sadd x => Sys2Proof.Machine.execSadd x s
  | .ssub x => Sys2Proof.Machine.execSsub x s
  | .smul x => Sys2Proof.Machine.execSmul x s
  | .smulh x => Sys2Proof.Machine.execSmulh x s
  | .smad x => Sys2Proof.Machine.execSmad x s
  | .sdiv x => Sys2Proof.Machine.execSdiv x s
  | .srem x => Sys2Proof.Machine.execSrem x s
  | .sand x => Sys2Proof.Machine.execSand x s
  | .sor x => Sys2Proof.Machine.execSor x s
  | .sxor x => Sys2Proof.Machine.execSxor x s
  | .sshl x => Sys2Proof.Machine.execSshl x s
  | .sshr x => Sys2Proof.Machine.execSshr x s
  | .ssra x => Sys2Proof.Machine.execSsra x s
  | .srot x => Sys2Proof.Machine.execSrot x s
  | .smin x => Sys2Proof.Machine.execSmin x s
  | .smax x => Sys2Proof.Machine.execSmax x s
  | .sbfe x => Sys2Proof.Machine.execSbfe x s
  | .sbfi x => Sys2Proof.Machine.execSbfi x s
  | .scmp x => Sys2Proof.Machine.execScmp x s
  | .ssel x => Sys2Proof.Machine.execSsel x s
  | .qop x => Sys2Proof.Machine.execQop x s
  | .sadd64 x => Sys2Proof.Machine.execSadd64 x s
  | .ssub64 x => Sys2Proof.Machine.execSsub64 x s
  | .smul64 x => Sys2Proof.Machine.execSmul64 x s
  | .sshl64 x => Sys2Proof.Machine.execSshl64 x s
  | .snot x => Sys2Proof.Machine.execSnot x s
  | .sclz x => Sys2Proof.Machine.execSclz x s
  | .spop x => Sys2Proof.Machine.execSpop x s
  | .smov x => Sys2Proof.Machine.execSmov x s
  | .saddi x => Sys2Proof.Machine.execSaddi x s
  | .smovi x => Sys2Proof.Machine.execSmovi x s
  | .smovh x => Sys2Proof.Machine.execSmovh x s
  | .srds x => Sys2Proof.Machine.execSrds x s
  | .swrs x => Sys2Proof.Machine.execSwrs x s
  | .lbind x => Sys2Proof.Machine.execLbind x s
  | .lset x => Sys2Proof.Machine.execLset x s
  | .lqry x => Sys2Proof.Machine.execLqry x s
  | .xset x => Sys2Proof.Machine.execXset x s
  | .rgn regs => Sys2Proof.Machine.execRgn regs s
  | .chcfg x => Sys2Proof.Machine.execChcfg x s
  | .enq x => Sys2Proof.Machine.execEnq x s
  | .join x => Sys2Proof.Machine.execJoin x s
  | .joinImmediateMask x => Sys2Proof.Machine.execJoinImmediateMask x s
  | .drain x => Sys2Proof.Machine.execDrain x s
  | .fence x => Sys2Proof.Machine.execFence x s
  | .chstat x => Sys2Proof.Machine.execChstat x s
  | .bari x => Sys2Proof.Machine.execBari x s
  | .bara x => Sys2Proof.Machine.execBara x s
  | .barw x => Sys2Proof.Machine.execBarw x s
  | .barx x => Sys2Proof.Machine.execBarx x s
  | .kick x => Sys2Proof.Machine.execKick x s
  | .qcnt x => Sys2Proof.Machine.execQcnt x s
  | .mopf x => Sys2Proof.Machine.execMopf x s
  | .mwait x => Sys2Proof.Machine.execMwait x s
  | .mqry x => Sys2Proof.Machine.execMqry x s
  | .pipeArbitration core pipe => Sys2Proof.Machine.execPipeArbitration core pipe s
  | .regionLoadComplete u => Sys2Proof.Machine.execRegionLoadComplete u s
  | .regionReload u => Sys2Proof.Machine.execRegionReload u s
  | .gateQuiesceEnd u => Sys2Proof.Machine.execGateQuiesceEnd u s
  | .gretQuiesceEnd u => Sys2Proof.Machine.execGretQuiesceEnd u s
  | .sleepExpiry u => Sys2Proof.Machine.execSleepExpiry u s
  | .taskPop g => Sys2Proof.Machine.execTaskPop g s
  | .memDataReturn id => Sys2Proof.Machine.execMemDataReturn id s
  | .tableWalkComplete u => Sys2Proof.Machine.execTableWalkComplete u s
  | .accessPerformed id => Sys2Proof.Machine.execAccessPerformed id s
  | .ackReceived key ack => Sys2Proof.Machine.execAckReceived key ack s
  | .windowResume u => Sys2Proof.Machine.execWindowResume u s
  | .replySlotResume u => Sys2Proof.Machine.execReplySlotResume u s
  | .channelTableResume u => Sys2Proof.Machine.execChannelTableResume u s
  | .requestEntryResume u => Sys2Proof.Machine.execRequestEntryResume u s
  | .releaseIssue u => Sys2Proof.Machine.execReleaseIssue u s
  | .joinHeldRelease id => Sys2Proof.Machine.execJoinHeldRelease id s
  | .joinPendingResume u => Sys2Proof.Machine.execJoinPendingResume u s
  | .drainCompletion u => Sys2Proof.Machine.execDrainCompletion u s
  | .fenceCompletion u => Sys2Proof.Machine.execFenceCompletion u s
  | .tick => Sys2Proof.Machine.execTick s
  | .ldfeWake u => Sys2Proof.Machine.execLdfeWake u s
  | .baraArrival u => Sys2Proof.Machine.execBaraArrival u s
  | .barwWake u => Sys2Proof.Machine.execBarwWake u s
  | .popqWake u => Sys2Proof.Machine.execPopqWake u s
  | .pushqWake u => Sys2Proof.Machine.execPushqWake u s
  | .chcfgWake u => Sys2Proof.Machine.execChcfgWake u s
  | .lbindSlotWrite u => Sys2Proof.Machine.execLbindSlotWrite u s
  | .enqAtomicStep u => Sys2Proof.Machine.execEnqAtomicStep u s
  | .kickQueuePlace u => Sys2Proof.Machine.execKickQueuePlace u s
  | .copyRequestStart core id => Sys2Proof.Machine.execCopyRequestStart core id s
  | .copySegmentMove core id => Sys2Proof.Machine.execCopySegmentMove core id s
  | .copySegmentPerformed core id => Sys2Proof.Machine.execCopySegmentPerformed core id s
  | .matrixQueuePlace u => Sys2Proof.Machine.execMatrixQueuePlace u s
  | .matrixInstructionStart core ctx id => Sys2Proof.Machine.execMatrixInstructionStart core ctx id s
  | .tileStep core ctx => Sys2Proof.Machine.execTileStep core ctx s
  | .matrixInstructionCompletion core ctx id => Sys2Proof.Machine.execMatrixInstructionCompletion core ctx id s
  | .matrixTransferCompletion core ctx id => Sys2Proof.Machine.execMatrixTransferCompletion core ctx id s
  | .mopfComplete u => Sys2Proof.Machine.execMopfComplete u s
  | .mwaitComplete u => Sys2Proof.Machine.execMwaitComplete u s
  | .matrixStreamCommandStart part bundle sub => Sys2Proof.Machine.execMatrixStreamCommandStart part bundle sub s
  | .waitLimitTimeout w => Sys2Proof.Machine.execWaitLimitTimeout w s
  | .commandClaim core part queue => Sys2Proof.Machine.execCommandClaim core part queue s
  | .queueTailPoll core part queue => Sys2Proof.Machine.execQueueTailPoll core part queue s
  | .bundle part queue => Sys2Proof.Machine.execBundle part queue s
  | .pin part queue => Sys2Proof.Machine.execPin part queue s
  | .unpin part queue => Sys2Proof.Machine.execUnpin part queue s
  | .waitCmd part queue => Sys2Proof.Machine.execWaitCmd part queue s
  | .waitSemaphoreReread part queue => Sys2Proof.Machine.execWaitSemaphoreReread part queue s
  | .signal part queue => Sys2Proof.Machine.execSignal part queue s
  | .notify part queue => Sys2Proof.Machine.execNotify part queue s
  | .bundleRetire part bundle => Sys2Proof.Machine.execBundleRetire part bundle s
  | .teamDraw core part grid count => Sys2Proof.Machine.execTeamDraw core part grid count s
  | .scoreboardReread core => Sys2Proof.Machine.execScoreboardReread core s
  | .teamRelease part grid team => Sys2Proof.Machine.execTeamRelease part grid team s
  | .pilotHeartbeat core => Sys2Proof.Machine.execPilotHeartbeat core s
  | .preemptionStarvationTimeout core part grid => Sys2Proof.Machine.execPreemptionStarvationTimeout core part grid s
  | .preemptionTakesEffect stream => Sys2Proof.Machine.execPreemptionTakesEffect stream s
  | .saveImageComplete stream => Sys2Proof.Machine.execSaveImageComplete stream s
  | .teamRestore core stream => Sys2Proof.Machine.execTeamRestore core stream s
  | .teamRetirement stream => Sys2Proof.Machine.execTeamRetirement stream s
  | .doorbell vf value => Sys2Proof.Machine.execDoorbell vf value s
  | .registerWrite w => Sys2Proof.Machine.execRegisterWrite w s
  | .inboundMemoryWrite r => Sys2Proof.Machine.execInboundMemoryWrite r s
  | .writePartRelease id part => Sys2Proof.Machine.execWritePartRelease id part s
  | .writePartAcknowledge id part => Sys2Proof.Machine.execWritePartAcknowledge id part s
  | .inboundMemoryRead r => Sys2Proof.Machine.execInboundMemoryRead r s
  | .inboundAtomicop r => Sys2Proof.Machine.execInboundAtomicop r s
  | .outboundCompletion id status data poison => Sys2Proof.Machine.execOutboundCompletion id status data poison s
  | .completionTimeout id => Sys2Proof.Machine.execCompletionTimeout id s
  | .surpriseDown => Sys2Proof.Machine.execSurpriseDown s
  | .hotReset => Sys2Proof.Machine.execHotReset s
  | .powerGood => Sys2Proof.Machine.execPowerGood s
  | .createPartition desc => Sys2Proof.Machine.execCreatePartition desc s
  | .destroyPartition desc => Sys2Proof.Machine.execDestroyPartition desc s
  | .createQueue desc => Sys2Proof.Machine.execCreateQueue desc s
  | .preempt desc => Sys2Proof.Machine.execPreempt desc s
  | .installGate desc => Sys2Proof.Machine.execInstallGate desc s
  | .writeSegment desc => Sys2Proof.Machine.execWriteSegment desc s
  | .writePeer desc => Sys2Proof.Machine.execWritePeer desc s
  | .writeTrust desc => Sys2Proof.Machine.execWriteTrust desc s
  | .rekey desc => Sys2Proof.Machine.execRekey desc s
  | .getReport desc => Sys2Proof.Machine.execGetReport desc s
  | .getCerts desc => Sys2Proof.Machine.execGetCerts desc s
  | .readErrors desc => Sys2Proof.Machine.execReadErrors desc s
  | .resetQueue desc => Sys2Proof.Machine.execResetQueue desc s
  | .restartPilot desc => Sys2Proof.Machine.execRestartPilot desc s
  | .resetPartition desc => Sys2Proof.Machine.execResetPartition desc s
  | .warmReset desc => Sys2Proof.Machine.execWarmReset desc s
  | .readLinks desc => Sys2Proof.Machine.execReadLinks desc s
  | .readHealth desc => Sys2Proof.Machine.execReadHealth desc s
  | .writeConfig desc => Sys2Proof.Machine.execWriteConfig desc s
  | .domainCopy desc => Sys2Proof.Machine.execDomainCopy desc s
  | .pwrLimitWrite value => Sys2Proof.Machine.execPwrLimitWrite value s
  | .eolThresholdWrite value => Sys2Proof.Machine.execEolThresholdWrite value s
  | .powerControlSample mw hot => Sys2Proof.Machine.execPowerControlSample mw hot s
  | .healthSample readings => Sys2Proof.Machine.execHealthSample readings s
  | .planeLost lane => Sys2Proof.Machine.execPlaneLost lane s
  | .eccErrorDetected e => Sys2Proof.Machine.execEccErrorDetected e s
  | .frameTransmit dest vc => Sys2Proof.Machine.execFrameTransmit dest vc s
  | .frameReceived lane f => Sys2Proof.Machine.execFrameReceived lane f s
  | .nackReceived src p => Sys2Proof.Machine.execNackReceived src p s
  | .noRoomRetry key => Sys2Proof.Machine.execNoRoomRetry key s
  | .resyncTimeout key => Sys2Proof.Machine.execResyncTimeout key s
  | .resync src p => Sys2Proof.Machine.execResync src p s
  | .resyncReply src p => Sys2Proof.Machine.execResyncReply src p s
  | .resyncRetry key => Sys2Proof.Machine.execResyncRetry key s
  | .responseTimeout id => Sys2Proof.Machine.execResponseTimeout id s
  | .keyStateIdleDrop key => Sys2Proof.Machine.execKeyStateIdleDrop key s
  | .linkAckReceived lane seq => Sys2Proof.Machine.execLinkAckReceived lane seq s
  | .linkNackReceived lane => Sys2Proof.Machine.execLinkNackReceived lane s
  | .linkAckTimeout lane => Sys2Proof.Machine.execLinkAckTimeout lane s
  | .laneDownSignal lane => Sys2Proof.Machine.execLaneDownSignal lane s
  | .laneRetrain lane ok => Sys2Proof.Machine.execLaneRetrain lane ok s
  | .planeRejoin lane => Sys2Proof.Machine.execPlaneRejoin lane s
  | .planeUnreachableNotice lane dest => Sys2Proof.Machine.execPlaneUnreachableNotice lane dest s
  | .planeProbe lane dest ok => Sys2Proof.Machine.execPlaneProbe lane dest ok s
  | .livenessFrame peer => Sys2Proof.Machine.execLivenessFrame peer s
  | .peerLossTimeout peer => Sys2Proof.Machine.execPeerLossTimeout peer s
  | .kx1 peer m => Sys2Proof.Machine.execKx1 peer m s
  | .kx2 peer m => Sys2Proof.Machine.execKx2 peer m s
  | .kx3 peer m => Sys2Proof.Machine.execKx3 peer m s
  | .keyHandshakeTimeout peer => Sys2Proof.Machine.execKeyHandshakeTimeout peer s
  | .handshakeRetry peer => Sys2Proof.Machine.execHandshakeRetry peer s
  | .previousEpochExpiry peer => Sys2Proof.Machine.execPreviousEpochExpiry peer s
  | .engineStopRecord core engine => Sys2Proof.Machine.execEngineStopRecord core engine s
  | .ideKm fn key => Sys2Proof.Machine.execIdeKm fn key s
  | .hostLinkReturn => Sys2Proof.Machine.execHostLinkReturn s
  | .creditGrant lane vc flits => Sys2Proof.Machine.execCreditGrant lane vc flits s
  | .powerGoodRemoval => Sys2Proof.Machine.execPowerGoodRemoval s
  | .bootStepComplete ok => Sys2Proof.Machine.execBootStepComplete ok s

end Sys2Proof.Machine
end

