-- ==== Sys2Proof/Machine/Schedule.lean ====
section
/-! DEFINITION. Machine/Schedule.lean: the model's own order of trying moves when the agenda names none (log 1). -/

namespace Sys2Proof.Machine

/-- The event that ends a unit's wait (R47, R266). -/
def wakeEvent (u : UnitRef) : ParkWhy → Option Instr
  | .walk => some (.tableWalkComplete u)
  | .ldfe => some (.ldfeWake u)
  | .acquire => none
  | .release => some (.releaseIssue u)
  | .replySlot => some (.replySlotResume u)
  | .requestEntry => some (.requestEntryResume u)
  | .window => some (.windowResume u)
  | .channelTable => some (.channelTableResume u)
  | .popq => some (.popqWake u)
  | .pushq => some (.pushqWake u)
  | .joinPending => some (.joinPendingResume u)
  | .drain => some (.drainCompletion u)
  | .fence => some (.fenceCompletion u)
  | .bara => some (.baraArrival u)
  | .barw => some (.barwWake u)
  | .kick => some (.kickQueuePlace u)
  | .lbind => some (.lbindSlotWrite u)
  | .enq => some (.enqAtomicStep u)
  | .chcfg => some (.chcfgWake u)
  | .sleep => some (.sleepExpiry u)
  | .matrixPlace => some (.matrixQueuePlace u)
  | .mopf => some (.mopfComplete u)
  | .mwait => some (.mwaitComplete u)
  | .gate => some (.gateQuiesceEnd u)
  | .gret => some (.gretQuiesceEnd u)

/-- What a unit can do next. -/
def unitMoves (k : GKey) (u : MUnit) : List Move :=
  let r : UnitRef := ⟨k, u.id⟩
  match u.st with
  | .parked p => match wakeEvent r p.why with
    | some i => [.event i]
    | none => []
  | .loading => [.event (.regionLoadComplete r), .event (.regionReload r)]
  | _ => (if u.region.any fun g => g.loading then [.event (.regionLoadComplete r)] else []) ++ [.issue r]

/-- Events as moves. -/
def events (is : List Instr) : List Move := is.map fun i => .event i

/-- Accesses, their acknowledgements, and copies. -/
def State.memoryMoves (s : State) : List Move :=
  let chans : List ChanEntry := s.cores.flatMap fun c => c.2.chans.filter fun e => decide (e.unacked > 0)
  let flights : List Instr := s.flights.flatMap fun f => [.accessPerformed f.id, .memDataReturn f.id, .joinHeldRelease f.id]
  let acks : List Instr := chans.flatMap fun e => (List.range e.unacked).reverse.map fun n => .ackReceived e.key ((e.ackSeq + n + 1) % 65536)
  let own : List Instr := s.iod.acks.map fun a => .ackReceived a.1 a.2
  let writes : List Instr := s.port.inWrites.flatMap fun w =>
    (List.range w.parts.length).flatMap fun n => [.writePartRelease w.id n, .writePartAcknowledge w.id n]
  events (flights ++ acks ++ own ++ writes)

/-- The engines of a core. -/
def Core.engineMoves (c : Nat) (x : Core) : List Move :=
  let copies : List Instr := x.copies.flatMap fun r => [.copySegmentPerformed c r.id, .copySegmentMove c r.id, .copyRequestStart c r.id]
  let tiles (m : Nat) : List Instr := [.tileStep c m]
  let matrix : List Instr := x.mctx.flatMap fun m => (m.2.queue.flatMap fun e =>
    [.matrixInstructionCompletion c m.1 e.id, .matrixTransferCompletion c m.1 e.id, .matrixInstructionStart c m.1 e.id]) ++ tiles m.1
  events (copies ++ matrix)

/-- The engines of the cores. -/
def State.engineMoves (s : State) : List Move := s.cores.flatMap fun c => c.2.engineMoves c.1

/-- Polls and claims, and the commands that a queue may carry out. -/
def queueMoves (cores : List Nat) (p q : Nat) : List Move :=
  let polls : List Instr := cores.flatMap fun c => [.queueTailPoll c p q, .commandClaim c p q]
  let commands : List Instr := [.bundle p q, .pin p q, .unpin p q, .waitCmd p q, .signal p q, .notify p q, .waitSemaphoreReread p q]
  events (polls ++ commands)

/-- What a bundle and its grids may do. -/
def bundleMoves (p : Nat) (b : Bundle) : List Move :=
  let streams : List Instr := b.streams.map fun m => .matrixStreamCommandStart p b.id m.sub
  events (.bundleRetire p b.id :: streams)

/-- Releases and draws of a grid. -/
def gridMoves (cores : List Nat) (p : Nat) (g : Grid) : List Move :=
  let releases : List Instr := g.reserved.flatMap fun r => [.scoreboardReread r.pilot, .teamRelease p g.id r.unit]
  let draws : List Instr := cores.map fun c => .teamDraw c p g.id 1
  events (releases ++ draws)

/-- What a team may do. -/
def State.teamMoves (s : State) (t : Team) : List Move :=
  let ends : List Instr := [.preemptionTakesEffect t.stream, .saveImageComplete t.stream, .teamRetirement t.stream]
  let restores : List Instr := if t.st = .saved then (s.part t.part).coreList.map fun c => .teamRestore c t.stream else []
  events (ends ++ restores)

/-- Pilots, queues and teams. -/
def State.pilotMoves (s : State) : List Move :=
  let parts : List Move := s.parts.flatMap fun p =>
    let cores := onesFrom p.2.cores.toNat 0 256
    (p.2.queues.flatMap fun q => queueMoves (cores.take 1) p.1 q.1) ++ (p.2.bundles.flatMap fun b => bundleMoves p.1 b) ++
      p.2.grids.flatMap fun g => gridMoves cores p.1 g
  let teams : List Move := s.allTeams.flatMap fun t => s.teamMoves t
  let pops : List Instr := s.allGroups.filterMap fun g => if g.st = .idle then some (.taskPop g.key) else none
  parts ++ teams ++ events pops

/-- The groups in the order in which they are tried: pipe after pipe, lower numbers first in each round (R82), the round going on after the pipe that
issued last; on one pipe the group that issued last comes last. -/
def State.inTurn (s : State) : List Group :=
  sortBy (fun (g : Group) => (g.pipe + 3 - s.grp.pipe % 4) % 4) (s.groups ++ if s.grp.st = .free then [] else [s.whole])

/-- The units' own moves. -/
def State.issueMoves (s : State) : List Move := s.inTurn.flatMap fun g => g.units.flatMap fun u => unitMoves g.key u

/-- The units that stand at a header: each reads it before a pipe is granted, so that R128's order sees every unit that is eligible. -/
def State.headerMoves (s : State) : List Move :=
  s.allGroups.flatMap fun g => (g.units.filter fun u => u.st == .ready && u.run.left == 0).map fun u => .issue ⟨g.key, u.id⟩

/-- The pipes that hold a unit which may win. -/
def State.pipeMoves (s : State) : List Move :=
  (s.inTurn.filter fun g => g.units.any fun u => u.st == .ready && decide (u.run.left > 0)).map fun g => .event (.pipeArbitration g.core g.pipe)

/-- The moves to try, in order: what the hardware owes, then pilots, then the headers and the pipes, then units, in turn. -/
def State.candidates (s : State) : List Move :=
  s.memoryMoves ++ s.engineMoves ++ s.pilotMoves ++ s.headerMoves ++ s.pipeMoves ++ s.issueMoves

/-- The destination and virtual channel of the next frame that the IOD can send. -/
def State.dueFrame (s : State) : Option (Nat × Nat) :=
  (s.iod.out.map fun o => (o.dest, o.vc)).find? fun d => match execFrameTransmit d.1 d.2 s with
    | .next t => decide (t ≠ s)
    | _ => false

/-- Places an instruction's bytes where a unit fetches them: the pilot image for slot 16, else its domain's text, word by word. -/
def State.placeText (s : State) (pc : Nat) (x : Nat) : Nat → State
  | 0 => s
  | n + 1 =>
    let t := if s.grp.slot = 16 then { s with mem := { s.mem with pilot := writeBytes s.mem.pilot pc (x % 2 ^ 32) 4 } }
      else s.writeVirt s.team.part s.dom (pc % 2 ^ 57) 4 (x % 2 ^ 32)
    t.placeText (pc + 4) (x / 2 ^ 32) n

/-- The state in which the very next step issues the instruction whose bits are `x`: a clause header is reached, any other word is
the last of the run in issue. -/
def State.readyToIssue (s : State) (x : Nat) : State :=
  let t := s.placeText s.cur.pc.toNat x 5
  let isHeader := isHeaderWord (x % 2 ^ 32)
  { t with cur := { t.cur with st := if isHeader then .ready else .issuing,
                               run := { t.cur.run with left := if isHeader then 0 else 1, rep := none } },
           agenda := .issue t.unitRef :: t.agenda }

end Sys2Proof.Machine
end

