-- ==== Sys2Proof/Machine/Step.lean ====
section
/-! DEFINITION. Machine/Step.lean: one step: the move at the head of the agenda, or, with an empty agenda, the first move of the
model's scheduler that changes the machine (log 1). -/

namespace Sys2Proof.Machine

/-- Executes what a move comes to; `s` is the state when it comes to nothing. -/
def runPlan (s : State) : Plan → Host.Outcome State Fault Refusal
  | .run i t => exec i t
  | .rest t => .next t
  | .nothing => .next s

/-- Are two states the same? An event that is not enabled answers the very state it was given, which needs no comparison. -/
def State.same (u t : State) : Bool := @decide (u = t) (withPtrEqDecEq u t fun _ => inferInstance)

/-- Does a plan change nothing but the time? A pipe that stalls gives way to what it waits for. -/
def Plan.idle : Plan → Bool
  | .run i t => match exec i t with
    | .next u => u.same t || decide ({ u with cycle := t.cycle } = t)
    | _ => false
  | .rest _ => false
  | .nothing => true

/-- What happens when no unit, engine or pilot can move: the boot goes on, or time passes to the next tick. -/
def passTime (s : State) : Host.Outcome State Fault Refusal :=
  if 1 ≤ s.plat.bootStatus ∧ s.plat.bootStatus ≤ 5 then execBootStepComplete true s else exec .tick s

/-- The first of the moves that changes the machine. -/
def tryMoves (s : State) : List Move → Host.Outcome State Fault Refusal
  | [] => passTime s
  | m :: ms => if (s.plan m).idle then tryMoves s ms else runPlan s (s.plan m)

/-- One step: the agenda's next move, else an engine that a halt has stopped writes its record, else a
frame leaves, else the first move that changes the machine. -/
def step (s : State) : Host.Outcome State Fault Refusal :=
  match s.agenda with
  | m :: rest => runPlan { s with agenda := rest } (State.plan { s with agenda := rest } m)
  | [] => match s.dueStop with
    | some e => execEngineStopRecord e.1 e.2 s
    | none => match s.dueFrame with
      | some d => execFrameTransmit d.1 d.2 s
      | none => tryMoves s s.candidates

/-- The state with an instruction, numbered as spec/opcode_table.json numbers its bits, where the next step fetches it. -/
def State.withFetchWord (s : State) (nbits w : Nat) : State := s.readyToIssue (w % 2 ^ nbits)

end Sys2Proof.Machine
end

