-- ==== Sys2Proof/WellFormed.lean ====
section
/-! DEFINITION. WellFormed.lean: the instructions that words can spell and that break no rule of Table 66 (09_encodings R201). -/

namespace Sys2Proof

/-- An instruction, and not an event, whose fields break no rule of Table 66. -/
abbrev Instr.WellFormed (i : Instr) : Prop := i.isWord = true ∧ i.error = none

end Sys2Proof
end

