-- ==== Sys2Proof/Safety.lean ====
section
/-! DEFINITION. Safety.lean: the terms that claims are stated in: invariants, frames (what an instruction leaves unchanged) and the
arithmetic of 32-bit values on BitVec, written apart from the meanings. -/

namespace Sys2Proof.Machine

/-! ### Invariants -/

/-- Every memory is in its canonical form. -/
def State.MemWf (s : State) : Prop := s.mem.wf = true

/-! ### Frames -/

/-- `s` after an instruction of `size` bytes that completes in `cost` cycles and leaves the registers `r` to the group: the unit stands behind
the instruction, and nothing else differs. -/
def State.completes (s : State) (size cost : Nat) (r : Regs) : State :=
  { s with grp := { s.grp with r := r }, cur := (s.cur.advance size).settle (s.cycle + cost), cycle := s.cycle + cost }

/-- Only s-registers of a list differ beside the unit's position and the clock: all of memory, every other register and every other part of the
machine is as it was. -/
structure OnlyS (s t : State) (x : Args) (regs : List Nat) : Prop where
  rest : t = s.completes x.bytes 1 { s.grp.r with s := t.grp.r.s }
  other : ∀ n, n ∉ regs → t.sreg n = s.sreg n

/-- Only q-predicates of a list differ beside position and clock. -/
structure OnlyQ (s t : State) (x : Args) (qs : List Nat) : Prop where
  rest : t = s.completes x.bytes 1 { s.grp.r with q := t.grp.r.q }
  other : ∀ n, n ∉ qs → t.q n = s.q n

/-- Slot, register list, lanes and residence of a region; its dirty marks and the main-file values beneath it are left out. -/
def Region.identity (g : Region) : Nat × List Nat × Mask × Bool × Bool := (g.slot, g.regs, g.lanes, g.resident, g.loading)

/-- Only v-registers at a list of places of the main register file differ beside position, clock, the dirty marks of the unit's region and the record
of register writes. -/
structure OnlyV (s t : State) (x : Args) (cost : Nat) (keys : List Nat) : Prop where
  rest : t = { s.completes x.bytes cost { s.grp.r with v := t.grp.r.v, vw := t.grp.r.vw } with
    cur := { (s.cur.advance x.bytes).settle (s.cycle + cost) with region := t.cur.region } }
  region : t.cur.region.map Region.identity = s.cur.region.map Region.identity
  other : ∀ k, k ∉ keys → sget {} t.grp.r.v k = sget {} s.grp.r.v k

/-- Only lane predicate `n` of some lanes differs beside position and clock. -/
structure OnlyP (s t : State) (x : Args) (cost : Nat) (lanes : List Nat) (n : Nat) : Prop where
  rest : t = s.completes x.bytes cost { s.grp.r with p := t.grp.r.p }
  other : ∀ l m, l ∉ lanes ∨ m ≠ n → t.p l m = s.p l m

/-- Only some places of the main register file and lane predicate `n` of some lanes differ beside position, clock, the region's marks and the record of
register writes. -/
structure OnlyVP (s t : State) (x : Args) (cost : Nat) (keys lanes : List Nat) (n : Nat) : Prop where
  rest : t = { s.completes x.bytes cost { s.grp.r with v := t.grp.r.v, vw := t.grp.r.vw, p := t.grp.r.p } with
    cur := { (s.cur.advance x.bytes).settle (s.cycle + cost) with region := t.cur.region } }
  region : t.cur.region.map Region.identity = s.cur.region.map Region.identity
  otherV : ∀ k, k ∉ keys → sget {} t.grp.r.v k = sget {} s.grp.r.v k
  otherP : ∀ l m, l ∉ lanes ∨ m ≠ n → t.p l m = s.p l m

/-- The unit in issue leaves for `pc` in one cycle: its run has ended, a header is due there, bits [1:0] of its PC are zero (09 R177), it is no longer at
the entry of a trap handler (21 R386), and nothing but the unit and the clock differs between `s` and `t` (10 R209). -/
structure GoesTo (s t : State) (pc : DWord) : Prop where
  pc : t.cur.pc = pcOf pc
  header : t.cur.run.left = 0 ∧ t.cur.run.rep = none ∧ t.cur.st ≠ .issuing
  unit : t.cur = { s.cur with pc := t.cur.pc, run := t.cur.run, st := t.cur.st, since := t.cur.since, entered := false }
  rest : t = { s with cur := t.cur, cycle := s.cycle + 1 }

/-- The unit in issue parks on its instruction with the next issue stamp; nothing else differs (02 R47). -/
structure ParksOn (s t : State) (why : ParkWhy) (i : Instr) (aux : Nat) : Prop where
  parked : ∃ l y r v, t.cur.st = .parked { why := why, instr := i, serial := s.serial + 1, since := s.cycle, aux := aux, lanes := l, rec_ := y, src := r, via := v }
  rest : t = { s with cur := { s.cur with st := t.cur.st }, serial := s.serial + 1 }

/-- A unit parked for a reason may go on: `t` is the machine with that unit in issue, `p` what it is parked on. -/
structure WaitsOn (s : State) (u : UnitRef) (why : ParkWhy) (t : State) (p : Parked) : Prop where
  selected : s.select u = some t
  mayIssue : t.mayIssue = true
  parked : t.cur.st = .parked p
  why : p.why = why

/-- A parked unit goes on behind its instruction of `size` bytes: it is Ready again, or Held or Loading, and nothing else of `t` differs. -/
structure Resumes (t r : State) (size : Nat) : Prop where
  unit : r.cur = ({ t.cur with st := t.readyState, since := t.cycle } : MUnit).advance size
  rest : r = { t with cur := r.cur }

/-- Every byte of every memory reads as before. -/
def State.SameMem (s t : State) : Prop := t.mem = s.mem

/-- Every byte of the scratchpads but those of `n` bytes at `off` of a core's slice reads as before, with every poison bit, and so do the full bits and
every other memory; the record of the slices' writes goes on. -/
structure OnlySpad (s t : State) (core off n : Nat) : Prop where
  bytes : ∀ k, k < spadKey core off ∨ spadKey core off + n ≤ k → sget 0 t.mem.spad k = sget 0 s.mem.spad k
  rest : t.mem = { s.mem with spad := t.mem.spad, log := t.mem.log }

/-- The places of register `r` of some lanes in the main register file (06 R140). -/
def State.keysOf (s : State) (lanes : List Nat) (r : Nat) : List Nat := lanes.map fun l => s.vkey l r

/-! ### When instructions issue without a stop -/

/-- A lane instruction that names these registers finds them in the budget, none of them in flight. -/
structure State.Free (s : State) (regs : List Nat) : Prop where
  inBudget : ∀ r ∈ regs, r < s.budget
  idle : s.waitsV regs = false

/-- Registers that hold no poison in some lanes. -/
def State.Clean (s : State) (lanes regs : List Nat) : Prop := ∀ r ∈ regs, ∀ l ∈ lanes, (s.vreg l r).poison = false

/-- Where a cross-lane source takes its lane number from an s-register, that register holds no poison (11 R234). -/
def State.LaneNumberClean (s : State) (x : Args) : Prop := x.xmode = 3 → x.c.toNat < 128 → (s.sreg x.c.toNat).poison = false

/-- The cycles that a lane instruction takes: its passes at their interval, with the stalls of R227 (02 R25). -/
def State.laneCost (s : State) (interval : Nat) (used : List Nat) : Nat := passes s.cur.mask * (interval + 4 * s.outside used)

/-- s-registers that hold no poison. -/
def State.CleanS (s : State) (regs : List Nat) : Prop := ∀ r ∈ regs, (s.sreg r).poison = false

/-! ### Memory instructions -/

/-- Where the access of a lane lands when the instruction issues. -/
def State.lands (s : State) (o : MemOp) (x : Args) (l : Nat) : Except Code Target :=
  s.resolve (s.slot x.slot) x.slot o.w false (s.laneAddr (s.slot x.slot) x.a.toNat l)

/-- A MEM instruction that some lane executes issues without a stop: its slot is filled, its registers are in budget and not in flight, nothing it
consumes is poisoned, no check of 12 R267 and 22 R394 fails, and no earlier write of its group holds it (04 R78). -/
structure Issues (s : State) (o : MemOp) (x : Args) : Prop where
  slot : s.slot x.slot ≠ 0
  lanes : s.lanesFor x ≠ []
  free : s.Free (memRegs o x (s.slot x.slot))
  clean : s.memPoison o x (s.slot x.slot) (s.lanesFor x) = none
  checks : s.memChecks o x (s.slot x.slot) (s.lanesFor x) false = none
  order : ∀ l ∈ s.lanesFor x, ∀ p wr l1, s.lands o x l = .ok (.found p wr l1) → s.heldBySame p o.w (s.serial + 1) = false

/-- `f` is the access of lane `l` at place `p` that an instruction with stamp `serial` has issued, whose sources held `rd` when it issued (12 R264 to R277). -/
structure IsAccess (s : State) (rd : LaneRead) (o : MemOp) (x : Args) (serial l : Nat) (p : Place) (f : Flight) : Prop where
  origin : f.who = s.unitRef ∧ f.core = s.grp.core ∧ f.serial = serial ∧ f.lane = l
  action : f.kind = o.kind ∧ f.place = p ∧ f.width = o.w
  data : o.kind.writes = true → f.poison = blockBad rd l x.d.toNat o.block ∧
    f.data = (if o.sub = 6 then blockVal rd l (x.d.toNat + o.block / 2) (o.block - o.block / 2) else blockVal rd l x.d.toNat o.block) % 2 ^ (8 * o.w)
  compare : o.sub = 6 → f.cmp = blockVal rd l x.d.toNat (o.block / 2)
  returns : f.dst = (if o.nret = 0 then none else some (s.grp.budget - s.budget + x.d.toNat)) ∧ f.nregs = o.nret ∧ f.signExt = o.signExt ∧ f.flag = s.countedFlag x.flag
  fresh : f.performed = false ∧ f.returned = false ∧ f.done = 0

/-- `lo` and `hi` are the aligned 8-byte halves of a 16-byte access `f` to host address `a`, each performed by itself (04 R76). -/
structure Halves (a : Nat) (f lo hi : Flight) : Prop where
  places : lo.place = .host a ∧ hi.place = .host (a + 8) ∧ lo.width = 8 ∧ hi.width = 8
  data : lo.data = f.data % 2 ^ 64 ∧ hi.data = f.data / 2 ^ 64 ∧ lo.poison = f.poison ∧ hi.poison = f.poison
  dst : lo.dst = f.dst ∧ hi.dst = f.dst.map (· + 2) ∧ lo.nregs = min f.nregs 2 ∧ hi.nregs = f.nregs - 2
  same : ∀ h ∈ [lo, hi], h.who = f.who ∧ h.serial = f.serial ∧ h.lane = f.lane ∧ h.kind = f.kind ∧ h.chan = f.chan ∧ h.key = f.key ∧ h.seq = f.seq ∧
    h.request = f.request ∧ h.slot = f.slot ∧ h.flag = f.flag ∧ h.performed = false

/-- Lanes `l` and `m` write bytes of one run: their places lie in one aligned block of 256 bytes, and lanes of `ls` write every byte between them (14 R338). -/
def OneRun (w : Nat) (place : Nat → Place) (ls : List Nat) (l m : Nat) : Prop :=
  (place l).block 256 = (place m).block 256 ∧
  ∀ b, min (place l).coords.2.2 (place m).coords.2.2 ≤ b → b ≤ max (place l).coords.2.2 (place m).coords.2.2 →
    ∃ k ∈ ls, (place k).block 256 = (place l).block 256 ∧ (place k).coords.2.2 ≤ b ∧ b < (place k).coords.2.2 + w

/-- The channel key of the place of a lane. -/
def State.keyFor (s : State) (x : Args) (p : Place) : ChanKey := ⟨s.team.stream, x.chan, s.dieId p⟩

/-- Does the access of a lane travel on a channel: it leaves the core, and its instruction names one (12 R267)? -/
def State.travels (s : State) (o : MemOp) (p : Place) : Bool := o.channel && !p.onCore s.grp.core

/-- Does an access need a reply slot: an LDR, or an ATOM or a CAS to another device (12 R273, R277)? -/
def MemOp.slotted (o : MemOp) (p : Place) : Bool := o.sub == 4 || ((o.sub == 5 || o.sub == 6) && p.coords.1 == 3)

/-- Reply slots of a channel of the team in issue that requests can take now (04 R88). -/
def State.slotsFree (s : State) (chan : Nat) : Nat :=
  let n := sget 0 s.team.reserved chan
  min (n - s.inUse s.team.stream chan) ((List.range n).filter fun i => decide (sget 0 s.team.slotFrom (chan * 2 ^ 10 + i) ≤ s.cycle) &&
    !(s.flights.any fun f => f.who.group.stream = s.team.stream && f.chan = some chan && !f.returned && f.slot = some i)).length

/-- `new` are the accesses of lanes `ls`, at `place` each: one a lane, in lane order. Those on a channel go in packets with consecutive numbers in the order of
their lowest lanes: one packet for each run of bytes that is stored, one for each 128-byte block that an LDR reads, and one for every other
access; a packet carries no byte twice (04 R78, R84, R88; 14 R338). -/
structure Flies (s : State) (rd : LaneRead) (o : MemOp) (x : Args) (serial : Nat) (place : Nat → Place) (ls : List Nat) (new : List Flight) : Prop where
  each : List.Forall₂ (fun l f => IsAccess s rd o x serial l (place l) f ∧
    f.chan = (if s.travels o (place l) then some x.chan else none) ∧ f.key = (if s.travels o (place l) then some (s.keyFor x (place l)) else none) ∧
    f.slot.isSome = (s.travels o (place l) && o.slotted (place l))) ls new
  runs : o.kind = .store ∨ o.kind = .stfe → (∀ l ∈ ls, ∀ m ∈ ls, place l = place m → l = m) →
    ∀ f ∈ new, ∀ g ∈ new, f.key ≠ none → f.key = g.key → (f.seq = g.seq ↔ OneRun o.w place ls f.lane g.lane)
  requests : o.kind = .load → ∀ f ∈ new, ∀ g ∈ new, f.key ≠ none → f.key = g.key →
    ((f.seq = g.seq ↔ f.place.block 128 = g.place.block 128) ∧ (f.slot = g.slot ↔ f.place.block 128 = g.place.block 128))
  apart : ∀ f ∈ new, ∀ g ∈ new, f.key ≠ none → f.key = g.key → f.lane ≠ g.lane →
    o.kind ≠ .load → (o.kind = .store ∨ o.kind = .stfe → f.place = g.place) → f.seq ≠ g.seq
  numbers : ∀ (i : Nat) (f : Flight) (k : ChanKey) (e : ChanEntry), new[i]? = some f → f.key = some k → chanFind (s.core s.grp.core).chans k = some e →
    let before := (new.take i).filter fun g => decide (g.key = some k)
    (∃ g ∈ before, g.seq = f.seq) ∨ f.seq = some ((e.nextSeq + ((before.map fun g => g.seq).dedup).length) % 65536)

/-- Nothing holds the lanes `ls` of a MEM instruction back, whose accesses go to `place`: request entries, reply slots and places in the windows are there for
all of them, no release waits, no JOIN holds the channel, and nothing of their keys is queued. -/
structure State.RoomFor (s : State) (o : MemOp) (x : Args) (serial : Nat) (place : Nat → Place) (ls : List Nat) : Prop where
  entries : ls.length ≤ s.entriesFree s.grp.core
  release : o.releases = true → ∀ l ∈ ls, s.releaseMet s.unitRef x.scope serial (if s.travels o (place l) then some (s.keyFor x (place l)) else none) = true
  slots : (∃ l ∈ ls, s.travels o (place l) = true ∧ o.slotted (place l) = true) →
    ls.length ≤ s.slotsFree x.chan ∧ s.requestsHeld s.grp.core + ls.length ≤ 8192 ∧ s.allTeams.filter (fun T => decide (T.stream = s.team.stream)) = [s.team]
  window : ∀ l ∈ ls, s.travels o (place l) = true → s.grp.key.stream = s.team.stream ∧ s.lostDev (place l) = false ∧ s.joinHeld s.grp.key.stream x.chan serial = false ∧
    s.queuedKey (s.keyFor x (place l)) serial = false ∧
    ∃ e, chanFind (s.core s.grp.core).chans (s.keyFor x (place l)) = some e ∧ e.unacked + ls.length ≤ 64

/-- Between `s` and `t` the access `f` is in flight: as one access, or, to the host and of 16 bytes, as its two halves. -/
structure Adds (s t : State) (f : Flight) : Prop where
  one : (∀ a, f.place = .host a → f.width ≠ 16) → t.flights = s.flights ++ [f]
  two : ∀ a, f.place = .host a → f.width = 16 → ∃ lo hi, t.flights = s.flights ++ [lo, hi] ∧ Halves a f lo hi

/-! ### Copies and matrix instructions -/

/-- The request that a 64-byte record asks for (03 Table 23). -/
structure CopyRecord (y : BitVec 512) (r : CopyReq) : Prop where
  head : r.bytes = (y.extractLsb' 0 32).toNat ∧ r.fromSlot = (y.extractLsb' 32 5).toNat ∧ r.dstSlot = (y.extractLsb' 37 5).toNat ∧
    r.chan = (y.extractLsb' 42 4).toNat
  bar : r.bar = if y.getLsbD 46 then some (y.extractLsb' 64 32).toNat else none
  coords : r.e = ((List.range 5).map fun i => (y.extractLsb' (128 + 32 * i) 32).toNat) ∧
    r.d = (List.range 5).map fun i => (y.extractLsb' (288 + 32 * i) 32).toNat
  fresh : r.resolved = none ∧ r.moved = 0 ∧ r.open_ = []

/-- A record that KICK accepts from the team in issue (12 R294, 03 R74). -/
structure State.CopyLegal (s : State) (y : BitVec 512) : Prop where
  reserved : y.extractLsb' 448 64 = 0 ∧ y.extractLsb' 96 32 = 0 ∧ y.extractLsb' 47 17 = 0
  channel : s.chanAllowed (y.extractLsb' 42 4).toNat = true
  slots : sget 0 s.team.slots (y.extractLsb' 32 5).toNat ≠ 0 ∧ sget 0 s.team.slots (y.extractLsb' 37 5).toNat ≠ 0
  sizes : lyEsize (sget 0 s.team.slots (y.extractLsb' 32 5).toNat) = lyEsize (sget 0 s.team.slots (y.extractLsb' 37 5).toNat) ∧
    (y.extractLsb' 0 32).toNat % 2 ^ lyEsize (sget 0 s.team.slots (y.extractLsb' 32 5).toNat) = 0
  barrier : y.getLsbD 46 = true → ∃ p, s.barPlace (y.extractLsb' 64 32).toNat = .ok p

/-- The queue of the matrix context of the team in issue. -/
def State.matrixQueue (s : State) (t : State) : List MEntry := ((t.core s.grp.core).ctx (s.team.ctx.getD 0)).queue

/-- `e` is what a matrix instruction of the unit in issue queues: what 13 R303 captures at issue. -/
structure IsEntry (s : State) (x : Args) (kind : MKind) (amode : Nat) (f : Word) (d : List Word) (e : MEntry) : Prop where
  what : e.kind = kind ∧ e.amode = amode ∧ e.fmt = f ∧ e.desc = d
  owner : e.stream = s.team.stream ∧ e.part = s.team.part ∧ e.domain = s.dom ∧ e.core = s.grp.core ∧ e.bundle = none
  grant : e.tile0 = s.team.tile0 ∧ e.tiles = s.team.tiles
  slots : e.aslot = s.slot ((d.getD 1 0).toNat % 32) ∧
    e.bslot = s.slot (if kind.steps then (d.getD 1 0).toNat / 256 % 32 else (d.getD 1 0).toNat / 2 ^ 16 % 32)
  coords : e.ca = ((d.getD 2 0).toNat, (d.getD 3 0).toNat) ∧ e.cb = ((d.getD 4 0).toNat, (d.getD 5 0).toNat)
  issuer : ∃ p ∈ e.parts, p.who = s.unitRef ∧ p.mask = s.cur.mask ∧ p.areg = x.a.toNat ∧ p.flag = s.countedFlag x.mflag ∧ p.serial = s.serial + 1
  fresh : e.started = false ∧ e.step = 0

/-- An MTX instruction issues without a stop at its registers: some lane executes, `vregs` can be read, `named` are in budget, nothing is
poisoned, and no gate call runs (13 R303, 10 R231, 22 R384, 06 R144). -/
structure MatrixReady (s : State) (x : Args) (named vregs sregs : List Nat) : Prop where
  gate : s.inGate = false
  lanes : s.lanesFor x ≠ []
  budget : ∀ r ∈ named, r < s.budget
  idle : s.waitsV vregs = false
  clean : s.Clean (s.lanesFor x) vregs
  cleanS : s.CleanS sregs

/-- The byte of a key of the slices is defined for an operand read of an entry: no plain store of the issuer to it since its last MOPF, and, where the read
does not consume, no write since the issue and no store of the issuer before it (04 R101, 13 R321). -/
def State.Current (s : State) (e : MEntry) (consumes : Bool) (key : Nat) : Prop :=
  let n : SpadNote := sget {} s.mem.log.last key
  (consumes = false → n.stamp ≤ e.issued ∧ ∀ p ∈ e.parts, ∀ r ∈ p.stale, key < r.1 ∨ r.1 + r.2 ≤ key) ∧
  ∀ p ∈ e.parts, (n.plain = some p.who → n.stamp ≤ p.wat) ∧ s.storing p.who key = false

/-- Chunk `i` of an operand block: the bytes at its 16 offsets, or zero out of extent (13 R297, R299). -/
def State.chunkIn (s : State) (core : Nat) (block : Option (List (List Nat))) (i : Nat) : Nat :=
  match block with
  | none => 0
  | some rows => ((List.range 16).map fun n => (sget (0 : Byte) s.mem.spad (spadKey core ((rows.getD i []).getD n 0))).toNat * 2 ^ (8 * n)).sum

/-- The tile of output (i, m), counted from the first of its instruction (13 Table 101). -/
def outTile (fusion i m : Nat) : Nat :=
  match fusion with
  | 0 => 0
  | 1 => m / 16
  | 2 => 2 * (i / 16) + m / 16
  | _ => i / 16

/-- A slot coordinate after a tile step with an increment word (13 R300). -/
def advancedBy (y : BitVec 512) (inc : Word) (c : Nat × Nat) : Nat × Nat :=
  (if 0 < lyRank y then (((c.1 : Int) + (inc.extractLsb' 0 16).toInt) % (lyExt y 0 : Int)).toNat else c.1,
   if 1 < lyRank y then (((c.2 : Int) + (inc.extractLsb' 16 16).toInt) % (lyExt y 1 : Int)).toNat else c.2)

/-- Participant `p` of an entry holds row `i` of register A in its lane `l` (13 R298, R308). -/
def HoldsRow (e : MEntry) (i : Nat) (p : MPart) (l : Nat) : Prop :=
  e.parts = [p] ∧ l = i ∨ 2 ≤ e.parts.length ∧ e.parts.find? (fun q => decide (q.p = i / 16)) = some p ∧ l = i % 16

/-- x / 2^n, half away from zero (07 R154). -/
def halfAway (x : Int) (n : Nat) : Int :=
  if n = 0 then x else if x < 0 then -((|x| + 2 ^ (n - 1)) / 2 ^ n) else (|x| + 2 ^ (n - 1)) / 2 ^ n

/-! ### Commands -/

/-- `c` is the command of a queue that may start now: the first that has not started, of this kind, with its predecessor retired or its overlap bit
set, its pilot at work (05 R107, R109, Table 29). -/
structure State.MayStart (s : State) (part q kind : Nat) (c : Claimed) : Prop where
  first : (s.part part).claimed.find? (fun e => decide (e.queue = q ∧ !e.started)) = some c
  kind : ((c.slots.headD 0).extractLsb' 0 8).toNat = kind
  turn : (c.slots.headD 0).getLsbD 11 = true ∨
    ∀ e ∈ (s.part part).claimed, e.queue = q → e.started = true → (e.head + e.slots.length) % 2 ^ 32 ≠ c.head
  pilot : s.pilotWorks c.core part = true

/-- Between `s` and `t` the head of a queue has passed a command and the command has retired; no other queue differs (05 R107). -/
structure RetiredAt (s t : State) (part q : Nat) (c : Claimed) : Prop where
  head : field (t.queue part q) 255 224 = (c.head + c.slots.length) % 2 ^ 32
  retired : field (t.queue part q) 287 256 = (field (s.queue part q) 287 256 + 1) % 2 ^ 32
  gone : c ∉ (t.part part).claimed
  others : ∀ k, k ≠ q → t.queue part k = s.queue part k
  kept : ∀ e ∈ (s.part part).claimed, e.queue ≠ q → e ∈ (t.part part).claimed

/-- The addresses of the entries that a walk of some levels for an address meets, from a table (03 R56, Table 18). -/
def pathFrom (m : Memory) (va : Nat) : Nat → Nat → Nat → List Nat
  | 0, _, _ => []
  | n + 1, table, level =>
    let a := table + 8 * vaIndex va level
    let e := m.readDram a 8
    a :: if pteValid e && !pteLeaf e then pathFrom m va n (pteAddr e) (level + 1) else []

/-- The addresses of the page-table entries that the walk for an address of a domain meets. -/
def State.pathIn (s : State) (part domain va : Nat) : List Nat := pathFrom s.mem va 5 (domRoot ((s.part part).domain domain)) 0

/-- Between `s` and `t` every address of every domain is mapped as it was but for those whose walk meets the entry at `a` (03 R56, R57). -/
def SamePages (s t : State) (a : Nat) : Prop :=
  ∀ part domain va, (∀ b ∈ s.pathIn part domain va, b + 8 ≤ a ∨ a + 8 ≤ b) → t.walkIn part domain va = s.walkIn part domain va

/-- A queue fault (23 R416): the queue's status is 2, its head stands where it stood, and no claim of it is left that has not started. -/
structure QueueStops (s t : State) (part q : Nat) : Prop where
  status : field (t.queue part q) 319 288 = 2
  head : field (t.queue part q) 255 224 = field (s.queue part q) 255 224
  claims : ∀ e ∈ (t.part part).claimed, e.queue = q → e.started = true
  others : ∀ k, k ≠ q → t.queue part k = s.queue part k
  registers : t.grp = s.grp ∧ t.cur = s.cur ∧ t.team = s.team

/-! ### The host port and management -/

/-- A request of the host is taken up: the link is up, its function's stream has no IDE keys, and the function answers (14 R328, 23 R415). -/
structure State.Answers (s : State) (r : HostReq) : Prop where
  up : s.port.up = true
  ide : sget (0 : BitVec 256) s.port.ideKeys r.fn = 0
  answers : s.fnAnswers r.fn = true

/-- The bytes of a request lie in one 2 KiB block of the window of a VF that stands, on the device page of domain 0 at address `pa` (14 R331). -/
structure State.InWindow (s : State) (r : HostReq) (n : Nat) (write : Bool) (pa : Nat) : Prop where
  function : r.fn ≠ 8 ∧ r.bar0 = false
  block : 0 < n ∧ ((s.part r.fn).wbase + r.offset) % 2048 + n ≤ 2048
  inside : r.offset + n ≤ 2 ^ (s.part r.fn).k
  page : s.windowPa r.fn ((s.part r.fn).wbase + r.offset) write = some pa

/-- A management command that is pending, with the link up, the PF's stream not Insecure (23 R415) and its reserved argument bits 0; `d` is its descriptor (20 R370, R371). -/
structure State.Runs (s : State) (code : Nat) (desc : DWord) (named : List (Nat × Nat)) (d : Nat) : Prop where
  pending : s.plat.pending = some (code, desc)
  up : s.port.up = true
  secure : s.linkOpen 8 = true
  descriptor : d = s.mem.readHost desc.toNat 64
  reserved : ∀ b, 64 ≤ b → b < 448 → (∀ r ∈ named, b < r.1 ∨ r.1 + r.2 ≤ b) → d.testBit b = false

/-- The command has ended: its status bytes hold result and byte count, and the interface is free (20 R370, R371). -/
structure EndedWith (t : State) (desc : DWord) (result bytes : Nat) : Prop where
  status : t.mem.readHost (desc.toNat + 56) 8 = result + bytes * 2 ^ 32
  free : t.plat.busy = false ∧ t.plat.pending = none
  result : t.plat.result = result

/-! ### Arithmetic -/

/-- sat_s(x, n) of 07_number_formats as an `n`-bit value. -/
def satBits (n : Nat) (x : Int) : BitVec n := BitVec.ofInt n (max (-(2 ^ (n - 1))) (min (2 ^ (n - 1) - 1) x))

/-- Position and width of the bit field that a word names (10 R216). -/
def fieldAt (b : Word) : Nat := b.toNat % 32
def fieldLen (b : Word) : Nat := min (min (b.toNat / 256 % 64) 32) (32 - fieldAt b)
/-- The bit field of `a` that `b` names. -/
def fieldOut (a b : Word) : Word := (a >>> fieldAt b) &&& BitVec.ofNat 32 (2 ^ fieldLen b - 1)
/-- `c` with the bit field that `b` names replaced by the low bits of `a`. -/
def fieldIn (a b c : Word) : Word :=
  let m : Word := BitVec.ofNat 32 (2 ^ fieldLen b - 1) <<< fieldAt b
  (c &&& ~~~ m) ||| ((a <<< fieldAt b) &&& m)

/-- Number of one bits. -/
def onesIn (a : Word) : Nat := ((List.range 32).filter fun i => a.getLsbD i).length

/-- The 64-bit value of an s-register pair (07 R147). -/
def State.pairS (s : State) (n : Nat) : DWord := (s.sreg (n + 1)).val ++ (s.sreg n).val

/-- What the tables of operations list beside an entry: rounding mode, .SAT, .NEG, .ABS, and the operand modes A, B and L (11 R232, R233). -/
inductive Mark where
  | rm | sat | neg | abs | A | B | L
deriving DecidableEq, Repr

/-- Is the operand mode of an instruction one that its entry lists (11 R233)? -/
def ModeListed (x : Args) (ms : List Mark) : Prop :=
  (x.xmode = 1 → .A ∈ ms) ∧ (x.xmode = 2 → .B ∈ ms) ∧ (x.xmode = 3 → .L ∈ ms)

/-- Opcode, member code, short-word class and marks of an instruction whose fields are `Args` (09 Tables 60 to 63). -/
def rowOf (i : Instr) : Option (Nat × Option Nat × Cls × List Mark) :=
  i.form.map fun p =>
    (p.1.op, p.1.sub, p.1.cls,
      (if p.1.rm then [.rm] else []) ++ (if p.1.sat then [.sat] else []) ++ (if p.1.neg then [.neg] else []) ++ (if p.1.abs then [.abs] else []) ++
      (if p.1.xa then [.A] else []) ++ (if p.1.xb then [.B] else []) ++ (if p.1.xl then [.L] else []))

/-- The immediate of a class I word, sign-extended from 11 or 16 bits (09 R185). -/
def immWord (x : Args) : Word := if x.long then (x.b ++ x.c).signExtend 32 else (BitVec.ofNat 11 (x.b ++ x.c).toNat).signExtend 32

/-- `a` shifted left by a signed number, right with zero fill when it is negative. -/
def shiftBy (a : DWord) (n : Int) : DWord := if 0 ≤ n then a <<< n.toNat else a >>> (-n).toNat

/-- The 64-bit value of a v-register pair of a lane (07 R147). -/
def State.pairV (s : State) (l n : Nat) : DWord := (s.vreg l (n + 1)).val ++ (s.vreg l n).val

/-- The bytes of {b, a} that the nibbles of `c` select (11 R238). -/
def chosenByte (a b c : Word) (i : Nat) : Byte :=
  let n := (c.extractLsb' (4 * i) 4).toNat
  let y := (b ++ a).extractLsb' (8 * (n % 8)) 8
  if n < 8 then y else if y.msb then 0xFF else 0
def chosenBytes (a b c : Word) : Word := chosenByte a b c 3 ++ chosenByte a b c 2 ++ chosenByte a b c 1 ++ chosenByte a b c 0

/-- Sum of signed or unsigned products of the `w`-bit elements of two words (07 R161). -/
def elemsDot (w n : Nat) (ua ub : Bool) (a b : Word) : Int :=
  ((List.range n).map fun i =>
    let ea := a.extractLsb' (w * i) w
    let eb := b.extractLsb' (w * i) w
    (if ua then (ea.toNat : Int) else ea.toInt) * (if ub then (eb.toNat : Int) else eb.toInt)).sum

/-- The condition of Table 64 on 32-bit values. -/
def meets (code : Nat) (a b : Word) : Bool :=
  match code with
  | 0 => a == b
  | 1 => a != b
  | 2 => a.slt b
  | 3 => a.sle b
  | 4 => b.slt a
  | 5 => b.sle a
  | 6 => a.ult b
  | _ => b.ule a

/-- The operation of Table 64 on two predicates. -/
def joins (code : Nat) (a b : Bool) : Bool :=
  match code with
  | 0 => a && b
  | 1 => a || b
  | 2 => a != b
  | 3 => a && !b
  | 4 => a || !b
  | 5 => !a
  | _ => a

/-! ### Floating point, in exact arithmetic -/

/-- What an encoding stands for: a NaN, an infinity, or an exact value with its sign, which a zero has too (07 R149, R150). -/
inductive FpExt where
  | nan
  | inf (neg : Bool)
  | num (neg : Bool) (x : ℚ)
deriving DecidableEq

/-- Sign bit, exponent field and fraction of an encoding (07 R148). -/
def fpNeg (f : Fmt) (x : Nat) : Bool := x.testBit (f.ew + f.mw)
def fpExp (f : Fmt) (x : Nat) : Nat := x / 2 ^ f.mw % 2 ^ f.ew
def fpFrac (f : Fmt) (x : Nat) : Nat := x % 2 ^ f.mw

/-- fp_value of 07 R149. -/
def fpValue (f : Fmt) (x : Nat) : ℚ :=
  let v : ℚ := if fpExp f x = 0 then (fpFrac f x : ℚ) * 2 ^ (f.emin - f.mw)
    else (2 ^ f.mw + fpFrac f x : ℚ) * 2 ^ ((fpExp f x : ℤ) - f.bias - f.mw)
  if fpNeg f x then -v else v

/-- Reads an encoding: a full exponent field stands for infinities and NaNs, but that E4M3 has no infinity and one NaN of each sign (07 R149, Table 40). -/
def fpRead (f : Fmt) (x : Nat) : FpExt :=
  if fpExp f x = 2 ^ f.ew - 1 ∧ f.hasInf = true then (if fpFrac f x = 0 then .inf (fpNeg f x) else .nan)
  else if fpExp f x = 2 ^ f.ew - 1 ∧ fpFrac f x = 2 ^ f.mw - 1 then .nan
  else .num (fpNeg f x) (fpValue f x)

/-- a + b: Table 78 (11), and the sign of a zero sum by 07 R152. -/
def FpExt.sum (rm : Nat) : FpExt → FpExt → FpExt
  | .nan, _ => .nan
  | _, .nan => .nan
  | .inf a, .inf b => if a = b then .inf a else .nan
  | .inf a, .num _ _ => .inf a
  | .num _ _, .inf b => .inf b
  | .num n x, .num k y =>
    if x + y = 0 then .num (if x = 0 ∧ y = 0 ∧ n = k then n else decide (rm = 3)) 0 else .num (decide (x + y < 0)) (x + y)

def FpExt.minus : FpExt → FpExt
  | .nan => .nan
  | .inf a => .inf (!a)
  | .num n x => .num (!n) (-x)

/-- a × b: Table 78; a zero product takes the exclusive OR of the signs (11 R241). -/
def FpExt.prod : FpExt → FpExt → FpExt
  | .nan, _ => .nan
  | _, .nan => .nan
  | .inf a, .inf b => .inf (a != b)
  | .inf a, .num n x => if x = 0 then .nan else .inf (a != n)
  | .num n x, .inf b => if x = 0 then .nan else .inf (n != b)
  | .num n x, .num k y => .num (n != k) (x * y)

/-- a ÷ b: Table 78. -/
def FpExt.quot : FpExt → FpExt → FpExt
  | .nan, _ => .nan
  | _, .nan => .nan
  | .inf _, .inf _ => .nan
  | .inf a, .num n _ => .inf (a != n)
  | .num n _, .inf b => .num (n != b) 0
  | .num n x, .num k y => if y = 0 then (if x = 0 then .nan else .inf (n != k)) else .num (n != k) (x / y)

/-- Order and equality of values, -0 equal to +0; no NaN meets them (11 R243). -/
def FpExt.lt : FpExt → FpExt → Bool
  | .num _ x, .num _ y => decide (x < y)
  | .inf a, .inf b => a && !b
  | .inf a, .num _ _ => a
  | .num _ _, .inf b => !b
  | _, _ => false
def FpExt.same : FpExt → FpExt → Bool
  | .num _ x, .num _ y => decide (x = y)
  | .inf a, .inf b => a == b
  | _, _ => false

/-- The condition of Table 64 on two values (11 R243). -/
def fpMeets (code : Nat) (a b : FpExt) : Bool :=
  let un := decide (a = .nan) || decide (b = .nan)
  match code with
  | 0 => a.same b
  | 1 => !a.same b
  | 2 => a.lt b
  | 3 => a.lt b || a.same b
  | 4 => b.lt a
  | 5 => b.lt a || a.same b
  | 6 => un
  | _ => !un

/-- `r` encodes the magnitude `a`, not zero, with a sign, rounded once: round_fp of 07 R153 in the modes of R152. `q` is the spacing at `a`, `lo` and
`lo + 1` the multiples of it that enclose `a`, `y` the one that the mode takes. -/
def FpRounds (f : Fmt) (rm : Nat) (sat neg : Bool) (a : ℝ) (r : Nat) : Prop :=
  let q : ℝ := 2 ^ (max (Int.log 2 a) f.emin - f.mw)
  let lo : ℤ := ⌊a / q⌋
  ∃ y : ℤ,
    (a = lo * q → y = lo) ∧
    (a ≠ lo * q →
      (rm = 0 → (a - lo * q < q / 2 → y = lo) ∧ (q / 2 < a - lo * q → y = lo + 1) ∧
        (a - lo * q = q / 2 → y = if lo % 2 = 0 then lo else lo + 1)) ∧
      (rm = 1 → y = lo) ∧ (rm = 2 → y = if neg then lo else lo + 1) ∧ (rm = 3 → y = if neg then lo + 1 else lo)) ∧
    (y * q ≤ (fpValue f f.maxBits : ℝ) → r < 2 ^ f.width ∧ fpNeg f r = neg ∧ ((fpValue f r : ℚ) : ℝ) = (if neg then -1 else 1) * (y * q)) ∧
    ((fpValue f f.maxBits : ℝ) < y * q → r = (if neg then 2 ^ (f.width - 1) else 0) +
      (if sat then f.maxBits else if f.hasInf = false then f.nan
       else if rm = 1 ∨ (rm = 2 ∧ neg = true) ∨ (rm = 3 ∧ neg = false) then f.maxBits else f.infBits))

/-- `r` is round_fp of a result: the canonical NaN, an infinity, or with .SAT the largest finite value of its sign, a signed zero, or a rounded
value (07 R151, R153, 11 R241). -/
def FpEncodes (f : Fmt) (rm : Nat) (sat : Bool) (e : FpExt) (r : Nat) : Prop :=
  match e with
  | .nan => r = f.nan
  | .inf neg => r = (if neg then 2 ^ (f.width - 1) else 0) + (if sat then f.maxBits else if f.hasInf then f.infBits else f.nan)
  | .num neg x => (x = 0 → r = if neg then 2 ^ (f.width - 1) else 0) ∧ (x ≠ 0 → FpRounds f rm sat neg |(x : ℝ)| r)

/-- FMIN and FMAX of two encodings (11 R242): one of them unchanged, -0 counted below +0. -/
def FpLeast (a b r : Word) : Prop :=
  let A := fpRead fF32 a.toNat
  let B := fpRead fF32 b.toNat
  (A = .nan → B = .nan → r = 0x7FC00000) ∧ (A = .nan → B ≠ .nan → r = b) ∧ (A ≠ .nan → B = .nan → r = a) ∧
  (A ≠ .nan → B ≠ .nan → (A.lt B → r = a) ∧ (B.lt A → r = b) ∧ (A.same B → r = if a.msb then a else b))
def FpGreatest (a b r : Word) : Prop :=
  let A := fpRead fF32 a.toNat
  let B := fpRead fF32 b.toNat
  (A = .nan → B = .nan → r = 0x7FC00000) ∧ (A = .nan → B ≠ .nan → r = b) ∧ (A ≠ .nan → B = .nan → r = a) ∧
  (A ≠ .nan → B ≠ .nan → (A.lt B → r = b) ∧ (B.lt A → r = a) ∧ (A.same B → r = if a.msb then b else a))

/-- .ABS and then .NEG on a binary32 operand (11 Table 75). -/
def signed32 (neg abs : Bool) (w : Word) : Word :=
  let y := if abs then w &&& 0x7FFFFFFF else w
  if neg then y ^^^ 0x80000000 else y

/-- round_int of 07 R154. -/
def roundRat (rm : Nat) (x : ℚ) : ℤ :=
  match rm with
  | 0 => if x - ⌊x⌋ < 1 / 2 then ⌊x⌋ else if 1 / 2 < x - ⌊x⌋ then ⌊x⌋ + 1 else if ⌊x⌋ % 2 = 0 then ⌊x⌋ else ⌊x⌋ + 1
  | 1 => if x < 0 then ⌈x⌉ else ⌊x⌋
  | 2 => ⌈x⌉
  | _ => ⌊x⌋

/-- ulp(y) of 11 R244. -/
def ulpReal (y : ℝ) (u : ℝ) : Prop := u = 2 ^ (max (Int.log 2 |y|) (-126) - 23)

/-- `r` is finite and within `k` ulp of a real number (11 R244), or within a distance. -/
def WithinUlp (k : Nat) (y : ℝ) (r : Word) : Prop :=
  ∃ n x u, fpRead fF32 r.toNat = .num n x ∧ ulpReal y u ∧ |(x : ℝ) - y| ≤ k * u
def Within (e y : ℝ) (r : Word) : Prop := ∃ n x, fpRead fF32 r.toNat = .num n x ∧ |(x : ℝ) - y| ≤ e

/-- The reference for the members whose exact result is transcendental: a fixed-point approximation of the result over 2^420 (log 14). -/
def refExp2 (v : ℚ) : ℚ :=
  let x := ⌊v * 2 ^ 420⌋
  (expSeries ((x % 2 ^ 420).toNat * fxLn2 / fxOne) 110 0 fxOne : ℚ) * 2 ^ (x / 2 ^ 420 - 420)
def refLog2 (v : ℚ) : ℚ :=
  let k := Int.log 2 v
  let m := ⌊v * 2 ^ (420 - k)⌋.toNat
  ((k * fxOne + fxLn m * fxOne / fxLn2 : ℤ) : ℚ) / 2 ^ 420
def refTrig (isCos : Bool) (v : ℚ) : ℚ := (fxTrig isCos ⌊v * 2 ^ 420⌋ : ℚ) / 2 ^ 420

/-- Table 79 (11): what member `m` of the FUN family may return for an operand, with rounding mode `rm`. -/
def FunResult (m rm : Nat) (a r : Word) : Prop :=
  match m, fpRead fF32 a.toNat with
  | 8, _ => r = if a.extractLsb' 23 8 = 0xFF then (if a.extractLsb' 0 23 ≠ 0 then 0x100 else if a.msb then 0x001 else 0x080)
      else if a.extractLsb' 23 8 ≠ 0 then (if a.msb then 0x002 else 0x040)
      else if a.extractLsb' 0 23 ≠ 0 then (if a.msb then 0x004 else 0x020) else if a.msb then 0x008 else 0x010
  | _, .nan => r = 0x7FC00000
  | 0, .inf n => r = if n then 0x80000000 else 0
  | 0, .num n v => (v = 0 → r = if n then 0xFF800000 else 0x7F800000) ∧ (v ≠ 0 →
      (fpValue fF32 0x7F7FFFFF < |1 / v| → r = if n then 0xFF800000 else 0x7F800000) ∧
      (|1 / v| ≤ fpValue fF32 0x7F7FFFFF → WithinUlp 1 ((1 / v : ℚ) : ℝ) r ∧
        ∀ k : ℤ, |v| = 2 ^ k → fpRead fF32 r.toNat = .num n (1 / v)))
  | 1, .inf n => r = if n then 0x7FC00000 else 0
  | 1, .num n v => (v = 0 → r = if n then 0xFF800000 else 0x7F800000) ∧ (v < 0 → r = 0x7FC00000) ∧
      (0 < v → WithinUlp 1 (1 / Real.sqrt v) r ∧ ∀ k : ℤ, v = 2 ^ (2 * k) → fpRead fF32 r.toNat = .num false (2 ^ (-k)))
  | 2, .inf n => r = if n then 0x7FC00000 else 0x7F800000
  | 2, .num _ v => (v = 0 → r = a) ∧ (v < 0 → r = 0x7FC00000) ∧ (0 < v → FpRounds fF32 rm false false (Real.sqrt v) r.toNat)
  | 3, .inf n => r = if n then 0 else 0x7F800000
  | 3, .num _ v => (128 ≤ v → r = 0x7F800000) ∧ (v ≤ -150 → r = 0) ∧ (-150 < v → v < 128 → WithinUlp 2 (refExp2 v) r ∧
      ∀ k : ℤ, v = k → fpRead fF32 r.toNat = .num false (2 ^ k))
  | 4, .inf n => r = if n then 0x7FC00000 else 0x7F800000
  | 4, .num _ v => (v = 0 → r = 0xFF800000) ∧ (v < 0 → r = 0x7FC00000) ∧ (0 < v →
      (1 / 2 ≤ v → v ≤ 2 → Within (1 / 2 ^ 22) (refLog2 v) r) ∧ (v < 1 / 2 ∨ 2 < v → WithinUlp 2 (refLog2 v) r) ∧
      ∀ k : ℤ, v = 2 ^ k → fpRead fF32 r.toNat = .num (decide (k < 0)) k)
  | 7, .inf _ => r = a
  | 7, .num n v => fpRead fF32 r.toNat = .num n (roundRat rm v)
  | _, .inf _ => r = 0x7FC00000
  | _, .num n v =>
      (v = 0 → r = if m = 6 then 0x3F800000 else if n then 0x80000000 else 0) ∧
      (v ≠ 0 → Within (1 / 2 ^ 22) (refTrig (decide (m = 6)) v) r ∧ (r &&& 0x7FFFFFFF).toNat ≤ 0x3F800000)

/-- One step of a floating-point dot product (07 R162): what may be written for exact products and a binary32 addend. -/
def FdpResult (ps : List FpExt) (c r : Word) : Prop :=
  let ts := fpRead fF32 c.toNat :: ps
  let val : FpExt → ℚ := fun t => match t with
    | .num _ x => x
    | _ => 0
  let S : ℚ := (ts.map val).sum
  let M : ℚ := (ts.map fun t => |val t|).sum
  (FpExt.nan ∈ ts ∨ (FpExt.inf false ∈ ts ∧ FpExt.inf true ∈ ts) → r = 0x7FC00000) ∧
  (FpExt.nan ∉ ts → FpExt.inf false ∈ ts → FpExt.inf true ∉ ts → r = 0x7F800000) ∧
  (FpExt.nan ∉ ts → FpExt.inf true ∈ ts → FpExt.inf false ∉ ts → r = 0xFF800000) ∧
  (FpExt.nan ∉ ts → FpExt.inf true ∉ ts → FpExt.inf false ∉ ts →
    (2 ^ 128 - 2 ^ 103 ≤ |S| → r = if S < 0 then 0xFF800000 else 0x7F800000) ∧
    (|S| < 2 ^ 128 - 2 ^ 103 → ∃ n x, fpRead fF32 r.toNat = .num n x ∧
      (M = 0 → x = 0) ∧ (M ≠ 0 → |x - S| ≤ max (2 ^ (Int.log 2 M - 24)) (2 ^ (-150 : ℤ)))))

end Sys2Proof.Machine
end

