-- ==== Sys2Proof/Certificates/Slice0/Obligations.lean ====
section
/-! DEFINITION. Certificates/Slice0/Obligations.lean: the statements for the provers. Each says what it formalises of spec/. -/

open Sys2Proof Sys2Proof.Machine

/-! ### Reset, decoding and the step -/

/-- R367 and R368 (20), R429 (26), R220 (10): right after power-good the boot is at step 1, $clock reads 0, the host link and the fabric lanes are down, no
pilot runs, no partition, team, access, segment or peer exists, PWR_LIMIT and EOL_THRESHOLD hold their reset values, and flash holds a record with
the magic and the version of Table 180. That State.reset is this instant, that memory lists nothing there, and that no segment and no peer entry exists there
are the model's choices (logs 3, 8 and 9). -/
def Obligations.ResetState : Prop :=
  let s := State.reset
  s.MemWf ∧ s.mem = {} ∧ s.plat.bootStatus = 1 ∧ s.cycle = 0 ∧ s.port.up = false ∧ (∀ n, (s.lane n).up = false) ∧ (∀ c, (s.core c).pilot = false) ∧
  (∀ p, (s.part p).created = false) ∧ s.teams = [] ∧ s.flights = [] ∧ s.iod.segments = [] ∧ (∀ d, peValid (s.peer d).entry = false) ∧
  s.plat.pending = none ∧ s.plat.pwrLimit = 3200 ∧ s.health.threshold = 180 ∧ field s.plat.flash.toNat 31 0 = 0x43464744 ∧
  field s.plat.flash.toNat 63 32 = 1

/-- Every memory keeps its canonical form (log 8) in every step: addresses strictly rising, and nothing listed that an unlisted address reads as. -/
def Obligations.StepKeepsMemory : Prop :=
  ∀ s t : State, s.MemWf → step s = .next t → t.MemWf

/-- R177 to R195 (09), Tables 52 to 63: whatever follows it, what the encoder writes for a well-formed instruction decodes to that instruction, every
field at every value that it admits, and has the instruction's size. -/
def Obligations.DecodeEncode : Prop :=
  ∀ i : Instr, i.WellFormed → ∀ rest : List Byte, decode (encode i ++ rest) = .ok i ∧ (encode i).length = i.size

/-- R177 to R195 and R201 (09): a decoded instruction is well-formed, and its bytes are the only words that spell it. -/
def Obligations.EncodeDecode : Prop :=
  ∀ (bs : List Byte) (i : Instr), decode bs = .ok i → i.WellFormed ∧ bs.take i.size = encode i

/-- Words that the spec writes out: Tables 86 and 88 (11), the worked encodings of 09, 12, 13, 21 and 24. -/
def Obligations.DecodedWords : Prop :=
  decodeTableWord 64 0x0308048C7E003F03 = some (.iadd { long := true, q := 3, d := 3, a := 8, b := 4, c := 0x8C }) ∧
  decodeTableWord 32 0x6400000F = some (.pxor {}) ∧
  decodeTableWord 32 0x6E08088F = some (.xred { d := 2, a := 1, sub := 8 }) ∧
  decodeTableWord 32 0x700C098F = some (.xscanEx { d := 3, a := 1, sub := 8 }) ∧
  decodeTableWord 64 0x060165037FC97F30 = some (.atom { long := true, q := 0x30, d := 6, a := 1, b := 0x65, c := 3 }) ∧
  decodeTableWord 64 0x030202F27FC84340 = some (.st { long := true, gp := 3, q := 0x40, d := 3, a := 2, b := 2, c := 0xF2 }) ∧
  decodeTableWord 64 0x280000107FD83F04 = some (.mloop { long := true, q := 4, d := 0x28, c := 0x10 }) ∧
  decodeTableWord 64 0x000000187FD93F08 = some (.mdrn { long := true, q := 8, c := 0x18 }) ∧
  decodeTableWord 32 0xEE00000F = some (.mopf {}) ∧ decodeTableWord 32 0xEE00001F = some (.mwait {})

/-- R190 to R195, R205 (09, 10): when a step issues for a unit whose group may issue, it executes what the words at the unit's PC decode to: the header that it
has reached, the next instruction of its run, a repeat word whose next instruction may be repeated, or the repetition that is due with its
fields stepped. An event named by the agenda is executed as it stands (log 1). Around exec a step only takes the move from the agenda. -/
def Obligations.StepRunsDecoded : Prop :=
  (∀ (i : Instr) (s : State) (rest : List Move), s.agenda = .event i :: rest → i.isWord = false → step s = exec i { s with agenda := rest }) ∧
  ∀ (u : UnitRef) (s t : State) (rest : List Move), s.agenda = .issue u :: rest → State.select { s with agenda := rest } u = some t → t.mayIssue = true →
    let pc := t.cur.pc.toNat
    ∀ w, t.fetchWord pc = .ok (w, false) →
      (∀ i, t.cur.st = .ready ∨ t.cur.st = .issuing → t.cur.run.left = 0 → isHeaderWord w = true → decode (bytesOf w 4) = .ok i → step s = exec i t) ∧
      ∀ bs i, t.cur.st = .issuing → t.cur.run.left ≠ 0 → t.fetchWords pc (wordsOf w) = .ok (bs, none) → decode bs = .ok i →
        (∀ r, t.cur.run.rep = some r → step s = exec (i.stepped r.args r.k) t) ∧
        (t.cur.run.rep = none →
          ((∀ h, i ≠ .clh h) → (∀ r, i ≠ .rep r) → (i.endsRun = true → t.cur.run.left = 1) → step s = exec i t) ∧
          ∀ r v cs j, i = .rep r → t.fetchWord (pc + 4) = .ok (v, false) → t.fetchWords (pc + 4) (wordsOf v) = .ok (cs, none) → decode cs = .ok j →
            repAllowed r j = true → step s = exec i t)

/-! ### The uniform set -/

/-- R216 (10): each 32-bit uniform operation has the opcode, member and class of Table 70, and with a true guard and sources that hold no poison it
completes, s_d holds the result of the table, and nothing else differs but the unit's position and the clock. Each row: the instruction, its
opcode, its sources, its result; A, B and C are the words of sources a, b and the third source, which is c in the long format and d in the
short one. SMOV copies poison with its word (UniformMovesAndPairs). -/
def Obligations.UniformResults : Prop :=
  ∀ (x : Args) (s : State), s.guardU x.gp x.gn = true →
    let a := x.a.toNat
    let b := x.b.toNat
    let c := if x.long then x.c.toNat else x.d.toNat
    let A : Word := (s.sreg a).val
    let B : Word := (s.sreg b).val
    let C : Word := (s.sreg c).val
    ∀ p ∈ ([(.sadd x, (0x0A, none, .S, [.sat]), [a, b], if x.sat then satBits 32 (A.toInt + B.toInt) else A + B),
            (.ssub x, (0x0B, none, .S, [.sat]), [a, b], if x.sat then satBits 32 (A.toInt - B.toInt) else A - B),
            (.smul x, (0x0C, none, .S, []), [a, b], A * B),
            (.smulh x, (0x0D, none, .S, []), [a, b], BitVec.ofInt 32 (A.toInt * B.toInt / 2 ^ 32)),
            (.smad x, (0x0E, none, .S, []), [a, b, c], A * B + C),
            (.sdiv x, (0x0F, none, .S, []), [a, b], if B = 0 then 0xFFFFFFFF else A.sdiv B),
            (.srem x, (0x10, none, .S, []), [a, b], if B = 0 then A else A.srem B),
            (.sand x, (0x11, none, .S, []), [a, b], A &&& B),
            (.sor x, (0x12, none, .S, []), [a, b], A ||| B),
            (.sxor x, (0x13, none, .S, []), [a, b], A ^^^ B),
            (.sshl x, (0x14, none, .S, []), [a, b], A <<< B.toNat),
            (.sshr x, (0x15, none, .S, []), [a, b], A >>> B.toNat),
            (.ssra x, (0x16, none, .S, []), [a, b], A.sshiftRight B.toNat),
            (.srot x, (0x17, none, .S, []), [a, b], A.rotateLeft B.toNat),
            (.smin x, (0x18, none, .S, []), [a, b], if A.sle B then A else B),
            (.smax x, (0x19, none, .S, []), [a, b], if A.sle B then B else A),
            (.sbfe x, (0x1A, none, .S, []), [a, b], fieldOut A B),
            (.sbfi x, (0x1B, none, .S, []), [a, b, c], fieldIn A B C),
            (.snot x, (0x23, some 0, .F, []), [a], ~~~ A),
            (.sclz x, (0x23, some 1, .F, []), [a], A.clz),
            (.spop x, (0x23, some 2, .F, []), [a], BitVec.ofNat 32 (onesIn A)),
            (.smov x, (0x23, some 3, .F, []), [a], A)] : List (Instr × (Nat × Option Nat × Cls × List Mark) × List Nat × Word)),
      rowOf p.1 = some p.2.1 ∧
      (s.CleanS p.2.2.1 → ∃ t, exec p.1 s = .next t ∧ t.sreg x.d.toNat = ⟨p.2.2.2, false⟩ ∧ OnlyS s t x [x.d.toNat])

/-- R217 and R218 (10): SADDI, SMOVI and SMOVH, of class I with a zero a field where it is unused, form their results from the immediate; the
64-bit operations act on pairs of s-registers, whose first is even, as Table 71 says, and read their sources before the pair is written. SMOV
copies its source with its poison (R384). -/
def Obligations.UniformMovesAndPairs : Prop :=
  ∀ (x : Args) (s : State), s.guardU x.gp x.gn = true →
    let a := x.a.toNat
    let b := x.b.toNat
    let d := x.d.toNat
    let P : PWord := s.sreg a
    let D : PWord := s.sreg d
    let K : Word := immWord x
    let A : DWord := s.pairS a
    let B : DWord := s.pairS b
    (∀ p ∈ ([(.saddi x, (0x24, none, .I, [.sat]), [a], ⟨if x.sat then satBits 32 (P.val.toInt + K.toInt) else P.val + K, false⟩),
             (.smovi x, (0x25, none, .I, []), [], ⟨K, false⟩),
             (.smovh x, (0x26, none, .I, []), [d], ⟨(x.b ++ x.c) ++ D.val.truncate 16, false⟩),
             (.smov x, (0x23, some 3, .F, []), [], P)] : List (Instr × (Nat × Option Nat × Cls × List Mark) × List Nat × PWord)),
      rowOf p.1 = some p.2.1 ∧
      (s.CleanS p.2.2.1 → ∃ t, exec p.1 s = .next t ∧ t.sreg d = p.2.2.2 ∧ OnlyS s t x [d])) ∧
    (∀ i ∈ ([.smovi x, .smovh x] : List Instr), i.WellFormed → x.a = 0) ∧
    ∀ p ∈ ([(.sadd64 x, (0x1F, none, .S, [.sat]), [a, a + 1, b, b + 1], if x.sat then satBits 64 (A.toInt + B.toInt) else A + B),
            (.ssub64 x, (0x20, none, .S, [.sat]), [a, a + 1, b, b + 1], if x.sat then satBits 64 (A.toInt - B.toInt) else A - B),
            (.smul64 x, (0x21, none, .S, []), [a, a + 1, b, b + 1], A * B),
            (.sshl64 x, (0x22, none, .S, []), [a, a + 1, b], shiftBy A (s.sreg b).val.toInt)] :
              List (Instr × (Nat × Option Nat × Cls × List Mark) × List Nat × DWord)),
      rowOf p.1 = some p.2.1 ∧
      (p.1.WellFormed → d % 2 = 0 ∧ a % 2 = 0 ∧ (p.2.2.1.length = 4 → b % 2 = 0)) ∧
      (s.CleanS p.2.2.1 → ∃ t, exec p.1 s = .next t ∧ t.pairS d = p.2.2.2 ∧ (t.sreg d).poison = false ∧ (t.sreg (d + 1)).poison = false ∧
        OnlyS s t x [d, d + 1])

/-- R219 (10): SCMP and QOP write q_d, for a d that names q0 to q15, by Table 64; SSEL writes s_d. -/
def Obligations.UniformPredicates : Prop :=
  ∀ (x : Args) (s : State), s.guardU x.gp x.gn = true →
    let A : PWord := s.sreg x.a.toNat
    let B : PWord := s.sreg x.b.toNat
    let code := x.sub.toNat % 8
    rowOf (.scmp x) = some (0x1C, none, .C, []) ∧ rowOf (.qop x) = some (0x1E, none, .C, []) ∧ rowOf (.ssel x) = some (0x1D, none, .L, []) ∧
    (s.CleanS [x.a.toNat, x.b.toNat] → x.d.toNat < 16 →
      ∃ t, exec (.scmp x) s = .next t ∧ t.q x.d.toNat = meets code A.val B.val ∧ OnlyQ s t x [x.d.toNat]) ∧
    (x.d.toNat < 16 →
      ∃ t, exec (.qop x) s = .next t ∧ t.q x.d.toNat = joins code (s.q x.a.toNat) (s.q x.b.toNat) ∧ OnlyQ s t x [x.d.toNat]) ∧
    ((Instr.qop x).WellFormed → x.d.toNat < 16 ∧ x.a.toNat < 16 ∧ x.b.toNat < 16 ∧ (5 ≤ code → x.b = 0)) ∧
    ((Instr.ssel x).WellFormed → x.c.toNat < 16) ∧
    (s.CleanS [x.a.toNat, x.b.toNat] →
      ∃ t, exec (.ssel x) s = .next t ∧ t.sreg x.d.toNat = ⟨if s.q (x.c.toNat % 16) then A.val else B.val, false⟩ ∧ OnlyS s t x [x.d.toNat])

/-- R220, Table 72 (10), and R224: SRDS reads each system value, SWRS writes the three that are RW, except $trap.vec inside a gate call, and XSET
writes an index register. -/
def Obligations.SystemValues : Prop :=
  ∀ (x : Args) (s : State), s.guardU x.gp x.gn = true →
    let g := s.grp
    let T := s.team
    let vec : DWord := if s.inGate then 0 else g.sys.trapVec
    (∀ p ∈ ([(0, T.x), (1, T.y), (2, T.z), (3, T.gridX), (4, T.gridY), (5, T.gridZ), (6, T.rank), (7, g.key.gid), (8, g.role), (9, g.rank),
             (10, T.ngroups), (11, g.lanes), (12, g.core), (13, s.budget), (14, g.sys.domain), (15, s.plat.device), (16, T.part),
             (17, g.sys.gateStatus.toNat), (18, s.gateDepth), (19, g.sys.trapCause.toNat), (20, g.sys.trapPc.toNat),
             (21, g.sys.trapPc.toNat / 2 ^ 32), (22, vec.toNat), (23, vec.toNat / 2 ^ 32), (24, s.cycle), (25, s.cycle / 2 ^ 32),
             (26, s.cycle / 512), (27, g.r.fbits.toNat), (28, s.cur.id), (29, summary s.cur.mask), (30, T.clusterSize),
             (31, if g.task then 1 else 0)] : List (Nat × Nat)),
      x.imm = p.1 → ∃ t, exec (.srds x) s = .next t ∧ t.sreg x.d.toNat = ⟨BitVec.ofNat 32 p.2, false⟩ ∧ OnlyS s t x [x.d.toNat]) ∧
    (s.CleanS [x.a.toNat] →
      let A : Word := (s.sreg x.a.toNat).val
      (∀ p ∈ ([(17, { g.sys with gateStatus := A }),
               (22, if s.inGate then g.sys else { g.sys with trapVec := (g.sys.trapVec >>> 32).truncate 32 ++ A }),
               (23, if s.inGate then g.sys else { g.sys with trapVec := A ++ g.sys.trapVec.truncate 32 })] : List (Nat × SysRegs)),
        x.imm = p.1 → exec (.swrs x) s = .next { s.completes x.bytes 1 g.r with grp := { g with sys := p.2 } }) ∧
      ∃ t, exec (.xset x) s = .next t ∧ t.xr x.d.toNat = A.toNat ∧ (∀ n, n ≠ x.d.toNat → t.xr n = s.xr n) ∧
        t = s.completes x.bytes 1 { g.r with x := t.grp.r.x })

/-- R203 and R210 (10): under a false guard a uniform instruction has no effect: no destination is written, nothing parks, and the unit goes on one
cycle later; a BRD under a false guard continues behind it. BRA and CALL have no guard, and BRQ is in Transfers. -/
def Obligations.UniformGuardOff : Prop :=
  ∀ (x : Args) (s : State), s.guardU x.gp x.gn = false →
    (∀ i ∈ ([.sadd x, .ssub x, .smul x, .smulh x, .smad x, .sdiv x, .srem x, .sand x, .sor x, .sxor x, .sshl x, .sshr x, .ssra x, .srot x, .smin x,
             .smax x, .sbfe x, .sbfi x, .scmp x, .ssel x, .qop x, .sadd64 x, .ssub64 x, .smul64 x, .sshl64 x, .snot x, .sclz x, .spop x, .smov x,
             .saddi x, .smovi x, .smovh x, .srds x, .swrs x, .lbind x, .lset x, .lqry x, .xset x, .chcfg x, .enq x, .join x, .joinImmediateMask x,
             .drain x, .fence x, .chstat x, .bari x, .bara x, .barw x, .barx x, .kick x, .qcnt x, .mopf x, .mwait x, .mqry x, .nop x, .ret x,
             .brx x] : List Instr), exec i s = .next (s.completes x.bytes 1 s.grp.r)) ∧
    (∀ i ∈ ([.exit x, .tret x, .gret x, .halt x, .sleep x, .gateRegister x, .wpt x, .trap x, .gate x] : List Instr),
      ∃ t, exec i s = .next t ∧ GoesTo s t (s.cur.pc + BitVec.ofNat 64 x.bytes)) ∧
    ∀ y : BrArgs, s.guardU y.gp y.gn = false → ∃ t, exec (.brd y) s = .next t ∧ GoesTo s t (s.cur.pc + if y.long then 8 else 4)

/-! ### The lane set: operands -/

/-- R233, R234 and R41: the sources that an instruction delivers to lane `l`: directly named; indexed, the same register xk + o in every lane; and
cross-lane, the named lane's register, or zero from a lane that is not active. MOV delivers them with their poison. -/
def Obligations.OperandForms : Prop :=
  ∀ (x : Args) (s : State),
    (∀ l, x.xmode = 0 → s.srcA x l = s.vreg l x.a.toNat ∧ s.srcB x l = s.vreg l x.b.toNat) ∧
    (∀ l, x.xmode = 1 → s.srcA x l = s.vreg l (s.xr (x.c.toNat % 8) + x.a.toNat) ∧ s.srcB x l = s.vreg l x.b.toNat) ∧
    (∀ l, x.xmode = 2 → s.srcA x l = s.vreg l x.a.toNat ∧ s.srcB x l = s.vreg l (s.xr (x.c.toNat % 8) + x.b.toNat)) ∧
    (∀ l, x.xmode = 3 →
      let m := if x.c.toNat < 128 then s.sr x.c.toNat else x.c.toNat - 128
      s.srcA x l = (if m < s.grp.lanes ∧ s.cur.mask.getLsbD m then s.vreg m x.a.toNat else {}) ∧ s.srcB x l = s.vreg l x.b.toNat) ∧
    (x.xmode ≠ 2 → s.Free ([x.d.toNat] ++ s.regsA x) → s.LaneNumberClean x →
      ∃ t, exec (.mov x) s = .next t ∧ (∀ l ∈ s.lanesFor x, t.vreg l x.d.toNat = s.srcA x l) ∧
        OnlyV s t x (s.laneCost 1 ([x.d.toNat] ++ s.regsA x)) (s.keysOf (s.lanesFor x) x.d.toNat))

/-! ### The lane set: integers -/

/-- R235 (11), Table 76: each integer operation has the opcode, class, modifiers and operand modes of the table; its registers being in budget and
free of poison, it completes, every executing lane's v_d holds the result, and nothing else differs. Each row: the instruction, its table row,
the registers it names, its sources, its result in lane l. -/
def Obligations.LaneIntegers : Prop :=
  ∀ (x : Args) (s : State),
    let d := x.d.toNat
    let sa := s.srcA x
    let sb := s.srcB x
    let sc : Nat → PWord := fun l => s.vreg l (if x.long then x.c.toNat else x.d.toNat)
    let A : Nat → Word := fun l => (sa l).val
    let B : Nat → Word := fun l => (sb l).val
    let C : Nat → Word := fun l => (sc l).val
    let n1 := [d] ++ s.regsA x
    let n2 := [d] ++ s.regsA x ++ s.regsB x
    let n3 := [d, x.a.toNat, x.b.toNat, if x.long then x.c.toNat else x.d.toNat]
    let direct : List (Nat → PWord) := [fun l => s.vreg l x.a.toNat, fun l => s.vreg l x.b.toNat, sc]
    ∀ p ∈ ([(.iadd x, (0x00, none, .S, [.sat, .A, .B, .L]), n2, [sa, sb], fun l => if x.sat then satBits 32 ((A l).toInt + (B l).toInt) else A l + B l),
            (.isub x, (0x01, none, .S, [.sat, .A, .B, .L]), n2, [sa, sb], fun l => if x.sat then satBits 32 ((A l).toInt - (B l).toInt) else A l - B l),
            (.imul x, (0x03, none, .S, [.sat, .A, .B, .L]), n2, [sa, sb], fun l => if x.sat then satBits 32 ((A l).toInt * (B l).toInt) else A l * B l),
            (.imulh x, (0x04, none, .S, [.A, .B, .L]), n2, [sa, sb], fun l => BitVec.ofInt 32 ((A l).toInt * (B l).toInt / 2 ^ 32)),
            (.imad x, (0x05, none, .S, [.sat]), n3, direct,
              fun l => if x.sat then satBits 32 ((A l).toInt * (B l).toInt + (C l).toInt) else A l * B l + C l),
            (.imin x, (0x07, none, .S, [.A, .B, .L]), n2, [sa, sb], fun l => if (A l).sle (B l) then A l else B l),
            (.imax x, (0x08, none, .S, [.A, .B, .L]), n2, [sa, sb], fun l => if (A l).sle (B l) then B l else A l),
            (.iand x, (0x09, none, .S, [.A, .B, .L]), n2, [sa, sb], fun l => A l &&& B l),
            (.ior x, (0x0A, none, .S, [.A, .B, .L]), n2, [sa, sb], fun l => A l ||| B l),
            (.ixor x, (0x0B, none, .S, [.A, .B, .L]), n2, [sa, sb], fun l => A l ^^^ B l),
            (.ishl x, (0x0C, none, .S, [.A, .B, .L]), n2, [sa, sb], fun l => A l <<< (B l).toNat),
            (.ishr x, (0x0D, none, .S, [.A, .B, .L]), n2, [sa, sb], fun l => A l >>> (B l).toNat),
            (.isra x, (0x0E, none, .S, [.A, .B, .L]), n2, [sa, sb], fun l => (A l).sshiftRight (B l).toNat),
            (.irot x, (0x0F, none, .S, [.A, .B, .L]), n2, [sa, sb], fun l => (A l).rotateLeft (B l).toNat),
            (.ibfe x, (0x10, none, .S, [.A, .B, .L]), n2, [sa, sb], fun l => fieldOut (A l) (B l)),
            (.ibfi x, (0x11, none, .S, []), n3, direct, fun l => fieldIn (A l) (B l) (C l)),
            (.iabs x, (0x15, some 0, .F, [.sat, .A, .L]), n1, [sa], fun l => if x.sat then satBits 32 (A l).toInt.natAbs else (A l).abs),
            (.ineg x, (0x15, some 1, .F, [.sat, .A, .L]), n1, [sa], fun l => if x.sat then satBits 32 (-(A l).toInt) else -(A l)),
            (.inot x, (0x15, some 2, .F, [.A, .L]), n1, [sa], fun l => ~~~ (A l)),
            (.iclz x, (0x15, some 3, .F, [.A, .L]), n1, [sa], fun l => (A l).clz),
            (.ipop x, (0x15, some 4, .F, [.A, .L]), n1, [sa], fun l => BitVec.ofNat 32 (onesIn (A l))),
            (.ibrev x, (0x15, some 5, .F, [.A, .L]), n1, [sa], fun l => (A l).reverse),
            (.mov x, (0x15, some 6, .F, [.A, .L]), n1, [sa], fun l => A l),
            (.lid x, (0x15, some 7, .F, []), [d], [], fun l => BitVec.ofNat 32 l)] :
            List (Instr × (Nat × Option Nat × Cls × List Mark) × List Nat × List (Nat → PWord) × (Nat → Word))),
      rowOf p.1 = some p.2.1 ∧
      (ModeListed x p.2.1.2.2.2 → s.Free p.2.2.1 → s.LaneNumberClean x → (∀ f ∈ p.2.2.2.1, ∀ l ∈ s.lanesFor x, (f l).poison = false) →
        ∃ t, exec p.1 s = .next t ∧ (∀ l ∈ s.lanesFor x, t.vreg l d = ⟨p.2.2.2.2 l, false⟩) ∧
          OnlyV s t x (s.laneCost 1 p.2.2.1) (s.keysOf (s.lanesFor x) d))

/-- R236 to R238 (11): IADDS adds with the carry predicate k and leaves the carry in it; IMADW multiplies and adds into a pair; IPRM selects
bytes. Sources are read before destinations are written. -/
def Obligations.LaneWide : Prop :=
  ∀ (x : Args) (s : State),
    let ls := s.lanesFor x
    let d := x.d.toNat
    let a := x.a.toNat
    let b := x.b.toNat
    let c := if x.long then x.c.toNat else x.d.toNat
    let k := x.c.toNat % 64
    x.xmode = 0 →
    (k < 48 → s.Free [d, a, b] → s.Clean ls [a, b] →
      let sum (l : Nat) : BitVec 33 := (s.vreg l a).val.zeroExtend 33 + (s.vreg l b).val.zeroExtend 33 + if s.p l k then 1 else 0
      ∃ t, exec (.iadds x) s = .next t ∧ (∀ l ∈ ls, t.vreg l d = ⟨(sum l).truncate 32, false⟩ ∧ t.p l k = (sum l).msb) ∧
        OnlyVP s t x (s.laneCost 1 [d, a, b]) (s.keysOf ls d) ls k) ∧
    (s.Free [d, d + 1, a, b, c, c + 1] → s.Clean ls [a, b, c, c + 1] →
      ∃ t, exec (.imadw x) s = .next t ∧
        (∀ l ∈ ls, t.pairV l d = (s.vreg l a).val.zeroExtend 64 * (s.vreg l b).val.zeroExtend 64 + s.pairV l c) ∧
        OnlyV s t x (s.laneCost 1 [d, d + 1, a, b, c, c + 1]) (s.keysOf ls d ++ s.keysOf ls (d + 1))) ∧
    (s.Free [d, a, b, c] → s.Clean ls [a, b, c] →
      ∃ t, exec (.iprm x) s = .next t ∧ (∀ l ∈ ls, t.vreg l d = ⟨chosenBytes (s.vreg l a).val (s.vreg l b).val (s.vreg l c).val, false⟩) ∧
        OnlyV s t x (s.laneCost 1 [d, a, b, c]) (s.keysOf ls d))

/-- R239, R240 (11): ICMP sets lane predicate d by Table 64, ISEL selects by a predicate, IMOVI and IMOVH form constants, and MOVX writes the
register xk + o. -/
def Obligations.LaneSelects : Prop :=
  ∀ (x : Args) (s : State),
    let ls := s.lanesFor x
    let d := x.d.toNat
    let a := x.a.toNat
    let b := x.b.toNat
    let n := s.xr b + d
    (d < 48 → s.Free (s.regsA x ++ s.regsB x) → s.LaneNumberClean x → (∀ l ∈ ls, (s.srcA x l).poison = false ∧ (s.srcB x l).poison = false) →
      ∃ t, exec (.icmp x) s = .next t ∧ (∀ l ∈ ls, t.p l d = meets (x.sub.toNat % 8) (s.srcA x l).val (s.srcB x l).val) ∧
        OnlyP s t x (s.laneCost 1 (s.regsA x ++ s.regsB x)) ls d) ∧
    (s.Free [d, a, b] → s.Clean ls [a, b] →
      ∃ t, exec (.isel x) s = .next t ∧ (∀ l ∈ ls, t.vreg l d = ⟨if s.p l (x.c.toNat % 64) then (s.vreg l a).val else (s.vreg l b).val, false⟩) ∧
        OnlyV s t x (s.laneCost 1 [d, a, b]) (s.keysOf ls d)) ∧
    (s.Free [d] →
      ∃ t, exec (.imovi x) s = .next t ∧ (∀ l ∈ ls, t.vreg l d = ⟨immWord x, false⟩) ∧ OnlyV s t x (s.laneCost 1 [d]) (s.keysOf ls d)) ∧
    (s.Free [d] → s.Clean ls [d] →
      ∃ t, exec (.imovh x) s = .next t ∧ (∀ l ∈ ls, t.vreg l d = ⟨(x.b ++ x.c) ++ (s.vreg l d).val.truncate 16, false⟩) ∧
        OnlyV s t x (s.laneCost 1 [d]) (s.keysOf ls d)) ∧
    (s.Free [a, n] → s.Clean ls [a] →
      ∃ t, exec (.movx x) s = .next t ∧ (∀ l ∈ ls, t.vreg l n = ⟨(s.vreg l a).val, false⟩) ∧
        OnlyV s t x (s.laneCost 1 [a, n]) (s.keysOf ls n))

/-- R253 (11), Table 83: the lane predicates; .NEG inverts p_a in PAND, POR and PXOR. -/
def Obligations.LanePredicates : Prop :=
  ∀ (x : Args) (s : State),
    let pa : Nat → Bool := fun l => s.p l x.a.toNat
    let pb : Nat → Bool := fun l => s.p l x.b.toNat
    let na : Nat → Bool := fun l => if x.neg then !pa l else pa l
    ∀ p ∈ ([(.pand x, (0x30, none, .S, [.neg]), fun l => na l && pb l),
            (.por x, (0x31, none, .S, [.neg]), fun l => na l || pb l),
            (.pxor x, (0x32, none, .S, [.neg]), fun l => na l != pb l),
            (.pmov x, (0x33, some 0, .F, []), pa),
            (.pnot x, (0x33, some 1, .F, []), fun l => !pa l)] : List (Instr × (Nat × Option Nat × Cls × List Mark) × (Nat → Bool))),
      rowOf p.1 = some p.2.1 ∧
      (p.1.WellFormed → x.d.toNat < 48 ∧ x.a.toNat < 48 ∧ x.b.toNat < 48 ∧ x.xmode = 0) ∧
      (x.d.toNat < 48 →
        ∃ t, exec p.1 s = .next t ∧ (∀ l ∈ s.lanesFor x, t.p l x.d.toNat = p.2.2 l) ∧
          OnlyP s t x (s.laneCost 1 []) (s.lanesFor x) x.d.toNat)

/-! ### The lane set: floating point -/

/-- R241 to R243 (11): the binary32 operations complete with round_fp (R153) of the exact result of the values delivered: Table 78 decides NaNs and
infinities, R152 the sign of a zero sum, the exclusive OR of the signs that of a zero product or quotient; FFMA rounds once. FMIN and FMAX write one
operand's encoding, -0 below +0, and FCMP a predicate with the NaN results of R243; .ABS and .NEG act on source A. The reading of encodings is that of
R149 and Table 40. -/
def Obligations.LaneFloats : Prop :=
  [fE4M3, fE5M2, fF16, fBF16, fF32, fF64].map (fun f => (f.width, f.emin, f.maxBits, f.nan)) =
    [(8, -6, 0x7E, 0x7F), (8, -14, 0x7B, 0x7E), (16, -14, 0x7BFF, 0x7E00), (16, -126, 0x7F7F, 0x7FC0), (32, -126, 0x7F7FFFFF, 0x7FC00000),
     (64, -1022, 0x7FEFFFFFFFFFFFFF, 0x7FF8000000000000)] ∧
  [fE5M2, fF16, fBF16, fF32, fF64].map Fmt.infBits = [0x7C, 0x7C00, 0x7F80, 0x7F800000, 0x7FF0000000000000] ∧
  ∀ (x : Args) (s : State),
    let ls := s.lanesFor x
    let d := x.d.toNat
    let sa := s.srcA x
    let sb := s.srcB x
    let wa : Nat → Word := fun l => signed32 x.neg x.abs (sa l).val
    let wb : Nat → Word := fun l => (sb l).val
    let c := if x.long then x.c.toNat else x.d.toNat
    let A : Nat → FpExt := fun l => fpRead fF32 (wa l).toNat
    let B : Nat → FpExt := fun l => fpRead fF32 (wb l).toNat
    let C : Nat → FpExt := fun l => fpRead fF32 (s.vreg l c).val.toNat
    let n2 := [d] ++ s.regsA x ++ s.regsB x
    let n3 := [d, x.a.toNat, x.b.toNat, c]
    let direct : List (Nat → PWord) := [fun l => s.vreg l x.a.toNat, fun l => s.vreg l x.b.toNat, fun l => s.vreg l c]
    let marks : List Mark := [.rm, .sat, .neg, .abs]
    let rounds : FpExt → Word → Prop := fun e r => FpEncodes fF32 x.rm x.sat e r.toNat
    (∀ p ∈ ([(.fadd x, (0x19, none, .S, marks ++ [.A, .B, .L]), n2, [sa, sb], fun l => rounds ((A l).sum x.rm (B l))),
             (.fsub x, (0x1A, none, .S, marks ++ [.A, .B, .L]), n2, [sa, sb], fun l => rounds ((A l).sum x.rm (B l).minus)),
             (.fmul x, (0x1B, none, .S, marks ++ [.A, .B, .L]), n2, [sa, sb], fun l => rounds ((A l).prod (B l))),
             (.ffma x, (0x1C, none, .S, marks), n3, direct, fun l => rounds (((A l).prod (B l)).sum x.rm (C l))),
             (.fdiv x, (0x20, none, .S, marks ++ [.A, .B, .L]), n2, [sa, sb], fun l => rounds ((A l).quot (B l))),
             (.fmin x, (0x1D, none, .S, [.neg, .abs, .A, .B, .L]), n2, [sa, sb], fun l => FpLeast (wa l) (wb l)),
             (.fmax x, (0x1E, none, .S, [.neg, .abs, .A, .B, .L]), n2, [sa, sb], fun l => FpGreatest (wa l) (wb l))] :
              List (Instr × (Nat × Option Nat × Cls × List Mark) × List Nat × List (Nat → PWord) × (Nat → Word → Prop))),
      rowOf p.1 = some p.2.1 ∧
      (s.Free p.2.2.1 → s.LaneNumberClean x → (∀ f ∈ p.2.2.2.1, ∀ l ∈ ls, (f l).poison = false) →
        ∃ t, exec p.1 s = .next t ∧ (∀ l ∈ ls, (t.vreg l d).poison = false ∧ p.2.2.2.2 l (t.vreg l d).val) ∧
          OnlyV s t x (s.laneCost 1 p.2.2.1) (s.keysOf ls d))) ∧
    rowOf (.fcmp x) = some (0x1F, none, .C, [.neg, .abs, .A, .B, .L]) ∧
    (d < 48 → s.Free (s.regsA x ++ s.regsB x) → s.LaneNumberClean x → (∀ l ∈ ls, (sa l).poison = false ∧ (sb l).poison = false) →
      ∃ t, exec (.fcmp x) s = .next t ∧ (∀ l ∈ ls, t.p l d = fpMeets (x.sub.toNat % 8) (A l) (B l)) ∧
        OnlyP s t x (s.laneCost 1 (s.regsA x ++ s.regsB x)) ls d)

/-- R244 (11), Tables 79 and 80: the members of the FUN family complete, each returning for an operand one encoding that is fixed by the member, the
rounding mode and the operand, whatever the state: FSQRT correctly rounded, FRND the rounded integer with the sign of a, FCLS the one bit of its
class, and the bounded members an encoding (a free value, log 4) that meets the bound and the exact and special cases of Table 79. For FEXP2, FLOG2,
FSIN and FCOS the bound is held against the fixed-point approximation of log 14, whose constants and some values are given to 40 digits. -/
def Obligations.Functions : Prop :=
  (∃ g : Nat → Nat → Word → Word, (∀ m rm a, m < 9 → rm < 4 → FunResult m rm a (g m rm a)) ∧
   ∀ (x : Args) (s : State),
     let ls := s.lanesFor x
     let a : Nat → Word := fun l => signed32 x.neg x.abs (s.srcA x l).val
     ∀ p ∈ ([(.frcp x, (0x21, some 0, .F, [.neg, .abs, .A, .L])),
             (.frsq x, (0x21, some 1, .F, [.neg, .abs, .A, .L])),
             (.fsqrt x, (0x21, some 2, .F, [.rm, .neg, .abs, .A, .L])),
             (.fexp2 x, (0x21, some 3, .F, [.neg, .abs, .A, .L])),
             (.flog2 x, (0x21, some 4, .F, [.neg, .abs, .A, .L])),
             (.fsin x, (0x21, some 5, .F, [.neg, .abs, .A, .L])),
             (.fcos x, (0x21, some 6, .F, [.neg, .abs, .A, .L])),
             (.frnd x, (0x21, some 7, .F, [.rm, .neg, .abs, .A, .L])),
             (.fcls x, (0x21, some 8, .F, [.neg, .abs, .A, .L]))] :
             List (Instr × (Nat × Option Nat × Cls × List Mark))),
       rowOf p.1 = some p.2 ∧
       (x.xmode ≠ 2 → s.Free ([x.d.toNat] ++ s.regsA x) → s.LaneNumberClean x → (∀ l ∈ ls, (s.srcA x l).poison = false) →
         ∃ t, exec p.1 s = .next t ∧ (∀ l ∈ ls, t.vreg l x.d.toNat = ⟨g (p.2.2.1.getD 0) x.rm (a l), false⟩) ∧
           OnlyV s t x (s.laneCost 1 ([x.d.toNat] ++ s.regsA x)) (s.keysOf ls x.d.toNat))) ∧
  fxPi * 10 ^ 40 / 2 ^ 420 = 31415926535897932384626433832795028841971 ∧ fxLn2 * 10 ^ 40 / 2 ^ 420 = 6931471805599453094172321214581765680755 ∧
  ⌊refExp2 (1 / 2) * 10 ^ 40⌋ = 14142135623730950488016887242096980785696 ∧ ⌊refLog2 3 * 10 ^ 40⌋ = 15849625007211561814537389439478165087598 ∧
  ⌊refTrig false 1 * 10 ^ 40⌋ = 8414709848078965066525023216302989996225 ∧ ⌊refTrig true 1 * 10 ^ 40⌋ = 5403023058681397174009366074429766037323 ∧
  ⌊refTrig false (-100) * 10 ^ 40⌋ = 5063656411097587936565576104597854320650

/-- R245 (11), Table 81: the packed operations work on both 16-bit elements in binary16 or BF16, and the pair operations on binary64 in passes
of two cycles; each result is rounded once. -/
def Obligations.PackedAndPairs : Prop :=
  ∀ (x : Args) (s : State),
    let ls := s.lanesFor x
    let d := x.d.toNat
    let a := x.a.toNat
    let b := x.b.toNat
    let c := if x.long then x.c.toNat else x.d.toNat
    let sa := s.srcA x
    let sb := s.srcB x
    let f := if x.sub.getLsbD 0 then fBF16 else fF16
    let half : PWord → Nat → Nat := fun w i => w.val.toNat / 2 ^ (16 * i) % 2 ^ 16
    let A : Nat → Nat → FVal := fun l i => unpack f (signMods f x.neg x.abs (half (sa l) i))
    let B : Nat → Nat → FVal := fun l i => unpack f (half (sb l) i)
    let C : Nat → Nat → FVal := fun l i => unpack f (half (s.vreg l c) i)
    let both : (Nat → FVal) → Word := fun v => BitVec.ofNat 16 (roundFp f x.rm x.sat (v 1)) ++ BitVec.ofNat 16 (roundFp f x.rm x.sat (v 0))
    let n2 := [d] ++ s.regsA x ++ s.regsB x
    let n3 := [d, a, b, c]
    let direct : List (Nat → PWord) := [fun l => s.vreg l a, fun l => s.vreg l b, fun l => s.vreg l c]
    let DA : Nat → FVal := fun l => unpack fF64 (signMods fF64 x.neg x.abs (s.pairV l a).toNat)
    let DB : Nat → FVal := fun l => unpack fF64 (s.pairV l b).toNat
    let DC : Nat → FVal := fun l => unpack fF64 (s.pairV l c).toNat
    let marks : List Mark := [.rm, .sat, .neg, .abs]
    (∀ p ∈ ([(.hadd2 x, (0x22, none, .S, marks ++ [.A, .B, .L]), n2, [sa, sb], fun l => both fun i => (A l i).add x.rm (B l i)),
             (.hmul2 x, (0x23, none, .S, marks ++ [.A, .B, .L]), n2, [sa, sb], fun l => both fun i => (A l i).mul (B l i)),
             (.hfma2 x, (0x24, none, .S, marks), n3, direct, fun l => both fun i => ((A l i).mul (B l i)).add x.rm (C l i))] :
              List (Instr × (Nat × Option Nat × Cls × List Mark) × List Nat × List (Nat → PWord) × (Nat → Word))),
      rowOf p.1 = some p.2.1 ∧
      (s.Free p.2.2.1 → s.LaneNumberClean x → (∀ g ∈ p.2.2.2.1, ∀ l ∈ ls, (g l).poison = false) →
        ∃ t, exec p.1 s = .next t ∧ (∀ l ∈ ls, t.vreg l d = ⟨p.2.2.2.2 l, false⟩) ∧ OnlyV s t x (s.laneCost 1 p.2.2.1) (s.keysOf ls d))) ∧
    ∀ p ∈ ([(.dadd x, (0x25, none, .S, marks), [a, a + 1, b, b + 1], fun l => (DA l).add x.rm (DB l)),
            (.dmul x, (0x26, none, .S, marks), [a, a + 1, b, b + 1], fun l => (DA l).mul (DB l)),
            (.dfma x, (0x27, none, .S, marks), [a, a + 1, b, b + 1, c, c + 1], fun l => ((DA l).mul (DB l)).add x.rm (DC l))] :
              List (Instr × (Nat × Option Nat × Cls × List Mark) × List Nat × (Nat → FVal))),
      rowOf p.1 = some p.2.1 ∧
      (s.Free ([d, d + 1] ++ p.2.2.1) → s.Clean ls p.2.2.1 →
        ∃ t, exec p.1 s = .next t ∧ (∀ l ∈ ls, t.pairV l d = BitVec.ofNat 64 (roundFp fF64 x.rm x.sat (p.2.2.2 l))) ∧
          OnlyV s t x (s.laneCost 2 ([d, d + 1] ++ p.2.2.1)) (s.keysOf ls d ++ s.keysOf ls (d + 1)))

/-- R246 to R250 (11): CVT converts between the formats of Table 82, binary64 in pairs; PACK shifts two converted elements into v_d; UNPK writes
element B mod (32 ÷ w) of A; SCL multiplies by a binary32 scale and rounds once. -/
def Obligations.Conversions : Prop :=
  ∀ (x : Args) (s : State),
    let ls := s.lanesFor x
    let d := x.d.toNat
    let a := x.a.toNat
    let b := x.b.toNat
    let dc := b / 16
    let sc := b % 16
    let dst : List Nat := if dc = 11 then [d, d + 1] else [d]
    let src : List Nat := if sc = 11 then [a, a + 1] else s.regsA x
    let val : Nat → Nat := fun l =>
      convert (numFmt sc) (numFmt dc) x.rm (x.sub.getLsbD 0) (if sc = 11 then (s.pairV l a).toNat else (s.srcA x l).val.toNat)
    let e := if x.long then x.sub.toNat % 16 else 8
    let w := (numFmt e).width
    let conv : Nat → Nat := packElem e x.rm (x.long && x.sub.getLsbD 4)
    let n2 := [d] ++ s.regsA x ++ s.regsB x
    let int (n : Nat) (signed : Bool) (v : Nat) : Int := if signed then (BitVec.ofNat n v).toInt else ((v % 2 ^ n : Nat) : Int)
    let low (n : Nat) (signed : Bool) : Int := if signed then -(2 ^ (n - 1)) else 0
    let high (n : Nat) (signed : Bool) : Int := if signed then 2 ^ (n - 1) - 1 else 2 ^ n - 1
    let to8 (c : Nat) (rm : Nat) (ns : Bool) (v : Nat) : Nat := convert (.flt fF32) (numFmt c) rm ns v
    (List.range 12).map numFmt = [.int 4 true, .int 4 false, .int 8 true, .int 8 false, .int 16 true, .int 32 true, .flt fE4M3, .flt fE5M2, .flt fF16,
      .flt fBF16, .flt fF32, .flt fF64] ∧
    (∀ (n k : Nat) (u t ns : Bool) (rm v : Nat), 0 < n → 0 < k → (n, u) ≠ (k, t) →
      (ns = true → k ≤ 8 → convert (.int n u) (.int k t) rm ns v = (BitVec.ofInt k (int n u v)).toNat) ∧
      (ns = false ∨ 8 < k → convert (.int n u) (.int k t) rm ns v = (BitVec.ofInt k (max (low k t) (min (high k t) (int n u v)))).toNat)) ∧
    (∀ (f : Fmt) (k : Nat) (t ns : Bool) (rm : Nat), f ∈ [fE4M3, fE5M2, fF16, fBF16, fF32, fF64] → 0 < k → k ≤ 32 →
      convert (.flt f) (.int k t) rm ns f.nan = 0 ∧
      (f.hasInf = true → convert (.flt f) (.int k t) rm ns f.infBits = (BitVec.ofInt k (high k t)).toNat ∧
        convert (.flt f) (.int k t) rm ns (2 ^ (f.width - 1) + f.infBits) = (BitVec.ofInt k (low k t)).toNat)) ∧
    (∀ (f : Fmt) (rm v : Nat) (ns : Bool), v < 2 ^ f.width →
      convert (.flt f) (.flt f) rm ns v = if isNan f v then f.nan else v) ∧
    ([to8 6 0 false 0x43960000, to8 6 0 false 0x43E80000, to8 6 0 false 0x43EB0000, to8 6 0 true 0x43EB0000, to8 6 0 false 0xFF800000, to8 6 0 true 0xFF800000,
      to8 7 0 false 0x37000000, to8 7 2 false 0x37000000, to8 5 0 false 0x402CCCCD, to8 5 1 false 0x402CCCCD] =
      [0x79, 0x7E, 0x7E, 0x7F, 0xFE, 0xFF, 0x00, 0x01, 3, 2]) ∧
    [packElem 6 0 false 0x43960000, packElem 3 0 false 0xFFFFFFFB, packElem 3 0 true 0xFFFFFFFB, unpackElem 2 1 0xFB00, unpackElem 3 1 0xFB00,
      unpackElem 6 0 0x79, unpackElem 6 0 0xFF] = [0x79, 0, 0xFB, 0xFFFFFFFB, 0xFB, 0x43900000, 0x7FC00000] ∧
    rowOf (.cvt x) = some (0x28, none, .L, [.rm, .A, .L]) ∧ rowOf (.pack x) = some (0x29, none, .S, [.rm]) ∧
    rowOf (.unpk x) = some (0x2A, none, .S, [.A, .B, .L]) ∧ rowOf (.scl x) = some (0x2F, none, .S, [.rm, .sat, .A, .B, .L]) ∧
    (x.xmode ≠ 2 → (sc = 11 → x.xmode = 0) → s.Free (dst ++ src) → s.LaneNumberClean x →
      (∀ l ∈ ls, if sc = 11 then (s.vreg l a).poison = false ∧ (s.vreg l (a + 1)).poison = false else (s.srcA x l).poison = false) →
      ∃ t, exec (.cvt x) s = .next t ∧
        (∀ l ∈ ls, if dc = 11 then t.pairV l d = BitVec.ofNat 64 (val l) else t.vreg l d = ⟨BitVec.ofNat 32 (val l), false⟩) ∧
        OnlyV s t x (s.laneCost (if dc = 11 ∨ sc = 11 then 2 else 1) (dst ++ src)) (dst.flatMap fun r => s.keysOf ls r)) ∧
    (s.Free [d, a, b] → s.Clean ls ([a, b] ++ if w < 16 then [d] else []) →
      ∃ t, exec (.pack x) s = .next t ∧
        (∀ l ∈ ls, t.vreg l d = ⟨BitVec.ofNat 32 (s.v l d * 2 ^ (2 * w) + conv (s.v l b) * 2 ^ w + conv (s.v l a)), false⟩) ∧
        OnlyV s t x (s.laneCost 1 [d, a, b]) (s.keysOf ls d)) ∧
    ∀ p ∈ ([(.unpk x, fun l => unpackElem e (s.b x l % (32 / w)) (s.a x l)),
            (.scl x, fun l => roundFp fF32 x.rm x.sat
              ((if x.sub.getLsbD 0 then ofSigned (s.srcA x l).val.toInt 0 false else unpack fF32 (s.a x l)).mul (unpack fF32 (s.b x l))))] :
              List (Instr × (Nat → Nat))),
      s.Free n2 → s.LaneNumberClean x → (∀ l ∈ ls, (s.srcA x l).poison = false ∧ (s.srcB x l).poison = false) →
        ∃ t, exec p.1 s = .next t ∧ (∀ l ∈ ls, t.vreg l d = ⟨BitVec.ofNat 32 (p.2 l), false⟩) ∧ OnlyV s t x (s.laneCost 1 n2) (s.keysOf ls d)

/-- R251, R252, R161, R162: IDP4 and IDP8 add the exact dot product of the elements of A and B to C, wrapping or saturating; FDP4 and FDP2 take one
R162 step on the exact products of 4 or 2 elements: NaNs, infinities and overflow by its rules 1 to 3, else a value within the bound of Table 46 (a free
value, log 4), the same for identical operands of the same instruction. -/
def Obligations.DotProducts : Prop :=
  ∃ g : Nat → Word → Word → Word → Word,
  (∀ k A B C, k < 6 →
    let f8 : Nat → Fmt := fun n => if n = 0 then fE4M3 else fE5M2
    let prods : Fmt → Fmt → Nat → List FpExt := fun fa fb n => (List.range n).map fun i =>
      (fpRead fa (A.extractLsb' (fa.width * i) fa.width).toNat).prod (fpRead fb (B.extractLsb' (fb.width * i) fb.width).toNat)
    FdpResult (if k < 4 then prods (f8 (k % 2)) (f8 (k / 2)) 4 else if k = 4 then prods fF16 fF16 2 else prods fBF16 fBF16 2) C (g k A B C)) ∧
  ∀ (x : Args) (s : State),
    let ls := s.lanesFor x
    let d := x.d.toNat
    let c := if x.long then x.c.toNat else x.d.toNat
    let n3 := [d, x.a.toNat, x.b.toNat, c]
    let A : Nat → Word := fun l => (s.vreg l x.a.toNat).val
    let B : Nat → Word := fun l => (s.vreg l x.b.toNat).val
    let C : Nat → Word := fun l => (s.vreg l c).val
    let ua := x.sub.getLsbD 0
    let ub := x.sub.getLsbD 1
    let whole : Int → Nat → Word := fun p l => if x.sat then satBits 32 ((C l).toInt + p) else BitVec.ofInt 32 ((C l).toInt + p)
    ∀ p ∈ ([(.idp4 x, (0x2B, none, .S, [.sat]), fun l => whole (elemsDot 8 4 ua ub (A l) (B l)) l),
            (.idp8 x, (0x2C, none, .S, [.sat]), fun l => whole (elemsDot 4 8 ua ub (A l) (B l)) l),
            (.fdp4 x, (0x2D, none, .S, []), fun l => g (ua.toNat + 2 * ub.toNat) (A l) (B l) (C l)),
            (.fdp2 x, (0x2E, none, .S, []), fun l => g (4 + ua.toNat) (A l) (B l) (C l))] :
            List (Instr × (Nat × Option Nat × Cls × List Mark) × (Nat → Word))),
      rowOf p.1 = some p.2.1 ∧
      (x.xmode = 0 → s.Free n3 → s.Clean ls [x.a.toNat, x.b.toNat, c] →
        ∃ t, exec p.1 s = .next t ∧ (∀ l ∈ ls, t.vreg l d = ⟨p.2.2 l, false⟩) ∧ OnlyV s t x (s.laneCost 1 n3) (s.keysOf ls d))

/-! ### The lane set: across lanes -/

/-- R254 to R256 (11): XLD and XSHF deliver the register of a named lane, zero from a lane that is not active; XBAL gathers a ballot word; XANY and
XALL vote over the executing lanes. -/
def Obligations.CrossLaneReads : Prop :=
  ∀ (x : Args) (s : State),
    let ls := s.lanesFor x
    let d := x.d.toNat
    let a := x.a.toNat
    let b := x.b.toNat
    let read : Nat → PWord := fun m => if m < s.grp.lanes ∧ s.cur.mask.getLsbD m then s.vreg m a else {}
    let pat : Nat := s.sr b
    let K := pat % 2048
    let W := 2 ^ min (pat / 2 ^ 16 % 16) 10
    let from_ : Nat → Option Nat := fun l =>
      let i := l % W
      if pat / 2 ^ 12 % 4 = 0 then (if K ≤ i then some (l - i + (i - K)) else none)
      else if pat / 2 ^ 12 % 4 = 1 then (if i + K < W then some (l - i + (i + K)) else none)
      else if pat / 2 ^ 12 % 4 = 2 then (if i ^^^ K < W then some (l - i + (i ^^^ K)) else none)
      else some (l - i + (i + K) % W)
    (s.Free [d, a, b] → s.Clean ls [b] → (∀ l ∈ ls, (read (s.v l b)).poison = false) →
      ∃ t, exec (.xld x) s = .next t ∧ (∀ l ∈ ls, t.vreg l d = ⟨(read (s.v l b)).val, false⟩) ∧
        OnlyV s t x (s.laneCost 1 [d, a, b]) (s.keysOf ls d)) ∧
    (s.Free [d, a] → s.CleanS [b] → (∀ l ∈ ls, ∀ m, from_ l = some m → (read m).poison = false) →
      ∃ t, exec (.xshf x) s = .next t ∧
        (∀ l ∈ ls, t.vreg l d = ⟨(from_ l).elim 0 fun m => (read m).val, false⟩) ∧
        OnlyV s t x (s.laneCost 1 [d, a]) (s.keysOf ls d)) ∧
    (s.Free [d] →
      ∃ t, exec (.xbal x) s = .next t ∧
        (∀ l ∈ ls, (t.vreg l d).poison = false ∧ ∀ i, i < 32 → (t.vreg l d).val.getLsbD i = decide (32 * (l % 32) + i ∈ ls ∧ s.p (32 * (l % 32) + i) a = true)) ∧
        OnlyV s t x (s.laneCost 1 [d]) (s.keysOf ls d)) ∧
    (d < 48 →
      (∃ t, exec (.xany x) s = .next t ∧ (∀ l ∈ ls, t.p l d = decide (∃ m ∈ ls, s.p m a = true)) ∧ OnlyP s t x (s.laneCost 1 []) ls d) ∧
      ∃ t, exec (.xall x) s = .next t ∧ (∀ l ∈ ls, t.p l d = decide (∀ m ∈ ls, s.p m a = true)) ∧ OnlyP s t x (s.laneCost 1 []) ls d)

/-- R257 (11): XRED writes one result of all executing lanes to each of them, .FADD by the fixed tree and every other operation in lane order, and
XSCAN writes each lane the fold of the lanes up to it, or, exclusive, before it, from the identity of Table 85. -/
def Obligations.Reductions : Prop :=
  ∀ (x : Args) (s : State),
    let ls := s.lanesFor x
    let d := x.d.toNat
    let a := x.a.toNat
    let op := x.sub.toNat
    let tree (node : Nat → Nat → Option Nat) : Prop := (∀ l, node 0 l = if l ∈ ls then some (s.v l a) else none) ∧
      ∀ k i, node (k + 1) i = match node k (2 * i), node k (2 * i + 1) with
        | some u, some v => some (roundFp fF32 0 false ((unpack fF32 u).add 0 (unpack fF32 v)))
        | some u, none => some u
        | none, v => v
    (∀ u v : Word, (List.range 8).map (fun n => crossOp n u.toNat v.toNat) = [(u + v).toNat, (if u.sle v then u else v).toNat,
      (if u.sle v then v else u).toNat, min u.toNat v.toNat, max u.toNat v.toNat, (u &&& v).toNat, (u ||| v).toNat, (u ^^^ v).toNat]) ∧
    (∀ u v, crossOp 8 u v = roundFp fF32 0 false ((unpack fF32 u).add 0 (unpack fF32 v)) ∧ crossOp 9 u v = minF fF32 u v ∧ crossOp 10 u v = maxF fF32 u v) ∧
    (List.range 11).map crossIdentity = [0, 0x7FFFFFFF, 0x80000000, 0xFFFFFFFF, 0, 0xFFFFFFFF, 0, 0, 0x80000000, 0x7F800000, 0xFF800000] ∧
    (s.Free [d, a] → s.Clean ls [a] →
    (∃ t, exec (.xred x) s = .next t ∧ OnlyV s t x (s.laneCost 1 [d, a]) (s.keysOf ls d) ∧
      (op = 8 → ∀ node, tree node → ∀ l ∈ ls, (t.vreg l d).val = BitVec.ofNat 32 ((node 10 0).getD 0)) ∧
      (op ≠ 8 → ∀ m rest, ls = m :: rest → ∀ l ∈ ls, (t.vreg l d).val = BitVec.ofNat 32 (rest.foldl (fun e k => crossOp op e (s.v k a)) (s.v m a)))) ∧
    (∃ t, exec (.xscan x) s = .next t ∧ OnlyV s t x (s.laneCost 1 [d, a]) (s.keysOf ls d) ∧
      ∀ l ∈ ls, t.vreg l d = ⟨BitVec.ofNat 32 ((ls.filter (· ≤ l)).foldl (fun e k => crossOp op e (s.v k a)) (crossIdentity op)), false⟩) ∧
    ∃ t, exec (.xscanEx x) s = .next t ∧ OnlyV s t x (s.laneCost 1 [d, a]) (s.keysOf ls d) ∧
      ∀ l ∈ ls, t.vreg l d = ⟨BitVec.ofNat 32 ((ls.filter (· < l)).foldl (fun e k => crossOp op e (s.v k a)) (crossIdentity op)), false⟩)

/-! ### Control flow -/

/-- R205 to R209, R211 (10), R438 (21), R192 (09), R33 (02): a header starts a run and waits for its flags; that one reached with the pipe, in a trap handler, is
fetched whole at once is the model's reading of Table 14 (log 22). A PC has the 57 bits of Table 10. BRA, BRQ, CALL, RET and BRX set the PC as the pseudocode of R209 says and
end the run; CALL leaves the return address in s126 and s127; REP makes the next word due count times with its fields stepped. RET and BRX
raise BAD_TARGET where bits [63:57] or [1:0] of the target are not zero. -/
def Obligations.Transfers : Prop :=
  ∀ s : State,
    (∀ h : ClhArgs,
      let u : MUnit := { s.cur with pc := pcCut (s.cur.pc + 4), run := ⟨s.cur.pc, h.wait, h.seta, h.setb, h.len.toNat, none⟩ }
      (∀ n, n < 12 → h.wait.getLsbD n = true → sget 0 s.grp.r.fcnt n ≠ 0 → exec (.clh h) s = .next { s with cur := { u with st := .waiting } }) ∧
      ((∀ n, n < 12 → h.wait.getLsbD n = true → sget 0 s.grp.r.fcnt n = 0) →
        (s.cur.st ≠ .issuing → exec (.clh h) s = .next { s with cur := { u with st := s.readyState } }) ∧
        (s.cur.st = .issuing → s.runFault u.pc.toNat h.len.toNat = none → exec (.clh h) s = .next { s with cur := u }) ∧
        (s.cur.st = .issuing → ∀ c, s.runFault u.pc.toNat h.len.toNat = some c →
          exec (.clh h) s = .next (({ s with cur := { u with pc := s.cur.pc } } : State).raise c)))) ∧
    (∀ off, ∃ t, exec (.bra off) s = .next t ∧ GoesTo s t (s.cur.pc + 4 + 4 * off.signExtend 64)) ∧
    (∀ x : BrArgs, let next : DWord := s.cur.pc + if x.long then 8 else 4
      (s.guardU x.gp x.gn = true → s.q x.pn.toNat ≠ x.sense →
        ∃ t, exec (.brq x) s = .next t ∧ GoesTo s t (next + 4 * x.off.signExtend 64)) ∧
      ((s.guardU x.gp x.gn = false ∨ s.q x.pn.toNat = x.sense) →
        exec (.brq x) s = .next (s.completes (if x.long then 8 else 4) 1 s.grp.r))) ∧
    (∀ off, ∃ t u, exec (.call off) s = .next t ∧ GoesTo u t (s.cur.pc + 4 + 4 * off.signExtend 64) ∧
      u.pairS 126 = pcCut (s.cur.pc + 4) ∧ (∀ n, n ≠ 126 → n ≠ 127 → u.sreg n = s.sreg n) ∧
      u = { s with grp := { s.grp with r := { s.grp.r with s := u.grp.r.s } } }) ∧
    (∀ x : Args, s.guardU x.gp x.gn = true →
      exec (.nop x) s = .next (s.completes x.bytes 1 s.grp.r) ∧
      (s.CleanS [x.a.toNat, x.a.toNat + 1] →
        let T := s.pairS x.a.toNat
        ∀ i ∈ ([.ret x, .brx x] : List Instr),
          (T.toNat < 2 ^ 57 ∧ T.toNat % 4 = 0 → ∃ t, exec i s = .next t ∧ GoesTo s t T) ∧
          (¬ (T.toNat < 2 ^ 57 ∧ T.toNat % 4 = 0) → exec i s = .next (s.raise ⟨0x0012, T.toNat⟩)))) ∧
    (∀ r : RepArgs, exec (.rep r) s =
      .next { s with cur := { s.cur with pc := pcCut (s.cur.pc + 4), run := { s.cur.run with rep := some ⟨r, 0⟩ } } }) ∧
    (∀ a : DWord, (pcCut a).toNat = a.toNat % 2 ^ 57) ∧
    ∀ (u : MUnit) (size : Nat),
      (u.run.rep = none → u.advance size =
        { u with pc := pcCut (u.pc + BitVec.ofNat 64 size), run := { u.run with left := u.run.left - 1 }, entered := false }) ∧
      ∀ r : RepRun, u.run.rep = some r →
        u.advance size = if r.k < r.args.cnt.toNat then { u with run := { u.run with rep := some { r with k := r.k + 1 } }, entered := false }
          else { u with pc := pcCut (u.pc + BitVec.ofNat 64 size), run := { u.run with rep := none, left := u.run.left - 1 }, entered := false }

/-- R34, R35, R37 and R210: BRD splits the unit, the smaller side, or the taken one of two equal sides, becoming a new fragment under a token entry; WPT
arrives at the unit's top entry when the tokens agree and otherwise goes on; EXIT ends the unit. The first arrival waits; STACK_FULL and
UNIT_LIMIT stop a split that finds no room. A split, an arrival and an EXIT release the unit's region, and wait in the pipe while the release would
write back a register that an access in flight still writes (R265). -/
def Obligations.Divergence : Prop :=
  ∀ s : State, (∀ u ∈ s.grp.units, u.id ≠ s.cur.id) →
    let r := s.releaseRegion
    (s.waitsRelease = true →
      (∀ x : BrArgs, s.guardU x.gp x.gn = true → let taken := s.takenLanes x.pn.toNat x.sense
        taken ≠ 0 → s.cur.mask &&& ~~~ taken ≠ 0 → exec (.brd x) s = .next s.stall) ∧
      ∀ x : Args, s.guardU x.gp x.gn = true → exec (.wpt x) s = .next s.stall ∧ exec (.exit x) s = .next s.stall) ∧
    (s.waitsRelease = false →
    (∀ x : BrArgs, s.guardU x.gp x.gn = true →
      let next : DWord := s.cur.pc + if x.long then 8 else 4
      let target : DWord := next + 4 * x.off.signExtend 64
      let taken := s.takenLanes x.pn.toNat x.sense
      let fall := s.cur.mask &&& ~~~ taken
      (∀ l, l < 1024 → taken.getLsbD l = (s.cur.mask.getLsbD l && decide (l < s.grp.lanes) && xor (s.p l x.pn.toNat) x.sense)) ∧
      (taken = 0 → ∃ t, exec (.brd x) s = .next t ∧ GoesTo s t next) ∧
      (taken ≠ 0 → fall = 0 → ∃ t, exec (.brd x) s = .next t ∧ GoesTo s t target) ∧
      (taken ≠ 0 → fall ≠ 0 →
        (freeIndex s.grp.stack = none → exec (.brd x) s = .next (s.raise ⟨0x0030, 1⟩)) ∧
        ∀ e, freeIndex s.grp.stack = some e →
          (12 ≤ s.units.length → exec (.brd x) s = .next (s.raise ⟨0x0031, 0⟩)) ∧
          (s.units.length < 12 → s.freeRecord = none → exec (.brd x) s = .next (s.raise ⟨0x0031, 1⟩)) ∧
          ∀ n, s.units.length < 12 → s.freeRecord = some n →
            ∃ t f, exec (.brd x) s = .next t ∧
              t.entry e = ⟨.token, x.token, none, 0, 2, s.cur.id, s.cur.top⟩ ∧ (∀ k, k ≠ e → t.entry k = s.entry k) ∧
              (if (lanesOf taken).length ≤ (lanesOf fall).length then f.mask = taken ∧ f.pc = pcOf target ∧ t.cur.mask = fall ∧ t.cur.pc = pcOf next
               else f.mask = fall ∧ f.pc = pcOf next ∧ t.cur.mask = taken ∧ t.cur.pc = pcOf target) ∧
              f.id = n ∧ f.top = some e ∧ f.st = .ready ∧ t.cur.id = s.cur.id ∧ t.cur.top = some e ∧ t.grp.units = insUnit f s.grp.units ∧
              t = { r with cur := t.cur, grp := { r.grp with stack := t.grp.stack, units := t.grp.units }, cycle := s.cycle + 1 })) ∧
    (∀ x : Args, s.guardU x.gp x.gn = true →
      let next : DWord := pcCut (s.cur.pc + BitVec.ofNat 64 x.bytes)
      ((∀ i, s.cur.top = some i → ¬ ((s.entry i).kind = .token ∧ (s.entry i).token.toNat = x.imm)) → ∃ t, exec (.wpt x) s = .next t ∧ GoesTo r t next) ∧
      (∀ i, s.cur.top = some i → (s.entry i).kind = .token → (s.entry i).token.toNat = x.imm → 2 ≤ (s.entry i).outstanding →
        ∃ t, exec (.wpt x) s = .next t ∧ t.cur.st = .tokenWait ∧ t.cur.mask = s.cur.mask ∧
          t.entry i = { s.entry i with mask := (s.entry i).mask ||| s.cur.mask, outstanding := (s.entry i).outstanding - 1,
                                       rpc := some ((s.entry i).rpc.getD next) } ∧ (∀ k, k ≠ i → t.entry k = s.entry k) ∧
          t = { r with cur := t.cur, grp := { r.grp with stack := t.grp.stack }, cycle := s.cycle + 1 }) ∧
      (∀ i, s.cur.top = some i → (s.entry i).kind = .token → (s.entry i).token.toNat = x.imm → (s.entry i).outstanding = 1 →
        (s.entry i).mask ||| s.cur.mask ≠ 0 →
        ∃ t, exec (.wpt x) s = .next t ∧ (t.entry i).kind = .none ∧ (∀ k, k ≠ i → t.entry k = s.entry k) ∧
          t = { r with cur := t.cur, grp := { r.grp with stack := t.grp.stack, units := t.grp.units }, cycle := s.cycle + 1 } ∧
          ((s.entry i).owner = s.cur.id → t.cur.id = s.cur.id ∧ t.cur.mask = (s.entry i).mask ||| s.cur.mask ∧
            t.cur.pc = pcOf ((s.entry i).rpc.getD next) ∧ t.cur.top = (s.entry i).link ∧ t.cur.st = .ready ∧
            t.grp.units = s.grp.units.filter fun u => ¬ (u.st = .tokenWait ∧ u.top = some i)) ∧
          ((s.entry i).owner ≠ s.cur.id → t.cur.st = .ended ∧ ∃ w ∈ t.grp.units, w.id = (s.entry i).owner ∧
            w.mask = (s.entry i).mask ||| s.cur.mask ∧ w.pc = pcOf ((s.entry i).rpc.getD next) ∧ w.top = (s.entry i).link ∧ w.st = .ready)) ∧
      (s.inGate = false → ∀ i, s.cur.top = some i → (s.entry i).kind = .token → 2 ≤ (s.entry i).outstanding → s.grp.units ≠ [] →
        ∃ t, exec (.exit x) s = .next t ∧ t.cur.st = .ended ∧ t.entry i = { s.entry i with outstanding := (s.entry i).outstanding - 1 } ∧
          (∀ k, k ≠ i → t.entry k = s.entry k) ∧ t = { r with cur := t.cur, grp := { r.grp with stack := t.grp.stack }, cycle := s.cycle + 1 }) ∧
      (s.inGate = false → s.cur.top = none →
        ∃ t, exec (.exit x) s = .next t ∧ t.cur.st = .ended ∧ t.cur.id = s.cur.id ∧
          (s.grp.units ≠ [] → t = { r with cur := t.cur, cycle := s.cycle + 1 }) ∧
          (s.grp.units = [] → s.team.taskMode = false → t = { r with cur := t.cur, grp := { r.grp with st := .ended }, cycle := s.cycle + 1 })) ∧
      (s.inGate = true → exec (.exit x) s = .next (s.raise ⟨0x0034, s.gateDepth⟩))))

/-- R212, R213, R203 (10), R385 and R438 (21), Table 14: TRAP outside a gate call pushes a trap entry, saves cause and address and enters the handler,
still holding its pipe; TRET resumes where the entry says with its mask, and without one raises NO_TRAP_ENTRY; each takes one cycle and releases the
unit's region. A vector that is zero, is no word's address, or names a word that is no clause header is NO_HANDLER; one that cannot be fetched, or is
poisoned, faults at the vector; inside a call TRAP is CALLEE_TRAP. R215: HALT outside slot 16 is PRIVILEGED; in slot 16 it stops the pilot. -/
def Obligations.Traps : Prop :=
  ∀ (x : Args) (s : State), s.guardU x.gp x.gn = true →
    let next : DWord := pcCut (s.cur.pc + BitVec.ofNat 64 x.bytes)
    let vec := s.grp.sys.trapVec
    let r := s.releaseRegion
    let named := vec ≠ 0 ∧ vec.toNat < 2 ^ 57 ∧ vec.toNat % 4 = 0
    let atVec : State := { s with cur := { s.cur with pc := vec } }
    (s.inGate = true → exec (.trap x) s = .next (s.raiseAs ⟨0x0014, x.imm⟩ (0x10000 + x.imm))) ∧
    (s.inGate = false → s.waitsRelease = true → exec (.trap x) s = .next s.stall) ∧
    (s.inGate = false → s.waitsRelease = false →
      (freeIndex s.grp.stack = none → exec (.trap x) s = .next (s.raise ⟨0x0030, 2⟩)) ∧
      ∀ i, freeIndex s.grp.stack = some i →
        (¬ named → exec (.trap x) s = .next (s.raise ⟨0x0033, 0x10000 + x.imm⟩)) ∧
        (named → ∀ c, s.fetchWord vec.toNat = .error c → exec (.trap x) s = .next (atVec.raise c)) ∧
        (named → ∀ w, s.fetchWord vec.toNat = .ok (w, true) → exec (.trap x) s = .next (atVec.raise ⟨0x0070, 5 + vec.toNat % 2 ^ 56 * 2 ^ 8⟩)) ∧
        (named → ∀ w, s.fetchWord vec.toNat = .ok (w, false) → w / 2 ^ 25 % 2 ^ 7 ≠ 0x40 → exec (.trap x) s = .next (s.raise ⟨0x0033, 0x10000 + x.imm⟩)) ∧
        (named → ∀ w, s.fetchWord vec.toNat = .ok (w, false) → w / 2 ^ 25 % 2 ^ 7 = 0x40 →
          ∃ t, exec (.trap x) s = .next t ∧
            t.entry i = ⟨.trap, 0, some next, s.cur.mask, 0, s.cur.id, s.cur.top⟩ ∧ (∀ k, k ≠ i → t.entry k = s.entry k) ∧
            t.cur = { r.cur with top := some i, pc := vec, run := { s.cur.run with left := 0, rep := none }, entered := true } ∧
            t.grp.sys = { s.grp.sys with trapCause := BitVec.ofNat 32 (0x10000 + x.imm), trapPc := s.cur.pc } ∧
            t = { r with cur := t.cur, grp := { r.grp with sys := t.grp.sys, stack := t.grp.stack }, cycle := s.cycle + 1 })) ∧
    (∀ i, s.cur.top = some i → (s.entry i).kind = .trap →
      (s.waitsRelease = true → exec (.tret x) s = .next s.stall) ∧
      (s.waitsRelease = false → ∃ t, exec (.tret x) s = .next t ∧ t.cur.pc = pcOf ((s.entry i).rpc.getD 0) ∧ t.cur.mask = (s.entry i).mask ∧
        t.cur.top = (s.entry i).link ∧ t.cur.run.left = 0 ∧ t.cur.st ≠ .issuing ∧ t.cur.id = s.cur.id ∧ (t.entry i).kind = .none ∧
        (∀ k, k ≠ i → t.entry k = s.entry k) ∧ t = { r with cur := t.cur, grp := { r.grp with stack := t.grp.stack }, cycle := s.cycle + 1 })) ∧
    (s.cur.top = none → exec (.tret x) s = .next (s.raise ⟨0x0032, 0⟩)) ∧
    (s.waitsRelease = false → ∀ i, s.cur.top = some i → (s.entry i).kind ≠ .trap → exec (.tret x) s = .next (s.raise ⟨0x0032, (s.entry i).kind.code⟩)) ∧
    (s.grp.slot ≠ 16 → exec (.halt x) s = .next (s.raise ⟨0x0013, 0⟩)) ∧
    (s.grp.slot = 16 → ∃ t, exec (.halt x) s = .next t ∧ t.cur = { s.cur with st := .ended } ∧ t.grp = { s.grp with st := .ended, units := [] } ∧
      (t.core s.grp.core).pilot = false ∧ (∀ c, c ≠ s.grp.core → t.core c = s.core c) ∧ t = { s with cur := t.cur, grp := t.grp, cores := t.cores, cycle := s.cycle + 1 })

/-- R141, R142 and R214 (06, 10): GATE parks its unit for the quiesce, then makes the call when every check of R141 holds: the entry, the frame, the
callee's registers, domain, layout table and PC are as R141 says, and a unit that a call holds waits for its end (R38); GRET does the same for the return of R142. A failed check, a register form
of 256 or more, and a GRET without a gate entry raise the codes of Table 152 (21 R381). -/
def Obligations.GateCalls : Prop :=
  (∀ (x : Args) (s : State), s.guardU x.gp x.gn = true →
    (∃ t, exec (.gate x) s = .next t ∧ ParksOn s t .gate (.gate x) x.imm) ∧
    (s.CleanS [x.a.toNat] →
      (s.sr x.a.toNat < 256 → ∃ t, exec (.gateRegister x) s = .next t ∧ ParksOn s t .gate (.gateRegister x) (s.sr x.a.toNat)) ∧
      (256 ≤ s.sr x.a.toNat → exec (.gateRegister x) s = .next (s.raise ⟨0x0043, s.sr x.a.toNat + 4 * 2 ^ 32⟩))) ∧
    (s.topKind = .gate → ∃ t, exec (.gret x) s = .next t ∧ ParksOn s t .gret (.gret x) 0) ∧
    (s.topKind ≠ .gate → exec (.gret x) s = .next (s.raise ⟨0x0044, s.topKind.code⟩))) ∧
  (∀ (u : UnitRef) (s t : State) (p : Parked), WaitsOn s u .gate t p → t.quiesced p.serial = true → t.cur.region = none → t.grp.budget ≤ 256 →
    (t.grp.holds t.cur = true → exec (.gateQuiesceEnd u) s = .next s) ∧
    (t.grp.holds t.cur = false →
    let e := sget (0 : BitVec 128) t.myPart.gates p.aux
    let b := t.budget
    let cb := geCb e
    let off := t.grp.budget - b
    let lo := off + b - cb
    (∀ c, t.gateChecks p.aux e = some c → exec (.gateQuiesceEnd u) s = .next (t.raise c)) ∧
    ∀ ei, freeIndex t.grp.stack = some ei → geValid e = true → domValid (t.myPart.domain (geDomain e)) = true → domGate t.myDomain p.aux = true →
      t.gateDepth < 4 → (∀ f, t.frame? = some f → geNest f.entry = true) → cb ≤ b → b ≤ t.grp.budget →
      geVargs e ≤ cb → geVret e ≤ cb → geSargs e ≤ 128 → geSret e ≤ 128 → geSpBase e + geSpSize e ≤ t.team.size / 16384 →
      ∃ r, exec (.gateQuiesceEnd u) s = .next r ∧ r.mem = t.mem ∧ r.team = t.team ∧ r.groups = t.groups ∧
        r.entry ei = ⟨.gate, 0, some (pcCut (t.cur.pc + BitVec.ofNat 64 p.instr.size)), t.cur.mask, 0, t.cur.id, t.cur.top⟩ ∧
        (∀ k, k ≠ ei → r.entry k = t.entry k) ∧
        r.cur.top = some ei ∧ r.cur.mask = t.cur.mask ∧ r.cur.st = .ready ∧ r.cur.run.left = 0 ∧ r.cur.pc = pcOf (BitVec.ofNat 64 (gePc e)) ∧
        r.grp.sys = { t.grp.sys with domain := geDomain e } ∧
        (∃ f, r.grp.frames = f :: t.grp.frames ∧ f.entry = e ∧ f.domain = t.dom ∧ f.budget = b ∧ f.s = t.grp.r.s ∧ f.q = t.grp.r.q ∧
          f.x = t.grp.r.x ∧ f.fbits = t.grp.r.fbits ∧ f.slots = t.loadBank t.team.part (geDomain e) (domBank (t.myPart.domain (geDomain e)))) ∧
        (∀ n, r.sreg n = if n < geSargs e then t.sreg n else {}) ∧ r.grp.r.q = 0 ∧ (∀ n, r.xr n = 0) ∧ r.grp.r.fbits = 0 ∧ (∀ l n, r.p l n = false) ∧
        (∀ l, l < t.grp.lanes → ∀ k, k < cb →
          sget {} r.grp.r.v (l * 256 + lo + k) = if k < geVargs e then sget {} t.grp.r.v (l * 256 + off + k) else {}) ∧
        (∀ l k, l < t.grp.lanes → k < 256 → k < lo ∨ off + b ≤ k → sget {} r.grp.r.v (l * 256 + k) = sget {} t.grp.r.v (l * 256 + k)) ∧
        ∀ v ∈ r.grp.units, v.st ≠ .ready ∧ v.st ≠ .issuing ∧ v.st ≠ .loading)) ∧
  ∀ (u : UnitRef) (s t : State) (p : Parked) (gi : Nat) (f : GateFrame) (rest : List GateFrame),
    WaitsOn s u .gret t p → t.quiesced p.serial = true → t.cur.region = none → t.cur.top = some gi → t.grp.frames = f :: rest →
    t.grp.budget ≤ 256 → f.budget ≤ t.grp.budget → geCb f.entry ≤ f.budget → geVret f.entry ≤ geCb f.entry →
    let E := t.entry gi
    let off := t.grp.budget - f.budget
    let lo := t.grp.budget - geCb f.entry
    ∃ r, exec (.gretQuiesceEnd u) s = .next r ∧ r.mem = t.mem ∧ r.team = t.team ∧ r.groups = t.groups ∧
      r.cur.mask = E.mask ∧ r.cur.pc = pcOf (E.rpc.getD 0) ∧ r.cur.top = E.link ∧ r.cur.run.left = 0 ∧ (r.entry gi).kind = .none ∧
      r.grp.sys = { t.grp.sys with domain := f.domain } ∧ r.grp.frames.length = rest.length ∧
      (∀ n, r.sreg n = if n < geSret f.entry then t.sreg n else sget {} f.s n) ∧
      (∀ n, n < 16 → r.q n = if n = 15 then false else f.q.getLsbD n) ∧ r.grp.r.x = f.x ∧ r.grp.r.fbits = f.fbits ∧ (∀ l n, r.p l n = false) ∧
      (∀ l, l < t.grp.lanes → ∀ k, k < geVret f.entry → sget {} r.grp.r.v (l * 256 + off + k) = sget {} t.grp.r.v (l * 256 + lo + k)) ∧
      (∀ l k, l < t.grp.lanes → k < 256 → k < off ∨ off + geVret f.entry ≤ k →
        sget {} r.grp.r.v (l * 256 + k) = if lo ≤ k ∧ k < t.grp.budget then {} else sget {} t.grp.r.v (l * 256 + k))

/-! ### Layout slots and regions -/

/-- R222, Table 73 (10): LSET replaces exactly the bits of its field in slot d of the table in force, or raises LAYOUT_BAD and changes nothing; LQRY
reads a field; each row of the lists is a field code with its lowest bit and its width. Codes 24 to 28 write a sign-extended stride, and 32 to 36
write A[7:0] and read with the sign. R221 and R54 (10, 03): LBIND parks from issue; when its record can be read and is well-formed the slot holds the
record whole and the unit goes on; an unaligned address and a malformed record raise LAYOUT_BAD, an address without a leaf its translation
code, and the slot is unchanged. -/
def Obligations.Layouts : Prop :=
  (∀ (x : Args) (s : State), s.guardU x.gp x.gn = true → (s.inGate = true → s.frame? ≠ none) →
     let d := x.d.toNat
     let code := x.b.toNat
     let A : PWord := s.sreg x.a.toNat
     let y := s.slot d
     let q := s.slot x.a.toNat
     let edit (z : BitVec 512) : Prop := ∃ t, exec (.lset x) s = .next t ∧ t.slot d = z ∧ (∀ n, n ≠ d → t.slot n = s.slot n) ∧
       (∀ n, t.sreg n = s.sreg n) ∧ (∀ l n, t.vreg l n = s.vreg l n) ∧ t.mem = s.mem ∧ t.cur = (s.cur.advance x.bytes).settle (s.cycle + 1)
     let query (v : Word) : Prop := ∃ t, exec (.lqry x) s = .next t ∧ t.sreg x.d.toNat = ⟨v, false⟩ ∧ OnlyS s t x [x.d.toNat]
     (∀ f ∈ ([(0, 0, 32), (1, 32, 32), (2, 64, 3), (3, 67, 3), (4, 70, 3), (5, 73, 1), (6, 74, 1), (7, 75, 2), (8, 77, 3), (9, 80, 10),
              (10, 90, 6), (16, 128, 32), (17, 160, 32), (18, 192, 32), (19, 224, 32), (20, 256, 32)] : List (Nat × Nat × Nat)),
       code = f.1 →
       let z : BitVec 512 := (y &&& ~~~ (BitVec.ofNat 512 (2 ^ f.2.2 - 1) <<< f.2.1)) ||| (A.val.zeroExtend 512 <<< f.2.1)
       (A.poison = false → y ≠ 0 → A.val.toNat < 2 ^ f.2.2 → lyWellFormed z = true → edit z) ∧
       (A.poison = false → y ≠ 0 → 2 ^ f.2.2 ≤ A.val.toNat → exec (.lset x) s = .next (s.raise (layoutBad d code 3))) ∧
       (A.poison = false → y ≠ 0 → A.val.toNat < 2 ^ f.2.2 → lyWellFormed z = false → exec (.lset x) s = .next (s.raise (layoutBad d code 2))) ∧
       (q ≠ 0 → query ((q.extractLsb' f.2.1 f.2.2).zeroExtend 32))) ∧
     (∀ f ∈ ([(32, 320), (33, 360), (34, 400), (35, 440), (36, 480)] : List (Nat × Nat)), code = f.1 →
       let z : BitVec 512 := (y &&& ~~~ ((255 : BitVec 512) <<< f.2)) ||| ((A.val &&& 255).zeroExtend 512 <<< f.2)
       (A.poison = false → y ≠ 0 → lyWellFormed z = true → edit z) ∧
       (A.poison = false → y ≠ 0 → lyWellFormed z = false → exec (.lset x) s = .next (s.raise (layoutBad d code 2))) ∧
       (q ≠ 0 → query ((q.extractLsb' f.2 8).signExtend 32))) ∧
     (∀ i, i < 5 → code = 24 + i →
       let z : BitVec 512 := (y &&& ~~~ (BitVec.ofNat 512 (2 ^ 40 - 1) <<< (288 + 40 * i))) |||
         ((A.val.signExtend 40).zeroExtend 512 <<< (288 + 40 * i))
       (A.poison = false → y ≠ 0 → lyWellFormed z = true → edit z) ∧
       (A.poison = false → y ≠ 0 → lyWellFormed z = false → exec (.lset x) s = .next (s.raise (layoutBad d code 2))) ∧
       (q ≠ 0 → query (q.extractLsb' (288 + 40 * i) 32))) ∧
     (code = 40 → q ≠ 0 →
       query (if lySpace q = 1 ∨ lySpace q = 4 then BitVec.ofNat 32 (min (sget ({} : XReg) s.grp.xlate x.a.toNat).limit 0xFFFFFFFF) else 0)) ∧
     (A.poison = false → y = 0 → exec (.lset x) s = .next (s.raise (layoutBad d 62 4))) ∧
     (q = 0 → exec (.lqry x) s = .next (s.raise (layoutBad x.a.toNat 62 4)))) ∧
  (∀ (x : Args) (s : State), s.guardU x.gp x.gn = true → s.CleanS [x.a.toNat, x.a.toNat + 1] →
    let va := (s.pairS x.a.toNat).toNat
    (va % 64 = 0 → ∃ t, exec (.lbind x) s = .next t ∧ ParksOn s t .lbind (.lbind x) va) ∧
    (va % 64 ≠ 0 → exec (.lbind x) s = .next (s.raise (layoutBad x.d.toNat 63 1)))) ∧
  ∀ (u : UnitRef) (s t : State) (p : Parked) (x : Args), WaitsOn s u .lbind t p → p.instr = .lbind x → (t.inGate = true → t.frame? ≠ none) →
    (∀ c, t.translate t.team.part t.dom p.aux = .error c → exec (.lbindSlotWrite u) s = .next (t.raise c)) ∧
    ∀ ph, t.translate t.team.part t.dom p.aux = .ok ph → t.heldWrite ph.place 64 p.serial = false → t.mem.physBad ph 64 = false →
      let y := BitVec.ofNat 512 (t.mem.readPhys ph 64)
      (lyWellFormed y = true → ∃ r, exec (.lbindSlotWrite u) s = .next r ∧ r.slot x.d.toNat = y ∧ (∀ n, n ≠ x.d.toNat → r.slot n = t.slot n) ∧
        r.cur = ({ t.cur with st := t.readyState, since := t.cycle } : MUnit).advance x.bytes ∧ r.grp.r = t.grp.r ∧ r.mem = t.mem ∧
        r.cycle = t.cycle) ∧
      (lyWellFormed y = false → exec (.lbindSlotWrite u) s = .next (t.raise (layoutBad x.d.toNat 63 2)))

/-- R225, R226 (10) and R265 (12): RGN releases the region and takes a new one for its list, of the unit's lanes, which is loading until its load completes; an
empty list only releases. A register at or above the budget is REG_BUDGET, with such a register in the detail. RGN waits in the pipe while an access in flight still writes a register that
it would load, or that its release or its eviction would write back. A released region keeps dirty registers and takes the main file's value for the others. -/
def Obligations.Regions : Prop :=
  (∀ (regs : List (BitVec 8)) (s : State), s.cur.st ≠ .ended → (∀ u ∈ s.grp.units, u.id ≠ s.cur.id) →
    let size := 4 * (1 + (regs.length + 3) / 4)
    let rel := s.releaseRegion
    let waits := s.waitsRelease = true ∨ s.pendingV (regs.map fun r => r.toNat) = true ∨
      (regs ≠ [] ∧ ∃ v, s.evicts = some v ∧ s.releaseWaits v.1.group v.2 = true)
    (waits → exec (.rgn regs) s = .next s.stall) ∧
    (¬ waits →
      ((∃ r ∈ regs, s.budget ≤ r.toNat) → ∃ r ∈ regs, s.budget ≤ r.toNat ∧
        exec (.rgn regs) s = .next (s.raise ⟨0x0020, r.toNat % 256 + (s.budget - 1) * 256⟩)) ∧
      (regs = [] → exec (.rgn regs) s = .next (rel.completes size 1 rel.grp.r)) ∧
      (regs ≠ [] → (∀ r ∈ regs, r.toNat < s.budget) →
        ∃ t g, exec (.rgn regs) s = .next t ∧ t.cur.region = some g ∧ g.loading = true ∧ g.resident = true ∧ g.lanes = s.cur.mask ∧ g.slot < 4 ∧
          (∀ n, n ∈ g.regs ↔ ∃ r ∈ regs, n = s.grp.budget - s.budget + r.toNat) ∧ t.grp.r.s = s.grp.r.s ∧ t.mem = s.mem ∧ t.cycle = s.cycle + 1 ∧
          (s.evicts = none → t = { rel with cur := { (rel.cur.advance size).settle (s.cycle + 1) with region := some g }, cycle := s.cycle + 1 })))) ∧
  (∀ (u : UnitRef) (s : State) (g : Region), s.unitRef = u → s.cur.region = some g → g.resident = true →
    exec (.regionLoadComplete u) s = .next { s with cur := { s.cur with region := some { g with loading := false } } }) ∧
  (∀ (u : UnitRef) (s t : State) (g : Region) (n : Nat), s.select u = some t → t.cur.region = some g → g.resident = false →
    freeRegionSlot (t.regionHolders t.grp.core t.grp.pipe) = some n → t.cur.st = .loading →
    ∃ r, exec (.regionReload u) s = .next r ∧ r.cur.st = (if t.grp.holds t.cur then .held else .ready) ∧
      r.cur.region = some { g with slot := n, resident := true, loading := false, main := [], dirty := [] } ∧ r = { t with cur := r.cur }) ∧
  ∀ (s : State) (g : Region), s.cur.region = some g → g.resident = true → scanon (none : Option PWord) g.main = true →
    s.releaseRegion.cur = { s.cur with region := none } ∧
    ∀ k, sget {} s.releaseRegion.grp.r.v k =
      if k % 256 ∈ g.dirty then sget {} s.grp.r.v k else (sget none g.main k).getD (sget {} s.grp.r.v k)

/-! ### Channels -/

/-- R228 (10): CHCFG reserves reply slots at once when they fit beside what is in use, else it parks until they do, and the last CHCFG of a channel in
issue order stands; more than the team's ceiling is CHCFG_BAD, at the issue and while it waits, a channel that the domain denies CHANNEL_DENIED (Table 158,
22 R393), and inside a gate call it is forbidden. R289 (12): CHSTAT reads the counts of Table 99, where units parked on the channel state table show (22
R398). That each of them counts as exactly one packet is the model's choice (log 47), and so is that CHSTAT asks no leave of the domain (log 46). -/
def Obligations.ChannelSetup : Prop :=
  (∀ (x : Args) (s : State), s.guardU x.gp x.gn = true →
    let d := x.d.toNat
    let a := s.sr x.a.toNat
    let others := (((List.range 16).filter fun c => c ≠ d).map fun c => sget 0 s.team.reserved c).sum
    (s.inGate = true → ∃ w, exec (.chcfg x) s = .next (s.raise ⟨0x0045, w⟩)) ∧
    (s.inGate = false → s.CleanS [x.a.toNat] →
      (¬ (a ≤ 1024 ∧ a + others ≤ s.team.ceiling) → exec (.chcfg x) s = .next (s.raise ⟨0x0051, d + a * 2 ^ 32⟩)) ∧
      (a ≤ 1024 → a + others ≤ s.team.ceiling → d < 16 → s.chanAllowed d = true →
        (s.slotsFit d a = true → ∃ t, exec (.chcfg x) s = .next t ∧ sget 0 t.team.reserved d = a ∧
          (∀ c, c ≠ d → sget 0 t.team.reserved c = sget 0 s.team.reserved c) ∧
          t = { s.completes x.bytes 1 s.grp.r with
            team := { s.team with reserved := t.team.reserved, cfgSerial := t.team.cfgSerial, entries := t.team.entries }, serial := s.serial + 1 }) ∧
        (s.slotsFit d a = false → ∃ t, exec (.chcfg x) s = .next t ∧ ParksOn s t .chcfg (.chcfg x) a)) ∧
      (a ≤ 1024 → a + others ≤ s.team.ceiling → d < 16 → s.chanAllowed d = false → exec (.chcfg x) s = .next (s.raise ⟨0x0112, 2 ^ d⟩))) ∧
    ∃ t, exec (.chstat x) s = .next t ∧ OnlyS s t x [x.d.toNat] ∧
      let n := x.a.toNat
      t.sreg x.d.toNat = ⟨if x.b.toNat = 0 then BitVec.ofNat 32 (sget 0 s.team.reserved n + s.inUse s.team.stream n * 2 ^ 16)
        else if x.b.toNat = 1 then
          BitVec.ofNat 32 (min ((((s.core s.grp.core).chans.filter fun e => e.key.stream = s.team.stream ∧ e.key.chan = n).map fun e => e.unacked).sum +
            s.tableWaiters n) 0xFFFF + (s.pendingJoins s.team.stream n).length * 2 ^ 16)
        else s.grp.sys.fence, false⟩) ∧
  ∀ (u : UnitRef) (s t : State) (p : Parked) (x : Args), WaitsOn s u .chcfg t p → p.instr = .chcfg x →
    let others := (((List.range 16).filter fun c => c ≠ x.d.toNat).map fun c => sget 0 t.team.reserved c).sum
    (¬ (p.aux ≤ 1024 ∧ p.aux + others ≤ t.team.ceiling) → exec (.chcfgWake u) s = .next (t.raise ⟨0x0051, x.d.toNat + p.aux * 2 ^ 32⟩)) ∧
    (p.aux ≤ 1024 → p.aux + others ≤ t.team.ceiling → t.slotsFit x.d.toNat p.aux = false → exec (.chcfgWake u) s = .next s) ∧
    (p.aux ≤ 1024 → t.slotsFit x.d.toNat p.aux = true → sget 0 t.team.cfgSerial x.d.toNat ≤ p.serial →
      ∃ r, exec (.chcfgWake u) s = .next r ∧ sget 0 r.team.reserved x.d.toNat = p.aux ∧
        (∀ c, c ≠ x.d.toNat → sget 0 r.team.reserved c = sget 0 t.team.reserved c) ∧
        Resumes { t with team := { t.team with reserved := r.team.reserved, cfgSerial := r.team.cfgSerial, entries := r.team.entries } } r x.bytes) ∧
    (p.aux ≤ 1024 → t.slotsFit x.d.toNat p.aux = true → p.serial < sget 0 t.team.cfgSerial x.d.toNat → ∃ r, exec (.chcfgWake u) s = .next r ∧ Resumes t r x.bytes)

/-- R86, R87, R93 and R97 (04), R285 to R288 (12): JOIN marks its channels for what follows on its own channel, parks as a fifth pending JOIN until the
marks of the oldest pending one are met, and does nothing with an empty mask; DRAIN and FENCE go on once everything before them is performed at their scope, take the uncertain channels into the
fence status word, and a FENCE drops the L1 at team scope and beyond; a tick fence also waits for the tick. -/
def Obligations.JoinsAndFences : Prop :=
  (∀ (x : Args) (s : State), s.guardU x.gp x.gn = true →
    let d := x.d.toNat
    let st1 := s.serial + 1
    (∀ p ∈ ([(.join x, [x.a.toNat], s.sr x.a.toNat % 2 ^ 16), (.joinImmediateMask x, [], x.imm)] : List (Instr × List Nat × Nat)),
      s.CleanS p.2.1 → s.channelCheck (Nat.lor p.2.2 (2 ^ d)) = none →
        (p.2.2 = 0 → exec p.1 s = .next { s.completes x.bytes 1 s.grp.r with serial := st1 }) ∧
        (p.2.2 ≠ 0 → (s.pendingJoins s.team.stream d).length < 4 →
          ∃ t, exec p.1 s = .next t ∧ ⟨d, BitVec.ofNat 16 p.2.2, st1⟩ ∈ t.team.joins ∧
            (∀ j ∈ s.team.joins, s.joinMet s.team.stream j = false → j ∈ t.team.joins) ∧
            t = { s.completes x.bytes 1 s.grp.r with team := { s.team with joins := t.team.joins }, serial := st1 }) ∧
        (p.2.2 ≠ 0 → 4 ≤ (s.pendingJoins s.team.stream d).length → ∃ t, exec p.1 s = .next t ∧ ParksOn s t .joinPending p.1 p.2.2 ∧
            ∀ q, t.parkedOn .joinPending = some q → q.rec_ = BitVec.ofNat 512 ((s.pendingJoins s.team.stream d).map fun j => j.serial).headI)) ∧
    (s.channelCheck (2 ^ d) = none →
      (s.drained d x.b.toNat st1 = true → ∃ t, exec (.drain x) s = .next t ∧ t.mem = s.mem ∧ t.grp.r = s.grp.r ∧
        t.cur = (s.cur.advance x.bytes).settle (s.cycle + 1) ∧ (x.b.toNat < 4 → t.grp.sys = s.grp.sys ∧ t.team = s.team) ∧
        (4 ≤ x.b.toNat → t.team.uncertain.getLsbD d = false ∧
          t.grp.sys.fence = if s.team.uncertain.getLsbD d then BitVec.ofNat 32 (2 ^ d * 2 ^ 16 + 1) else 0)) ∧
      (s.drained d x.b.toNat st1 = false → ∃ t, exec (.drain x) s = .next t ∧ ParksOn s t .drain (.drain x) 0)) ∧
    (s.fenceMet x.b.toNat st1 = true → s.tickFence x = false → ∃ t, exec (.fence x) s = .next t ∧ t.mem = s.mem ∧ t.grp.r = s.grp.r ∧
      t.cur = (s.cur.advance x.bytes).settle (s.cycle + 1) ∧ (1 ≤ x.b.toNat → (t.core s.grp.core).l1 = []) ∧
      (x.b.toNat < 4 → t.grp.sys = s.grp.sys ∧ t.team = s.team) ∧
      (4 ≤ x.b.toNat → t.team.uncertain = 0 ∧
        t.grp.sys.fence = if s.team.uncertain = 0 then 0 else BitVec.ofNat 32 (s.team.uncertain.toNat * 2 ^ 16 + 1))) ∧
    ((s.fenceMet x.b.toNat st1 = false ∨ s.tickFence x = true) → ∃ t, exec (.fence x) s = .next t ∧ ParksOn s t .fence (.fence x) 0)) ∧
  (∀ (u : UnitRef) (s t : State) (p : Parked) (x : Args), p.instr = .join x ∨ p.instr = .joinImmediateMask x → WaitsOn s u .joinPending t p →
    let pending := t.pendingJoins t.team.stream x.d.toNat
    ((∃ j ∈ pending, j.serial ≤ p.rec_.toNat) → exec (.joinPendingResume u) s = .next s) ∧
    ((∀ j ∈ pending, p.rec_.toNat < j.serial) → 4 ≤ pending.length →
      ∃ j0 rest, pending = j0 :: rest ∧
        exec (.joinPendingResume u) s = .next { t with cur := { t.cur with st := .parked { p with rec_ := BitVec.ofNat 512 j0.serial } } }) ∧
    ((∀ j ∈ pending, p.rec_.toNat < j.serial) → pending.length < 4 →
      ∃ r, exec (.joinPendingResume u) s = .next r ∧ ⟨x.d.toNat, BitVec.ofNat 16 p.aux, p.serial⟩ ∈ r.team.joins ∧
        Resumes { t with team := { t.team with joins := r.team.joins } } r x.bytes)) ∧
  (∀ (u : UnitRef) (s t : State) (p : Parked) (x : Args), p.instr = .drain x → WaitsOn s u .drain t p → t.drained x.d.toNat x.b.toNat p.serial = true →
    ∃ r, exec (.drainCompletion u) s = .next r ∧ Resumes { t with team := r.team, grp := { t.grp with sys := r.grp.sys } } r x.bytes ∧
      (x.b.toNat < 4 → r.grp.sys = t.grp.sys ∧ r.team = t.team)) ∧
  (∀ (u : UnitRef) (s t : State) (p : Parked) (x : Args), p.instr = .fence x → WaitsOn s u .fence t p → t.fenceMet x.b.toNat p.serial = true →
    ((t.tickFence x = false ∨ p.aux ≠ 0 ∧ p.aux ≤ t.tick) → ∃ r, exec (.fenceCompletion u) s = .next r ∧ r.mem = t.mem ∧ r.grp.r = t.grp.r ∧
      r.cur = ({ t.cur with st := t.readyState, since := t.cycle } : MUnit).advance x.bytes ∧ (1 ≤ x.b.toNat → (r.core t.grp.core).l1 = [])) ∧
    (t.tickFence x = true → p.aux = 0 → exec (.fenceCompletion u) s =
      .next { t with cur := { t.cur with st := .parked { p with aux := t.tick + 1 } } })) ∧
  ∀ s : State, ∃ t, exec .tick s = .next t ∧ t.cycle % 512 = 0 ∧ t.tick = s.tick + 1 ∧ s.cycle < t.cycle ∧ t = { s with cycle := t.cycle }

/-! ### Barriers, queues, tasks and sleep -/

/-- R72 (03), R290 to R293 (12): each barrier instruction is one atomic update of the 32-byte object that s(a) names, followed by the test for the end of the
phase: BARI sets the object up, BARX changes what it expects, BARA counts an arrival and returns the phase before it, and BARW waits for a
phase and is an acquire at cluster scope. No other byte changes. -/
def Obligations.Barriers : Prop :=
  let after (b : BarObj) : BarObj := if b.expected ≤ b.arrived ∧ b.pending = 0 then { b with phase := !b.phase, arrived := 0 } else b
  (∀ (x : Args) (s : State) (core off : Nat), s.guardU x.gp x.gn = true → s.CleanS [x.a.toNat, x.a.toNat + 1] →
    s.barPlace (s.sr x.a.toNat) = .ok (core, off) → s.quietCore = true → s.mem.spadBad core off 32 = false →
    let op : Word := (s.sreg (x.a.toNat + 1)).val
    let b := s.barObj core off
    (op ≠ 0 → ∃ t, exec (.bari x) s = .next t ∧ t.barObj core off = ⟨0, op.toNat, 0, b.phase⟩ ∧ OnlySpad s t core off 32 ∧ t.grp.r = s.grp.r ∧
      t.cycle = s.cycle + 1) ∧
    (op = 0 → exec (.bari x) s = .next (s.raise ⟨0x0120, 0⟩)) ∧
    (1 ≤ b.expected + op.toInt → b.expected + op.toInt < 2 ^ 32 →
      ∃ t, exec (.barx x) s = .next t ∧ t.barObj core off = after { b with expected := (b.expected + op.toInt).toNat } ∧ OnlySpad s t core off 32 ∧
        t.grp.r = s.grp.r ∧ t.cycle = s.cycle + 1) ∧
    (¬ (1 ≤ b.expected + op.toInt ∧ b.expected + op.toInt < 2 ^ 32) →
      exec (.barx x) s = .next (s.raise ⟨0x0120, (BitVec.ofInt 32 (b.expected + op.toInt)).toNat⟩)) ∧
    (∃ t, exec (.bara x) s = .next t ∧ ParksOn s t .bara (.bara x) (spadKey core off)) ∧
    (b.phase ≠ op.getLsbD 0 → ∃ t, exec (.barw x) s = .next t ∧ (t.core s.grp.core).l1 = [] ∧ t.mem = s.mem ∧ t.grp.r = s.grp.r ∧
      t.cur = (s.cur.advance x.bytes).settle (s.cycle + 1)) ∧
    (b.phase = op.getLsbD 0 → ∃ t, exec (.barw x) s = .next t ∧ ParksOn s t .barw (.barw x) (spadKey core off) ∧
      ∀ p, t.cur.st = .parked p → p.rec_.toNat = s.sr x.a.toNat)) ∧
  (∀ (u : UnitRef) (s t : State) (p : Parked) (x : Args) (core off : Nat), WaitsOn s u .bara t p → p.instr = .bara x → p.aux = spadKey core off →
    off < 2 ^ 22 → t.fenceMet 2 p.serial = true → t.mem.spadBad core off 32 = false →
    let b := t.barObj core off
    (b.arrived < b.expected → b.expected < 2 ^ 32 →
      ∃ r, exec (.baraArrival u) s = .next r ∧ r.sreg x.d.toNat = ⟨if b.phase then 1 else 0, false⟩ ∧ (∀ n, n ≠ x.d.toNat → r.sreg n = t.sreg n) ∧
        r.barObj core off = after { b with pending := (BitVec.ofInt 64 (b.pending + p.rec_.toNat)).toInt, arrived := b.arrived + 1 } ∧
        OnlySpad t r core off 32 ∧ r.cur.pc = (t.cur.advance x.bytes).pc) ∧
    (b.expected ≤ b.arrived → exec (.baraArrival u) s = .next (t.raise ⟨0x0121, b.expected⟩))) ∧
  ∀ (u : UnitRef) (s t : State) (p : Parked), WaitsOn s u .barw t p → p.lanes ≠ 0 →
    ∃ r, exec (.barwWake u) s = .next r ∧ (r.core t.grp.core).l1 = [] ∧ r.mem = t.mem ∧ r.grp.r = t.grp.r ∧
      r.cur = ({ t.cur with st := t.readyState, since := t.cycle } : MUnit).advance p.instr.size

/-- R281 to R284 (12): POPQ takes the first entries of a claimed queue into its executing lanes in lane order, PUSHQ appends the lanes' values; the plain
forms wait for enough entries or room, the predicate forms serve the first lanes and say which in a predicate, and PUSHQ's spill form stores
the values of the rest, in lane order, and sets their granules full (03 R65). A PUSHQ that waited appends what its lanes held when it issued. QCNT reads the count. A queue that the team has not claimed is QUEUE_NOT_CLAIMED. -/
def Obligations.HardwareQueues : Prop :=
  (∀ (x : Args) (s : State), s.quietCore = true →
    let d := x.d.toNat
    let a := x.a.toNat
    let n := x.hq
    let ls := s.lanesFor x
    let items := s.hqItems n
    let cost (r : Nat) : Nat := passes s.cur.mask + passes s.cur.mask * 4 * s.outside [r]
    let room := 1024 - items.length
    (s.guardU x.gp x.gn = true → s.team.hqs.toNat.testBit a = true →
      ∃ t, exec (.qcnt x) s = .next t ∧ t.sreg d = ⟨BitVec.ofNat 32 (s.hqItems a).length, false⟩ ∧ OnlyS s t x [d]) ∧
    (s.guardU x.gp x.gn = true → s.team.hqs.toNat.testBit a = false → exec (.qcnt x) s = .next (s.raise ⟨0x0114, a⟩)) ∧
    (ls ≠ [] → s.team.hqs.toNat.testBit n = true → s.Free [d] →
      (x.qform = 1 → x.pred < 48 → ∃ t, exec (.popq x) s = .next t ∧ t.hqItems n = items.drop ls.length ∧
        (∀ (i l : Nat), ls[i]? = some l → t.p l x.pred = decide (i < items.length) ∧ ∀ v, items[i]? = some v → t.vreg l d = v) ∧
        OnlyVP { s with cores := t.cores } t x (cost d) (s.keysOf (ls.take items.length) d) ls x.pred) ∧
      (x.qform ≠ 1 → ls.length ≤ items.length → s.earlierWaiter .popq n (s.serial + 1) = false →
        ∃ t, exec (.popq x) s = .next t ∧ t.hqItems n = items.drop ls.length ∧ (∀ (i l : Nat), ls[i]? = some l → ∀ v, items[i]? = some v → t.vreg l d = v) ∧
          OnlyV { s with cores := t.cores, serial := s.serial + 1 } t x (cost d) (s.keysOf ls d)) ∧
      (x.qform ≠ 1 → items.length < ls.length →
        ∃ t, exec (.popq x) s = .next t ∧ ParksOn { s with cycle := s.cycle + cost d } t .popq (.popq x) n)) ∧
    (ls ≠ [] → s.team.hqs.toNat.testBit n = true → s.Free [a] →
      (x.qform = 1 → x.pred < 48 → ∃ t, exec (.pushq x) s = .next t ∧
        t.hqItems n = items ++ (ls.take room).map (fun l => s.vreg l a) ∧ (∀ (i l : Nat), ls[i]? = some l → t.p l x.pred = decide (i < room)) ∧
        OnlyP { s with cores := t.cores } t x (cost a) ls x.pred) ∧
      (x.qform = 0 ∨ x.qform = 3 → ls.length ≤ room → s.earlierWaiter .pushq n (s.serial + 1) = false →
        ∃ t, exec (.pushq x) s = .next t ∧ t.hqItems n = items ++ ls.map (fun l => s.vreg l a) ∧
          t = { s.completes x.bytes (cost a) s.grp.r with cores := t.cores, serial := s.serial + 1 }) ∧
      (x.qform = 0 ∨ x.qform = 3 → room < ls.length →
        ∃ t, exec (.pushq x) s = .next t ∧ ParksOn { s with cycle := s.cycle + cost a } t .pushq (.pushq x) n) ∧
      (x.qform = 2 →
        let y := s.slot x.qslot
        let coords := (List.range (lyRank y)).map fun i => d + i
        let at_ (l c k : Nat) : Prop := ∃ v b o, s.laneAddr y d l = .at_ v ∧ spadPlace s.myEnv v.toNat 4 = .ok (c, b, o) ∧ k = b + permute y o
        let apart (i j : Nat) : Prop := i + 4 ≤ j ∨ j + 4 ≤ i
        y ≠ 0 → s.Free coords → s.Clean ls coords → s.spillChecks x ls = none →
        ∃ t, exec (.pushq x) s = .next t ∧ t.hqItems n = items ++ (ls.take room).map (fun l => s.vreg l a) ∧ t.grp = s.grp ∧
          t.mem.dram = s.mem.dram ∧ t.mem.host = s.mem.host ∧
          (∀ k, (∀ l ∈ ls.drop room, ∀ c j, at_ l c j → k < spadKey c j ∨ spadKey c j + 4 ≤ k) → sget 0 t.mem.spad k = sget 0 s.mem.spad k) ∧
          ∀ l ∈ ls.drop room, ∀ c j, at_ l c j → t.mem.isFull c j = true ∧
            ((∀ m ∈ ls.drop room, l < m → ∀ c2 j2, at_ m c2 j2 → apart (spadKey c j) (spadKey c2 j2)) → readBytes t.mem.spad (spadKey c j) 4 = s.v l a))) ∧
    (ls ≠ [] → s.team.hqs.toNat.testBit n = false →
      (s.Free [d] → exec (.popq x) s = .next (s.raise ⟨0x0114, n⟩)) ∧
      (x.qform ≠ 2 → s.Free [a] → exec (.pushq x) s = .next (s.raise ⟨0x0114, n⟩)))) ∧
  (∀ (u : UnitRef) (s t : State) (p : Parked) (x : Args), WaitsOn s u .popq t p → p.instr = .popq x →
    (lanesOf p.lanes).length ≤ (t.hqItems x.hq).length → t.earlierWaiter .popq x.hq p.serial = false →
    ∃ r, exec (.popqWake u) s = .next r ∧ r.hqItems x.hq = (t.hqItems x.hq).drop (lanesOf p.lanes).length ∧ r.mem = t.mem ∧
      ∀ (i l : Nat), (lanesOf p.lanes)[i]? = some l → ∀ v, (t.hqItems x.hq)[i]? = some v →
        sget {} r.grp.r.v ((t.withFrames (t.grp.ownFrames t.cur)).vkey l x.d.toNat) = v) ∧
  ∀ (u : UnitRef) (s t : State) (p : Parked) (x : Args), WaitsOn s u .pushq t p → p.instr = .pushq x →
    (lanesOf p.lanes).length ≤ 1024 - (t.hqItems x.hq).length → t.earlierWaiter .pushq x.hq p.serial = false →
    ∃ r, exec (.pushqWake u) s = .next r ∧ r.hqItems x.hq = t.hqItems x.hq ++ (lanesOf p.lanes).map (fun l => p.read l x.a.toNat) ∧
      Resumes { t with cores := r.cores } r x.bytes

/-- R44 and R229 (02, 10): ENQ parks with the record that it has built; one atomic step then writes the record to the ring, or to the overflow area when the
ring is full, moves the tail, and tells in q_d whether there was room; an idle group of a task team pops the next record, takes its
arguments and its PC, and runs with its full mask and an empty stack. A ring capacity that is no power of two up to 2^20 (R42) is ENQ_FAULT (Table 152, 21 R381). -/
def Obligations.Tasks : Prop :=
  (∀ (x : Args) (s : State), s.guardU x.gp x.gn = true →
    let b := x.b.toNat
    (s.inGate = true → ∃ w, exec (.enq x) s = .next (s.raise ⟨0x0045, w⟩)) ∧
    (s.inGate = false → s.CleanS ([x.a.toNat, x.a.toNat + 1] ++ (List.range 10).map fun i => b + i) →
      ((s.pairS x.a.toNat).toNat % 64 ≠ 0 → exec (.enq x) s = .next (s.raise ⟨0x0080, 1⟩)) ∧
      ((s.pairS x.a.toNat).toNat % 64 = 0 → ∃ t, exec (.enq x) s = .next t ∧ ParksOn s t .enq (.enq x) (s.pairS x.a.toNat).toNat ∧
        ∀ p, t.cur.st = .parked p → ∀ i, i < 10 → p.rec_.extractLsb' (32 * i) 32 = (s.sreg (b + i)).val))) ∧
  (∀ (u : UnitRef) (s t : State) (p : Parked) (x : Args), WaitsOn s u .enq t p → p.instr = .enq x → t.localDone t.unitRef p.serial = true →
    t.channelsDone t.grp.key 3 p.serial = true → t.rangeCode t.team.part t.dom p.aux 64 true = none →
    t.rangeBad t.team.part t.dom p.aux 64 = false →
    let d := t.readRange t.team.part t.dom p.aux 64
    ((∀ i, i ≤ 20 → tqRing d ≠ 2 ^ i) → exec (.enqAtomicStep u) s = .next (t.raise ⟨0x0080, 2⟩)) ∧
    ((∃ i, i ≤ 20 ∧ tqRing d = 2 ^ i) →
      (tqRing d ≤ tqHeld d → tqOvfEntries d ≤ tqOvfCount d → x.d.toNat < 16 →
        ∃ r, exec (.enqAtomicStep u) s = .next r ∧ r.q x.d.toNat = false ∧ r.mem = t.mem ∧ r.cur = ({ t.cur with st := t.readyState, since := t.cycle } : MUnit).advance x.bytes) ∧
      ∀ va d1, (tqHeld d < tqRing d ∧ va = tqRingBase d + 48 * (tqTail d % tqRing d) ∧ d1 = setField d 191 160 (tqTail d + 1) ∨
                ¬ tqHeld d < tqRing d ∧ tqOvfCount d < tqOvfEntries d ∧ va = tqOvfBase d + 48 * ((tqOvfHead d + tqOvfCount d) % tqOvfEntries d) ∧
                  d1 = setField d 319 288 (tqOvfCount d + 1)) →
        t.rangeCode t.team.part t.dom va 48 true = none → x.d.toNat < 16 →
        ∃ r, exec (.enqAtomicStep u) s = .next r ∧ r.q x.d.toNat = true ∧
          r.mem = ((t.writeRange t.team.part t.dom va 48 p.rec_.toNat).writeRange t.team.part t.dom p.aux 64 d1).mem)) ∧
  ∀ (s : State) (g : Group) (T : Team), s.group? g.key = some g → s.team? g.key.stream = some T → g.st = .idle → T.taskMode = true →
    T.st = .admitted → (s.part T.part).halt.state = 0 →
    let va := T.taskQueue.toNat
    let d := s.readRange T.part g.sys.domain va 64
    s.rangeCode T.part g.sys.domain va 64 true = none →
    (tqHeld d = 0 → tqOvfCount d = 0 → exec (.taskPop g.key) s = .next s) ∧
    (tqHeld d ≠ 0 →
      let at_ := tqRingBase d + 48 * (tqHead d % tqRing d)
      s.rangeCode T.part g.sys.domain at_ 48 false = none → s.rangeBad T.part g.sys.domain at_ 48 = false →
      let rec_ := s.readRange T.part g.sys.domain at_ 48
      rec_ % 2 ^ 64 < 2 ^ 57 → rec_ % 4 = 0 →
      ∃ r h, exec (.taskPop g.key) s = .next r ∧
        r.mem = (s.writeRange T.part g.sys.domain va 64 (setField (setField d 159 128 (tqHead d + 1)) 383 352 (tqInflight d + 1))).mem ∧
        r.group? g.key = some h ∧ h.st = .live ∧ h.task = true ∧ h.stack = [] ∧
        (∀ i, i < 8 → sget {} h.r.s i = ⟨BitVec.ofNat 32 (rec_ / 2 ^ (64 + 32 * i)), false⟩) ∧ (∀ i, 8 ≤ i → sget {} h.r.s i = sget {} g.r.s i) ∧
        ∃ w, h.units = [w] ∧ w.pc = BitVec.ofNat 64 (rec_ % 2 ^ 64) ∧ w.mask = fullMask g.lanes ∧ w.st = .ready)

/-- R211 and R128 (10, 05), R438 (21): SLEEP parks its unit for at least s_a cycles, and with 0 lets it go on; an idle pipe, when every unit there has read the
header that it reached, goes to the unit that has been eligible longest, whose run is fetched whole and issues. -/
def Obligations.SleepsAndPipes : Prop :=
  (∀ (x : Args) (s : State), s.guardU x.gp x.gn = true → s.CleanS [x.a.toNat] →
    (s.sr x.a.toNat = 0 → exec (.sleep x) s = .next (s.completes x.bytes 1 s.grp.r)) ∧
    (s.sr x.a.toNat ≠ 0 → ∃ t, exec (.sleep x) s = .next t ∧ ParksOn s t .sleep (.sleep x) (s.cycle + s.sr x.a.toNat))) ∧
  (∀ (u : UnitRef) (s t : State) (p : Parked), WaitsOn s u .sleep t p →
    (p.aux ≤ t.cycle → ∃ r, exec (.sleepExpiry u) s = .next r ∧ Resumes t r p.instr.size) ∧ (t.cycle < p.aux → exec (.sleepExpiry u) s = .next s)) ∧
  (∀ (core pipe : Nat) (s : State), (s.pipeBusy core pipe = true ∨ s.headerDue core pipe = true) → exec (.pipeArbitration core pipe) s = .next s) ∧
  ∀ (core pipe : Nat) (s t : State) (n : Nat) (u : UnitRef), s.pipeBusy core pipe = false → s.headerDue core pipe = false → (n, u) ∈ s.eligible core pipe →
    (∀ e ∈ s.eligible core pipe, e = (n, u) ∨ n < e.1 ∧ e.2 ≠ u) → s.select u = some t → t.mayIssue = true →
    (t.runFault t.cur.pc.toNat t.cur.run.left = none →
      ∃ r, exec (.pipeArbitration core pipe) s = .next r ∧ r.cur = { t.cur with st := .issuing, lastIssue := t.serial + 1 } ∧ r.grp = t.grp ∧
        r.mem = t.mem ∧ r.groups = t.groups) ∧
    ∀ c, t.runFault t.cur.pc.toNat t.cur.run.left = some c → t.cur.pc = t.cur.run.start + 4 → t.cur.run.rep = none →
      exec (.pipeArbitration core pipe) s = .next (({ t with cur := { t.cur with pc := t.cur.run.start } } : State).raise c)

/-! ### Memory instructions -/

/-- R264 to R277 (12), R76, R78, R79, R84 and R88 (04), R338 (14): how LD, ST, STFE, LDR, ATOM, CAS and RED issue. Every lane makes one access with its own data,
in lane order; those that leave the core on a channel take consecutive numbers of it, lanes that store one run of bytes, or whose LDR reads lie in one block,
together; one of 16 bytes to the host goes as two of 8; lanes for which the window has no place are left, and the unit parks with their mask. A plain load of an
L1-cacheable page takes the line of the L1 when it is there and no access of its group to the granule is still to be performed; a lane out of extent under
oob = 1 reads zeros and writes nothing; an address without a translation at hand parks the unit for a walk. No byte of memory changes at issue, and no register
but zeros of lanes out of extent. -/
def Obligations.MemoryIssue : Prop :=
  ∀ (x : Args) (s : State),
    let W := widthBytes x.width
    let n := widthRegs x.width
    let m := atomRegs x
    let y := s.slot x.slot
    let ls := s.lanesFor x
    let core := s.grp.core
    let serial := s.serial + 1
    let op := x.q.toNat % 16
    ∀ p ∈ ([(.ld x, ⟨0, W, x.order32, .load, n, n, x.width == 1 || x.width == 3⟩), (.st x, ⟨1, W, x.order32, .store, n, 0, false⟩),
            (.stfe x, ⟨3, W, x.order32, .stfe, n, 0, false⟩), (.ldr x, ⟨4, W, 0, .load, n, n, x.width == 1 || x.width == 3⟩),
            (.atom x, ⟨5, 4 * m, x.order54, .atom op, m, m, false⟩), (.cas x, ⟨6, W, x.order32, .cas, 2 * n, n, false⟩),
            (.red x, ⟨7, 4 * m, x.order54, .red op, m, 0, false⟩)] : List (Instr × MemOp)),
      let o := p.2
      Issues s o x →
      (∀ place : Nat → Place,
        (∀ l ∈ ls, ∃ wr l1, s.lands o x l = .ok (.found (place l) wr l1) ∧
          (o.sub ≠ 0 ∨ o.acquires = true ∨ l1 = false ∨ s.unperformedAt (place l) o.w = true ∨ s.l1Line core (place l) = none)) →
        (o.w = 16 → ∀ l ∈ ls, (place l).coords.1 ≠ 4) → s.RoomFor o x serial place ls →
        ∃ t new, exec p.1 s = .next t ∧ t.flights = s.flights ++ new ∧ Flies s s.vreg o x serial place ls new ∧
          t.mem = s.mem ∧ t.grp = { s.grp with r := s.grp.r.flagIssue (s.countedFlag x.flag) } ∧ t.team = s.team ∧
          (o.acquires = false ∨ o.kind.returns = true → (∀ l ∈ ls, s.travels o (place l) = false) → t.cores = s.cores) ∧
          (o.acquires = false → t.cur.pc = (s.cur.advance x.bytes).pc ∧ t.cycle = s.cycle + s.laneCost o.interval (memRegs o x y)) ∧
          (o.acquires = true → o.kind.returns = true → ∃ k, t.cur.st = .parked k ∧ k.why = .acquire ∧ k.serial = serial)) ∧
      ((∀ l ∈ ls, s.lands o x l = .ok .nothing) →
        ∃ t, exec p.1 s = .next t ∧ t.mem = s.mem ∧ (∀ l ∈ ls, ∀ i, i < o.nret → sget {} t.grp.r.v (s.vkey l (x.d.toNat + i)) = {}) ∧
          (s.countedFlag x.flag = none → o.acquires = false → t.flights = s.flights ∧ t.cur.pc = (s.cur.advance x.bytes).pc)) ∧
      ((∀ l ∈ ls, s.lands o x l = .ok .miss) →
        ∃ t k, exec p.1 s = .next t ∧ t.cur.st = .parked k ∧ k.why = .walk ∧ k.instr = p.1 ∧ k.serial = serial ∧ k.lanes = maskOfList ls ∧ k.rec_ = y ∧
          t.mem = s.mem ∧ t.flights = s.flights) ∧
      (o.sub = 0 → o.acquires = false → ls.length ≤ s.entriesFree core → (o.releases = true → s.releaseMet s.unitRef x.scope serial none = true) →
        ∀ (place : Nat → Place) (line : Nat → L1Line),
          (∀ l ∈ ls, ∃ wr, s.lands o x l = .ok (.found (place l) wr true) ∧ s.unperformedAt (place l) o.w = false ∧ s.l1Line core (place l) = some (line l)) →
          ∃ t new, exec p.1 s = .next t ∧ t.flights = s.flights ++ new ∧ t.mem = s.mem ∧
            List.Forall₂ (fun l f => f.performed = true ∧ f.done = 3 ∧ f.place = place l ∧ f.lane = l ∧ f.returned = false ∧
              f.result = loadValue o.signExt o.w (natOfBytes (((line l).bytes.drop ((place l).coords.2.2 % 128)).take o.w))) ls new) ∧
      (o.sub = 1 ∨ o.sub = 3 ∨ o.sub = 7 → ls.length ≤ s.entriesFree core → s.grp.key.stream = s.team.stream → s.joinHeld s.grp.key.stream x.chan serial = false →
        ∀ place : Nat → Place,
          (∀ l ∈ ls, (∃ wr l1, s.lands o x l = .ok (.found (place l) wr l1)) ∧ s.lostDev (place l) = false ∧ (o.releases = true → s.releaseMet s.unitRef x.scope
            serial (if s.travels o (place l) then some (s.keyFor x (place l)) else none) = true)) →
          (∃ l ∈ ls, s.travels o (place l) = true) →
          (∀ l ∈ ls, s.travels o (place l) = true → s.queuedKey (s.keyFor x (place l)) serial = false ∧
            ∃ e, chanFind (s.core core).chans (s.keyFor x (place l)) = some e ∧ 64 ≤ e.unacked) →
          ∃ t k new, exec p.1 s = .next t ∧ t.cur.st = .parked k ∧ k.why = .window ∧ k.instr = p.1 ∧ k.serial = serial ∧
            k.lanes = maskOfList (ls.filter fun l => s.travels o (place l)) ∧ t.mem = s.mem ∧ t.flights = s.flights ++ new ∧
            Flies s s.vreg o x serial place (ls.filter fun l => !s.travels o (place l)) new) ∧
      ∀ l q wr l1, ls = [l] → s.lands o x l = .ok (.found q wr l1) → q.onCore core = false → s.lostDev q = false →
        let key : ChanKey := ⟨s.team.stream, x.chan, s.dieId q⟩
        let slotted : Bool := o.sub == 4 || ((o.sub == 5 || o.sub == 6) && lySpace y == 3)
        (o.sub ≠ 0 → (o.releases = true → s.releaseMet s.unitRef x.scope serial (some key) = true) →
          (slotted = true → (s.freeSlot s.team x.chan).isSome = true ∧ s.requestsHeld core < 8192) → (slotted = false → 0 < s.entriesFree core) →
          s.joinHeld s.grp.key.stream x.chan serial = false → s.grp.key.stream = s.team.stream → s.queuedKey key serial = false →
          ∀ seq u, s.stamp.takeSeq core key = .ok (seq, u) →
            ∃ t f, exec p.1 s = .next t ∧ Adds s t f ∧ IsAccess s s.vreg o x serial l q f ∧ f.chan = some x.chan ∧ f.key = some key ∧
              f.seq = some seq ∧ f.request.isSome = slotted ∧ f.slot.isSome = slotted ∧ t.mem = s.mem ∧
              (o.acquires = false ∨ o.kind.returns = true → t.cores = u.cores)) ∧
        (o.sub = 0 → 0 < s.entriesFree core → (o.releases = true → s.releaseMet s.unitRef x.scope serial none = true) →
          (o.acquires = true ∨ l1 = false ∨ s.unperformedAt q o.w = true ∨ s.l1Line core q = none) →
            ∃ t f, exec p.1 s = .next t ∧ Adds s t f ∧ IsAccess s s.vreg o x serial l q f ∧ f.key = none ∧ t.mem = s.mem)

/-- R66, R271 (03, 12), R145 (06): LDFE serves its lanes in ascending order, each in one step, while the granule of the next is full, no earlier lane of its own has
emptied it, and no consuming access that arrived before waits there; .CLR empties the granules of the lanes served. It parks for the rest on the granule of the
first of them, with a request entry, for which it waits where none is free, and goes on when that granule is full and its turn has come, also while a gate
call holds it. R278, R279 and R227: PREF
changes no value, and INVL drops the lines that its lanes name; each register outside the region costs their lanes four cycles. -/
def Obligations.FullEmptyLoads : Prop :=
  (∀ (x : Args) (s : State),
    let n := widthRegs x.width
    let clr := x.q.getLsbD 0
    let o : MemOp := ⟨2, widthBytes x.width, 0, if clr then .ldfeClr else .ldfeKeep, n, n, x.width == 1 || x.width == 3⟩
    let place (l c k : Nat) : Prop := ∃ wr l1, s.lands o x l = .ok (.found (.spad c k) wr l1)
    let empties (c k g : Nat) : Prop := clr = true ∧ g ∈ blocksOf 16 (spadKey c k) o.w
    Issues s o x → (∀ f ∈ s.flights, f.performed = true) → (∀ l ∈ s.lanesFor x, ∃ c k, place l c k) →
    (s.entriesFree s.grp.core = 0 → ∃ t p, exec (.ldfe x) s = .next t ∧ t.cur.st = .parked p ∧ p.why = .requestEntry ∧ p.lanes = maskOfList (s.lanesFor x) ∧
      t.mem = s.mem) ∧
    (0 < s.entriesFree s.grp.core → ∀ served rest : List Nat, s.lanesFor x = served ++ rest →
      (∀ (i : Nat) (l : Nat), served[i]? = some l → ∀ c k, place l c k → s.mem.isFull c k = true ∧ s.earlierAt (granKey c k) (s.serial + 2) = false ∧
        ∀ (j : Nat) (m : Nat), j < i → served[j]? = some m → ∀ c2 k2, place m c2 k2 → ¬ empties c2 k2 (granKey c k)) →
      (∀ l, rest.head? = some l → ∀ c k, place l c k → s.mem.isFull c k = false ∨ s.earlierAt (granKey c k) (s.serial + 2) = true ∨
        ∃ m ∈ served, ∃ c2 k2, place m c2 k2 ∧ empties c2 k2 (granKey c k)) →
      ∃ t, exec (.ldfe x) s = .next t ∧
        (∀ l ∈ served, ∀ c k, place l c k → ∀ i, i < n → t.vreg l (x.d.toNat + i) =
          ⟨BitVec.ofNat 32 (loadValue o.signExt o.w (s.mem.readSpad c k o.w) / 2 ^ (32 * i)), s.mem.spadBad c k o.w⟩) ∧
        t.mem = { s.mem with full := t.mem.full } ∧
        (∀ g, sget false t.mem.full g = true ↔ sget false s.mem.full g = true ∧ ∀ l ∈ served, ∀ c k, place l c k → ¬ empties c k g) ∧
        (s.countedFlag x.flag = none → t.flights = s.flights) ∧
        (rest = [] → t.cur.pc = (s.cur.advance x.bytes).pc) ∧
        ∀ l, rest.head? = some l → ∀ c k, place l c k →
          ∃ p, t.cur.st = .parked p ∧ p.why = .ldfe ∧ p.instr = .ldfe x ∧ p.serial = s.serial + 1 ∧ p.lanes = maskOfList rest ∧ p.aux = granKey c k)) ∧
  (∀ (u : UnitRef) (s t : State) (p : Parked) (x : Args),
    ∀ e ∈ ([(.ldfeWake u, .ldfe, p.arrived), (.requestEntryResume u, .requestEntry, t.serial + 1)] : List (Instr × ParkWhy × Nat)),
    WaitsOn s u e.2.1 t p → p.instr = .ldfe x → (e.2.1 = .requestEntry → t.grp.holds t.cur = false ∧ 0 < t.entriesFree t.grp.core) →
    let n := widthRegs x.width
    let clr := x.q.getLsbD 0
    let o : MemOp := ⟨2, widthBytes x.width, 0, if clr then .ldfeClr else .ldfeKeep, n, n, x.width == 1 || x.width == 3⟩
    let own := t.withFrames (t.grp.ownFrames t.cur)
    ∀ l c k wr l1, lanesOf p.lanes = [l] → (t.grp.holds t.cur = true ∨ t.walkChecks (p.job o x) [l] = none) →
      own.target (p.job o x) l = .ok (.found (.spad c k) wr l1) →
      ((t.mem.isFull c k = false ∨ t.earlierAt (granKey c k) e.2.2 = true) →
        (e.2.1 = .ldfe → exec e.1 s = .next s) ∧
        (e.2.1 = .requestEntry → ∃ r q, exec e.1 s = .next r ∧ r.cur.st = .parked q ∧ q.why = .ldfe ∧ q.instr = .ldfe x ∧ q.serial = p.serial ∧
          q.lanes = maskOfList [l] ∧ q.aux = granKey c k ∧ r.mem = t.mem)) ∧
      (t.mem.isFull c k = true → t.earlierAt (granKey c k) e.2.2 = false →
        ∃ r, exec e.1 s = .next r ∧ r.cur.pc = (t.cur.advance x.bytes).pc ∧ r.cur.st = t.readyState ∧ r.mem = { t.mem with full := r.mem.full } ∧
          (∀ i, i < n → sget {} r.grp.r.v (own.vkey l (x.d.toNat + i)) =
            ⟨BitVec.ofNat 32 (loadValue o.signExt o.w (t.mem.readSpad c k o.w) / 2 ^ (32 * i)), t.mem.spadBad c k o.w⟩) ∧
          (∀ g, sget false r.mem.full g = (sget false t.mem.full g && !(clr && decide (g ∈ blocksOf 16 (spadKey c k) o.w)))))) ∧
  ∀ (x : Args) (s : State),
    let regs := hintRegs s x
    let ls := s.lanesFor x
    (s.Free regs → s.Clean ls regs →
      (∃ t, exec (.pref x) s = .next t ∧ t = { s.completes x.bytes (s.laneCost 1 regs) s.grp.r with cores := t.cores }) ∧
      (x.q.getLsbD 0 = false → ∃ t, exec (.invl x) s = .next t ∧ t = { s.completes x.bytes (s.laneCost 1 regs) s.grp.r with cores := t.cores } ∧
        ∀ l ∈ ls, ∀ p l1, s.hintPlace x l = some (p, l1) → t.l1Line s.grp.core p = none)) ∧
    (x.q.getLsbD 0 = true → ∃ t, exec (.invl x) s = .next t ∧ t = { s.completes x.bytes (s.laneCost 1 []) s.grp.r with cores := t.cores } ∧
      (ls ≠ [] → (t.core s.grp.core).l1 = []))

/-- R78, R85 and R269 to R276 (04, 12), R72 (03), R335 and R337 (14), R415 (23): an access is performed once, at its place: what a load delivers, what a store, an
atomic and a compare-and-swap leave, the full bits that a store from another core and STFE set, and nothing else in memory; an ordinary store that races with
updates of a barrier object changes nothing outside that object; an access to the fabric joins the egress when the retransmit buffer has room for its packet,
a write to the host its posted order, and one to a host whose link is down or Insecure is discarded. Its data then reaches its registers. -/
def Obligations.MemoryPerformed : Prop :=
  (∀ (s : State) (f : Flight), s.flight? f.id = some f → s.mayPerform f = true → f.reissue = false →
    let races (c k : Nat) : Bool := (f.kind == .store || f.kind == .stfe) && (f.races || s.barUpdatePending f c (k / 32 * 32))
    (∀ c k, f.place = .spad c k → races c k = true → ∃ t, exec (.accessPerformed f.id) s = .next t ∧
      (∀ i, i < spadKey c (k / 32 * 32) ∨ spadKey c (k / 32 * 32) + 32 ≤ i → i < spadKey c k ∨ spadKey c k + f.width ≤ i →
        sget 0 t.mem.spad i = sget 0 s.mem.spad i)) ∧
    (∀ c k, f.place = .spad c k → races c k = false →
      let old := s.mem.readSpad c k f.width
      ∃ t, exec (.accessPerformed f.id) s = .next t ∧
        t.mem.readSpad c k f.width = ((f.kind.newValue f.width old f.data f.cmp).getD old) % 256 ^ f.width ∧
        (∀ i, i < spadKey c k ∨ spadKey c k + f.width ≤ i → sget 0 t.mem.spad i = sget 0 s.mem.spad i) ∧
        (∀ g, sget false t.mem.full g =
          (sget false s.mem.full g || (f.kind.writes && (f.remote || f.kind == .stfe) && decide (g ∈ blocksOf 16 (spadKey c k) f.width)))) ∧
        t.mem.dram = s.mem.dram ∧ t.mem.host = s.mem.host ∧ t.mem.pilot = s.mem.pilot ∧
        (f.kind.returns = true → f.returned = false →
          ∃ g ∈ t.flights, g.id = f.id ∧ g.performed = true ∧ g.result = loadValue f.signExt f.width old ∧ g.rpoison = s.mem.spadBad c k f.width)) ∧
    (∀ a, f.place = .dram a →
      let old := s.mem.readDram a f.width
      ∃ t, exec (.accessPerformed f.id) s = .next t ∧
        t.mem.readDram a f.width = ((f.kind.newValue f.width old f.data f.cmp).getD old) % 256 ^ f.width ∧
        (∀ i, i < a ∨ a + f.width ≤ i → sget 0 t.mem.dram i = sget 0 s.mem.dram i) ∧
        t.mem = { s.mem with dram := t.mem.dram, dramPoison := t.mem.dramPoison } ∧
        (f.kind.returns = true → f.returned = false →
          ∃ g ∈ t.flights, g.id = f.id ∧ g.performed = true ∧ g.result = loadValue f.signExt f.width old ∧ g.rpoison = s.mem.dramBad a f.width)) ∧
    (∀ a, f.place = .reg a → ∃ t, exec (.accessPerformed f.id) s = .next t ∧ t.mem = s.mem ∧
      (f.kind.returns = true → f.returned = false →
        ∃ g ∈ t.flights, g.id = f.id ∧ g.performed = true ∧ g.result = loadValue f.signExt f.width (s.readWindow a f.width).1)) ∧
    (∀ a, f.place = .host a → f.poison = false →
      (s.port.up = true → s.linkOpen f.part = true → ∃ t, exec (.accessPerformed f.id) s = .next t ∧
        t.mem.readHost a f.width = ((f.kind.newValue f.width (s.mem.readHost a f.width) f.data f.cmp).getD (s.mem.readHost a f.width)) % 256 ^ f.width ∧
        (∀ i, i < a ∨ a + f.width ≤ i → sget 0 t.mem.host i = sget 0 s.mem.host i) ∧ t.mem = { s.mem with host := t.mem.host } ∧
        t.port.posted = s.port.posted ++ [.access f.id]) ∧
      ((s.port.up = false ∨ s.linkOpen f.part = false) → ∃ t, exec (.accessPerformed f.id) s = .next t ∧ t.mem = s.mem ∧ t.port = s.port)) ∧
    (∀ d g k, f.place = .fabric d g k → f.done = 0 → f.key ≠ none →
      let p := s.egressPacket f
      let used := ((s.iod.out.filter fun o => decide (o.packet.kind ≤ 4)).map fun o => 32 + (o.packet.payload.length + 31) / 32 * 32).sum
      (16 * 2 ^ 20 < used + (32 + (p.payload.length + 31) / 32 * 32) → exec (.accessPerformed f.id) s = .next s) ∧
      (used + (32 + (p.payload.length + 31) / 32 * 32) ≤ 16 * 2 ^ 20 →
        ∃ t out, exec (.accessPerformed f.id) s = .next t ∧ t.iod.out = s.iod.out ++ [out] ∧ out.dest = d ∧ out.packet = p ∧ p.segment = g ∧
          p.stream = f.who.group.stream ∧ t.mem = s.mem ∧
          ∀ fs : List Flight, fs.Perm (s.flights.filter fun h => decide (h.key = f.key) && decide (h.seq = f.seq) && !h.performed && decide (h.done = 0)) →
            fs.Pairwise (fun a b => a.place.segOff.2 < b.place.segOff.2) →
            p.offset = (fs.headD f).place.segOff.2 ∧ (∀ a ∈ fs, ∃ h ∈ t.flights, h.id = a.id ∧ h.done = 1 ∧ h.place = a.place ∧ h.seq = a.seq) ∧
            (f.kind = .store → p.kind = 0 ∧ p.length = (fs.map fun h => h.width).sum ∧ p.payload = fs.flatMap fun h => bytesOf h.data h.width) ∧
            (f.kind = .load → ∀ h, fs.getLast? = some h → (fs.all fun a => decide (a.place.segOff.2 + a.width ≤ h.place.segOff.2 + h.width)) = true →
              p.kind = 1 ∧ p.length = h.place.segOff.2 + h.width - p.offset)))) ∧
  ∀ (s : State) (f : Flight) (g : Group) (d : Nat), s.flight? f.id = some f → f.kind.returns = true → f.performed = true →
    f.returned = false → f.copy = none → (∀ T, s.team? f.who.group.stream = some T → T.st = .admitted) → s.group? f.who.group = some g → f.dst = some d →
    ∃ t h, exec (.memDataReturn f.id) s = .next t ∧ t.mem = s.mem ∧ t.group? f.who.group = some h ∧
      (∀ i, i < f.nregs → sget {} h.r.v (f.lane * 256 + d + i) = ⟨BitVec.ofNat 32 (f.result / 2 ^ (32 * i)), f.rpoison⟩) ∧
      ∀ k, (∀ i, i < f.nregs → k ≠ f.lane * 256 + d + i) → sget {} h.r.v k = sget {} g.r.v k

/-- R59, R84, R86, R88, R89, R91 and R92 (03, 04), R264 (12): a parked MEM instruction goes on when what it waits for is there: the accesses of its lanes are then
in flight, with the sources that they had when it issued, in packets with sequence numbers where they travel on a channel, and the unit goes on behind it, or an
acquire waits for its data; a unit that a gate call holds issues nothing; an acknowledgement frees the window and completes the packets that it covers; a held access takes its number when its JOIN is met. -/
def Obligations.MemoryResumptions : Prop :=
  (∀ (u : UnitRef) (s t : State) (p : Parked) (o : MemOp) (x : Args),
    ∀ e ∈ ([(.tableWalkComplete u, .walk), (.windowResume u, .window), (.replySlotResume u, .replySlot), (.channelTableResume u, .channelTable),
            (.requestEntryResume u, .requestEntry), (.releaseIssue u, .release)] : List (Instr × ParkWhy)),
      WaitsOn s u e.2 t p → memOp p.instr = some (o, x) →
      let j := p.job o x
      (t.grp.holds t.cur = true → exec e.1 s = .next s) ∧
      (t.grp.holds t.cur = false → o.sub ≠ 2 →
        let ls := lanesOf p.lanes
        let v := if e.2 = .walk then (j.vas ls).foldl (fun (w : State) va => w.tlbFill va) t else t
        ls ≠ [] → t.walkChecks j ls = none →
        ∀ (place : Nat → Place) (l1 : Nat → Bool), (∀ l ∈ ls, (∃ wr, v.target j l = .ok (.found (place l) wr (l1 l))) ∧ v.heldBySame (place l) o.w p.serial = false) →
          ((∀ l ∈ ls, v.l1Hit o (place l) (l1 l) = none) → (o.w = 16 → ∀ l ∈ ls, (place l).coords.1 ≠ 4) → t.RoomFor o x p.serial place ls →
            ∃ r new, exec e.1 s = .next r ∧ r.flights = t.flights ++ new ∧ Flies t p.read o x p.serial place ls new ∧ r.mem = t.mem ∧
              (o.acquires = false → r.cur.pc = (t.cur.advance x.bytes).pc ∧ r.cur.st = t.readyState) ∧
              (o.acquires = true → o.kind.returns = true → ∃ k, r.cur.st = .parked k ∧ k.why = .acquire ∧ k.serial = p.serial)) ∧
          (∀ (y : Nat → Nat) (bad : Nat → Bool), (∀ l ∈ ls, v.l1Hit o (place l) (l1 l) = some (y l, bad l)) → ls.length ≤ t.entriesFree t.grp.core →
            (o.releases = true → t.releaseMet t.unitRef x.scope p.serial none = true) →
            ∃ r new, exec e.1 s = .next r ∧ r.flights = t.flights ++ new ∧ r.mem = t.mem ∧ r.cur.pc = (t.cur.advance x.bytes).pc ∧
              List.Forall₂ (fun l f => f.performed = true ∧ f.returned = false ∧ f.place = place l ∧ f.lane = l ∧ f.serial = p.serial ∧
                f.result = loadValue o.signExt o.w (y l) ∧ f.rpoison = bad l) ls new) ∧
          ∀ l, ls = [l] → (place l).onCore t.grp.core = false → t.lostDev (place l) = false →
            let core := t.grp.core
            let key := t.keyFor x (place l)
            (o.releases = true → t.releaseMet t.unitRef x.scope p.serial (if o.channel then some key else none) = true) →
            (o.channel = false → 0 < t.entriesFree core → v.l1Hit o (place l) (l1 l) = none →
              ∃ r f, exec e.1 s = .next r ∧ Adds t r f ∧ IsAccess t p.read o x p.serial l (place l) f ∧ f.chan = none ∧ r.mem = t.mem) ∧
            (o.channel = true → (o.slotted (place l) = true → (t.freeSlot t.team x.chan).isSome = true ∧ t.requestsHeld core < 8192) →
              (o.slotted (place l) = false → 0 < t.entriesFree core) → t.joinHeld t.grp.key.stream x.chan p.serial = false →
              t.grp.key.stream = t.team.stream → t.queuedKey key p.serial = false → ∀ seq w, v.takeSeq core key = .ok (seq, w) →
              ∃ r f, exec e.1 s = .next r ∧ Adds t r f ∧ IsAccess t p.read o x p.serial l (place l) f ∧ f.seq = some seq ∧ f.key = some key ∧ r.mem = t.mem))) ∧
  (∀ (s : State) (key : ChanKey) (ack c : Nat) (e : ChanEntry), s.keyCore key = some c → chanFind (s.core c).chans key = some e →
    let n := (ack + 65536 - e.ackSeq) % 65536
    1 ≤ n → n ≤ e.unacked →
    (s.remoteKey key = true ∧ (key, ack) ∈ s.iod.acks ∨ s.remoteKey key = false ∧ ∀ f ∈ s.flights, inFirst e n f = true → f.performed = true) →
    ∃ t, exec (.ackReceived key ack) s = .next t ∧ t.mem = s.mem ∧
      (t.core c).chans = chanPut (s.core c).chans { e with ackSeq := (e.ackSeq + n) % 65536, unacked := e.unacked - n } ∧
      (∀ f ∈ t.flights, inFirst e n f = true → 2 ≤ f.done) ∧
      (∀ f ∈ t.iod.out, f ∈ s.iod.out ∧ ¬ (f.key = some key ∧ seqDist e f.packet.seq < n ∧ f.packet.kind ≤ 4)) ∧
      ∀ a ∈ t.iod.acks, a ∈ s.iod.acks ∧ (a.1 = key → let m := (a.2 + 65536 - (e.ackSeq + n) % 65536) % 65536; 1 ≤ m ∧ m ≤ e.unacked - n)) ∧
  ∀ (s u : State) (f : Flight) (c seq : Nat) (k : ChanKey) (T : Team), s.flight? f.id = some f → f.chan = some c → f.key = some k → f.seq = none →
    (∀ g ∈ s.flights, g.key = some k → g.seq = none → f.serial < g.serial ∨ f.serial = g.serial ∧ f.id ≤ g.id) → s.team? k.stream = some T → T.st = .admitted →
    s.joinHeld k.stream c f.serial = false → s.takeSeq f.core k = .ok (seq, u) →
    ∃ t, exec (.joinHeldRelease f.id) s = .next t ∧ t.flight? f.id = some { f with seq := some seq } ∧ t.cores = u.cores ∧ t.mem = s.mem


/-! ### Copies and matrix instructions -/

/-- R206 (10), R294 (12), R73 and R74 (03), R100 (04): KICK counts its flag when it issues and queues the request that its record asks for, or parks while
the copy queue is full, and faults on an unaligned address, a poisoned record and a forbidden one, and then counts no flag (R378); a request starts by taking the two slots, or is complete with no bytes; a segment's last
element moves its bytes and sets its granule full; a performed segment counts, and the last one ends the request. -/
def Obligations.CopyRequests : Prop :=
  (∀ (x : Args) (s : State), s.guardU x.gp x.gn = true → s.inGate = false → s.CleanS [x.a.toNat] → s.quietCore = true →
    (s.sr x.a.toNat % 64 ≠ 0 → exec (.kick x) s = .next (s.raise ⟨0x0106, s.sr x.a.toNat + 64 * 2 ^ 57⟩)) ∧
    ∀ off, s.kickAddr (s.sr x.a.toNat) = .ok off →
      (s.copyQueueFull s.grp.core = true → ∃ t, exec (.kick x) s = .next t ∧
        ParksOn { s with grp := { s.grp with r := s.grp.r.flagIssue (s.countedFlag x.d.toNat) } } t .kick (.kick x) (s.sr x.a.toNat)) ∧
      let y := BitVec.ofNat 512 (s.mem.readSpad s.grp.core off 64)
      (s.copyQueueFull s.grp.core = false → s.mem.spadBad s.grp.core off 64 = true →
        exec (.kick x) s = .next (s.raise ⟨0x0070, 3 + off * 2 ^ 8⟩)) ∧
      (s.copyQueueFull s.grp.core = false → s.mem.spadBad s.grp.core off 64 = false → s.CopyLegal y →
        ∃ t r, exec (.kick x) s = .next t ∧ (t.core s.grp.core).copies = (s.core s.grp.core).copies ++ [r] ∧ CopyRecord y r ∧
          r.flag = s.countedFlag x.d.toNat ∧ r.stream = s.team.stream ∧ r.who = s.unitRef ∧
          t.grp = { s.grp with r := s.grp.r.flagIssue r.flag } ∧ t.mem = s.mem ∧ t.team = s.team ∧
          t.cur = (s.cur.advance x.bytes).settle (s.cycle + 1)) ∧
      (s.copyQueueFull s.grp.core = false → s.mem.spadBad s.grp.core off 64 = false →
        let reserved : Prop := y.extractLsb' 448 64 = 0 ∧ y.extractLsb' 96 32 = 0 ∧ y.extractLsb' 47 17 = 0
        (¬ reserved → exec (.kick x) s = .next (s.raise ⟨0x0122, 1⟩)) ∧
        (reserved → s.chanAllowed (y.extractLsb' 42 4).toNat = false → exec (.kick x) s = .next (s.raise ⟨0x0122, 2⟩)) ∧
        (reserved → s.chanAllowed (y.extractLsb' 42 4).toNat = true → sget 0 s.team.slots (y.extractLsb' 32 5).toNat = 0 →
          exec (.kick x) s = .next (s.raise ⟨0x0122, 5⟩)))) ∧
  (∀ (u : UnitRef) (s t : State) (p : Parked) (x : Args) (off : Nat), WaitsOn s u .kick t p → p.instr = .kick x →
    t.copyQueueFull t.grp.core = false → t.earlierKick p.serial = false → t.kickAddr p.aux = .ok off → t.mem.spadBad t.grp.core off 64 = false →
    let y := BitVec.ofNat 512 (t.mem.readSpad t.grp.core off 64)
    t.CopyLegal y → ∃ t1 r, exec (.kickQueuePlace u) s = .next t1 ∧ (t1.core t.grp.core).copies = (t.core t.grp.core).copies ++ [r] ∧
      CopyRecord y r ∧ r.flag = t.countedFlag x.d.toNat ∧ t1.mem = t.mem ∧ t1.grp = t.grp ∧ t1.cur.pc = (t.cur.advance x.bytes).pc) ∧
  (∀ (u : UnitRef) (s t : State) (p : Parked) (x : Args) (off : Nat), WaitsOn s u .kick t p → p.instr = .kick x →
    t.copyQueueFull t.grp.core = false → t.earlierKick p.serial = false → t.kickAddr p.aux = .ok off → t.mem.spadBad t.grp.core off 64 = true →
    exec (.kickQueuePlace u) s = .next ((t.flagDone t.grp.key (t.countedFlag x.d.toNat)).raise ⟨0x0070, 3 + off * 2 ^ 8⟩)) ∧
  (∀ (core id : Nat) (s : State) (r : CopyReq), (s.core core).copies.find? (fun q => q.resolved.isNone) = some r → s.copy? core id = some r →
    s.engineRuns r.part = true → r.core = core →
    let fy := sget 0 (s.copyTable r) r.fromSlot
    let dy := sget 0 (s.copyTable r) r.dstSlot
    fy ≠ 0 → dy ≠ 0 → lyEsize fy = lyEsize dy → r.bytes % 2 ^ lyEsize fy = 0 →
      (r.bytes ≠ 0 → ∃ t, exec (.copyRequestStart core id) s = .next t ∧ t.copy? core id = some { r with resolved := some (fy, dy) } ∧
        (∀ j, j ≠ id → t.copy? core j = s.copy? core j) ∧ (∀ c, c ≠ core → t.core c = s.core c) ∧ t = { s with cores := t.cores }) ∧
      (r.bytes = 0 → r.flag = none → (∀ p ∈ s.parts, ∀ b ∈ p.2.bundles, b.toCopy = []) →
        ∃ t, exec (.copyRequestStart core id) s = .next t ∧ t.copy? core id = none ∧ (∀ j, j ≠ id → t.copy? core j = s.copy? core j) ∧
          (∀ c, c ≠ core → t.core c = s.core c) ∧ t = { s with cores := t.cores })) ∧
  (∀ (core id : Nat) (s : State) (r : CopyReq) (fy dy : BitVec 512) (p : Option Place) (q : Option Place), s.copy? core id = some r →
    r.resolved = some (fy, dy) → r.moved + 2 ^ lyEsize fy = r.bytes → s.engineRuns r.part = true → s.copyReady r = true →
    s.elemPlace r fy r.fromSlot r.e false = .ok p → s.elemPlace r dy r.dstSlot r.d true = .ok q →
    let w := 2 ^ lyEsize fy
    let x := (p.map fun a => (s.readPlace a w).1).getD 0
    let moved (t : State) : Prop := t.copy? core id = some { r with e := nextCoord fy r.e, d := nextCoord dy r.d, moved := r.bytes, seg := r.seg + 1,
                                                                    open_ := r.open_ ++ [(r.seg, w)] }
    (q = none → ∃ t, exec (.copySegmentMove core id) s = .next t ∧ moved t ∧ t.mem = s.mem ∧ t.flights = s.flights) ∧
    (∀ o, q = some (.spad core o) → ∃ t, exec (.copySegmentMove core id) s = .next t ∧ moved t ∧ t.mem.readSpad core o w = x % 2 ^ (8 * w) ∧
      t.mem.isFull core o = true ∧ t.mem.dram = s.mem.dram ∧ t.mem.host = s.mem.host ∧ t.flights = s.flights ∧
      ∀ k, k < spadKey core o ∨ spadKey core o + w ≤ k → sget 0 t.mem.spad k = sget 0 s.mem.spad k) ∧
    (∀ a, q = some (.dram a) → 0 < s.entriesFree core → ∃ t f, exec (.copySegmentMove core id) s = .next t ∧ moved t ∧ t.mem = s.mem ∧ t.flights = s.flights ++ [f] ∧
      f.kind = .store ∧ f.place = .dram a ∧ f.width = w ∧ f.data = x ∧ f.chan = some r.chan ∧ f.copy = some (id, r.seg))) ∧
  ∀ (core id : Nat) (s : State) (r : CopyReq) (o : Nat × Nat), s.copy? core id = some r → r.core = core → r.id = id → r.bar = none →
    (r.open_.find? fun a => s.segmentDone core id a.1) = some o →
    let rest := r.open_.filter fun p => decide (p ≠ o)
    ((r.moved < r.bytes ∨ rest ≠ []) → ∃ t, exec (.copySegmentPerformed core id) s = .next t ∧ t.copy? core id = some { r with open_ := rest } ∧
      t = { s with cores := t.cores }) ∧
    (r.bytes ≤ r.moved → rest = [] → r.flag = none → (∀ p ∈ s.parts, ∀ b ∈ p.2.bundles, b.toCopy = []) →
      ∃ t, exec (.copySegmentPerformed core id) s = .next t ∧ t.copy? core id = none ∧ t = { s with cores := t.cores })

/-- R303 to R306, R308, R309, R313 (13): a matrix instruction that passes its vote and its checks enters its context's queue with what R303 captures, and
its flag counts; while 16 entries are queued, or an earlier instruction waits for a place, the unit parks with the entry and queues it when a place
frees; lanes that disagree on the format are FORMAT_DIVERGENCE. An MLOOPJ of one participant queues at once, the first participant of several is
recorded, and the last one queues the joint instruction; a last one that differs from the others, or has no shape to run, discards the record,
and a participant with another n or a recorded part is MATRIX_JOIN. -/
def Obligations.MatrixIssue : Prop :=
  (∀ (x : Args) (s : State) (F : Word),
    let words (n : Nat) : List Word := (List.range n).map fun i => (s.sreg (x.c.toNat + i)).val
    let env := s.spadEnv s.team s.dom none
    let bound := s.team.ctx.isSome
    let cregs (n : Nat) : List Nat := (List.range n).map fun i => x.c.toNat + i
    let queues (i : Instr) (kind : MKind) (am : Nat) (f : Word) (d : List Word) : Prop :=
      (s.placeOpen s.grp.core (s.team.ctx.getD 0) (s.serial + 1) = true → ∃ t e, exec i s = .next t ∧ IsEntry s x kind am f d e ∧ s.matrixQueue t = s.matrixQueue s ++ [e] ∧
        t.mem = s.mem ∧ t.grp = { s.grp with r := s.grp.r.flagIssue (s.countedFlag x.mflag) } ∧ t.cur.pc = (s.cur.advance x.bytes).pc) ∧
      (s.placeOpen s.grp.core (s.team.ctx.getD 0) (s.serial + 1) = false → ∃ t e p, exec i s = .next t ∧ IsEntry s x kind am f d e ∧ t.cur.st = .parked p ∧ p.why = .matrixPlace ∧
        p.instr = i ∧ p.entry = some e ∧ s.matrixQueue t = s.matrixQueue s ∧ t.mem = s.mem)
    let agree : Prop := ∀ l, l < s.grp.lanes → s.cur.mask.getLsbD l = true → (s.vreg l x.d.toNat).val = F
    let n := x.b.toNat / 64 % 4 + 1
    let me := x.b.toNat / 16 % 4
    let tag := x.b.toNat % 16
    (s.placeOpen s.grp.core (s.team.ctx.getD 0) (s.serial + 1) = true → (s.matrixQueue s).length < 16) ∧
    (∀ p ∈ ([(.mloop x, .mloop), (.mrsum x, .mrsum)] : List (Instr × MKind)), MatrixReady s x (s.stepRegs x) [x.d.toNat] (cregs 8) → agree →
      stepChecks p.2 x.amode F.toNat (words 8) bound s.team.tiles = none →
      (∀ e, IsEntry s x p.2 x.amode F (words 8) e → e.operandCheck env = none) → queues p.1 p.2 x.amode F (words 8)) ∧
    (∀ p ∈ ([(.mzero x, .mzero, 1), (.mlda x, .mlda, 4), (.mdrn x, .mdrn, 4)] : List (Instr × MKind × Nat)), MatrixReady s x [] [] (cregs p.2.2) →
      transferChecks p.2.1 (words p.2.2) bound s.team.tiles = none →
      (∀ e, IsEntry s x p.2.1 0 0 (words p.2.2) e → e.operandCheck env = none) → queues p.1 p.2.1 0 0 (words p.2.2)) ∧
    (MatrixReady s x (s.stepRegs x) [x.d.toNat] (cregs 8) → agree → stepChecks .mloop x.amode F.toNat (words 8) bound s.team.tiles = none →
      (∀ e, IsEntry s x .mloop x.amode F (words 8) e → e.operandCheck env = none) →
      (s.team.mjoins.find? fun k => k.tag = tag) = none →
        (n = 1 → (x.amode < 2 ∨ (mShape (mfFusion F.toNat)).1 = 16) → queues (.mloopj x) .mloop x.amode F (words 8)) ∧
        (n ≠ 1 → ∃ t j q, exec (.mloopj x) s = .next t ∧ (t.team.mjoins.find? fun k => k.tag = tag) = some j ∧ j.n = n ∧ j.parts = [q] ∧
          q.p = me ∧ q.who = s.unitRef ∧ q.fmt = F ∧ q.desc = words 8 ∧ s.matrixQueue t = s.matrixQueue s ∧ t.mem = s.mem ∧
          t.grp = { s.grp with r := s.grp.r.flagIssue (s.countedFlag x.mflag) } ∧ t.cur.pc = (s.cur.advance x.bytes).pc)) ∧
    (∀ j, (s.team.mjoins.find? fun k => k.tag = tag) = some j → MatrixReady s x (s.stepRegs x) [x.d.toNat] (cregs 8) →
      (s.discardJoin tag).team.mjoins = (s.team.mjoins.filter fun k => decide (k.tag ≠ tag)) ∧
      let last : Prop := j.n = n ∧ (∀ q ∈ j.parts, q.p ≠ me) ∧ j.parts.length + 1 = n
      let same : Prop := ∀ q ∈ j.parts, q.fmt = F ∧ q.desc = words 8
      let checked : Prop := agree ∧ stepChecks .mloop x.amode F.toNat (words 8) bound s.team.tiles = none
      let placed : Prop := ∀ e, IsEntry s x .mloop x.amode F (words 8) e → e.operandCheck env = none
      let shape : Prop := x.amode < 2 ∨ (mShape (mfFusion F.toNat)).1 = 16 * n
      let breaks (t : State) (why : Nat) : Prop := exec (.mloopj x) s = .next (t.raise ⟨0x0064, tag + (n - 1) * 2 ^ 4 + me * 2 ^ 6 + why * 2 ^ 8⟩)
      (last → agree → ¬ same → s.waitsRelease = false → ∀ pc, s.runEnd s.cur.pc.toNat s.cur.run.left = .ok pc →
        exec (.mloopj x) s = .next ((s.discardJoin tag).deliver 0x0001 (BitVec.ofNat 64 pc) (s.costM [x.d.toNat]))) ∧
      (last → same → checked → placed → shape → queues (.mloopj x) .mloop x.amode F (words 8)) ∧
      (last → same → checked → ¬ shape → breaks (s.discardJoin tag) 3) ∧
      (checked → j.n ≠ n → breaks s 1) ∧
      (checked → j.n = n → (∃ q ∈ j.parts, q.p = me) → breaks s 2)) ∧
    (MatrixReady s x (s.stepRegs x) [x.d.toNat] (cregs 8) →
      (∃ l m, l < s.grp.lanes ∧ m < s.grp.lanes ∧ s.cur.mask.getLsbD l = true ∧ s.cur.mask.getLsbD m = true ∧
        (s.vreg l x.d.toNat).val ≠ (s.vreg m x.d.toNat).val) →
      (s.waitsRelease = true → ∀ i ∈ ([.mloop x, .mrsum x, .mloopj x] : List Instr), exec i s = .next s.stall) ∧
      (s.waitsRelease = false → ∀ pc, s.runEnd s.cur.pc.toNat s.cur.run.left = .ok pc →
        let traps (t : State) : Host.Outcome State Fault Refusal := .next (t.deliver 0x0001 (BitVec.ofNat 64 pc) (s.costM [x.d.toNat]))
        exec (.mloop x) s = traps s ∧ exec (.mrsum x) s = traps s ∧
        ((s.team.mjoins.find? fun k => k.tag = tag) = none → exec (.mloopj x) s = traps s) ∧
        ∀ j, (s.team.mjoins.find? fun k => k.tag = tag) = some j → j.n = n → (∀ q ∈ j.parts, q.p ≠ me) →
          exec (.mloopj x) s = traps (if j.parts.length + 1 = n then s.discardJoin tag else s)))) ∧
  ∀ (u : UnitRef) (s t : State) (p : Parked) (e : MEntry), WaitsOn s u .matrixPlace t p → p.entry = some e →
    t.placeOpen t.grp.core (t.team.ctx.getD 0) e.id = true →
    ∃ r, exec (.matrixQueuePlace u) s = .next r ∧
      t.matrixQueue r = t.matrixQueue t ++ [{ e with core := t.grp.core, tile0 := t.team.tile0 }] ∧ r.mem = t.mem ∧
      r.cur.pc = (t.cur.advance p.instr.size).pc

/-- R317 to R320 (13): MOPF goes on once the unit's earlier on-core accesses are performed, and the writes before it, of registers and of the slices, then count as
seen by its later matrix instructions; MWAIT goes on once no earlier matrix instruction of the group is unfinished; each parks until then. MQRY reads Table 108. -/
def Obligations.MatrixWaits : Prop :=
  (∀ (x : Args) (s : State), s.guardU x.gp x.gn = true →
    let done := { s.completes x.bytes 1 s.grp.r with serial := s.serial + 1 }
    (s.inGate = false →
      (s.localDone s.unitRef (s.serial + 1) = true →
        exec (.mopf x) s = .next { done with cur := { done.cur with mopfV := s.grp.r.vw.count, mopfW := s.mem.log.count, wrote := [] } }) ∧
      (s.localDone s.unitRef (s.serial + 1) = false → ∃ t, exec (.mopf x) s = .next t ∧ ParksOn s t .mopf (.mopf x) 0)) ∧
    (s.matrixBusy s.grp.key (s.serial + 1) = false → exec (.mwait x) s = .next done) ∧
    (s.matrixBusy s.grp.key (s.serial + 1) = true → ∃ t, exec (.mwait x) s = .next t ∧ ParksOn s t .mwait (.mwait x) 0) ∧
    ∃ t, exec (.mqry x) s = .next t ∧ OnlyS s t x [x.d.toNat] ∧
      (x.d.toNat < 128 → (x.a.toNat = 0 → (t.sreg x.d.toNat).val.toNat = (s.team.tiles * 2 ^ 16 + (s.team.ctx.map fun c => 2 + c).getD 0) % 2 ^ 32) ∧
        (x.a.toNat = 2 → (t.sreg x.d.toNat).val.toNat = s.team.tileSteps % 2 ^ 32) ∧
        (x.a.toNat = 1 → ∀ c, s.team.ctx = some c → (t.sreg x.d.toNat).val.toNat =
          (min (s.matrixCount s.grp.key) 31 + (s.matrixQueue s).length * 2 ^ 8 +
            if (s.latch? s.grp.core c).any fun l => l.1 == s.grp.key then 2 ^ 16 else 0) % 2 ^ 32))) ∧
  (∀ (u : UnitRef) (s t : State) (p : Parked), WaitsOn s u .mopf t p → t.localDone u p.serial = true →
    ∃ r, exec (.mopfComplete u) s = .next r ∧
      Resumes { t with cur := { t.cur with mopfV := t.grp.r.vw.count, mopfW := t.mem.log.count, wrote := [] } } r p.instr.size) ∧
  ∀ (u : UnitRef) (s t : State) (p : Parked), WaitsOn s u .mwait t p → t.matrixBusy t.grp.key p.serial = false →
    ∃ r, exec (.mwaitComplete u) s = .next r ∧ Resumes t r p.instr.size

/-- R295 to R300, R306 to R309, R311, R312, R315, R316 and Table 104 (13), R161 and R162 (07): a queued instruction starts in order, and takes register A, from the lanes
of its participants, or from the latch; a tile step of MLOOP or MRSUM in any format and shape adds to each element of its tiles what R306 or R309 says: an
exact integer sum that wraps or saturates, or one R162 step; it empties the granules that it took, advances its coordinates and moves on; a stepping
instruction leaves the queue after its last step; MZERO clears its tiles, MLDA loads them from its data slot and MDRN writes them there, raw or requantised. -/
def Obligations.MatrixEngine : Prop :=
  (∀ (core ctx id : Nat) (s : State) (e : MEntry), s.mentry? core ctx id = some e → s.engineRuns e.part = true →
    let q := s.ctxQueue core ctx
    let before := earlier q id
    e.started = false → (∀ f ∈ before, f.started = true) →
    (e.kind.steps = true → (∀ f ∈ before, f.overlaps e = false) ∧
      (e.fmt.extractLsb' 12 2 ≠ 0 → ∀ f ∈ q, f.running = false) ∧
      (e.fmt.extractLsb' 12 2 = 0 → (∀ f ∈ q, f.running = true → f.fmt.extractLsb' 12 2 = 0) ∧ (q.filter fun f => f.running).length < 4)) →
    (e.kind.steps = false → ∀ f ∈ before, f.kind.steps = true) →
    let M := if e.fmt.extractLsb' 12 2 = 2 then 32 else if e.fmt.extractLsb' 12 2 = 3 then 64 else 16
    let steps := ((e.desc.getD 0 0).extractLsb' 0 12).toNat + 1
    let x := (s.core core).ctx ctx
    let named : Option (GKey × Nat × Nat × Nat) := e.parts.head?.map fun p => (p.who.group, p.areg, M, steps)
    let hit : Prop := e.amode = 3 ∧ s.latch? core ctx = named ∧ named ≠ none ∧ x.latchData ≠ []
    ∃ t e1, exec (.matrixInstructionStart core ctx id) s = .next t ∧ t.mentry? core ctx id = some e1 ∧ e1.started = true ∧
      (e1.kind, e1.parts, e1.fmt, e1.desc, e1.amode) = (e.kind, e.parts, e.fmt, e.desc, e.amode) ∧
      (e1.aslot, e1.bslot, e1.ca, e1.cb, e1.step) = (e.aslot, e.bslot, e.ca, e.cb, e.step) ∧
      (e.kind.steps = true → (e.amode = 2 ∨ e.amode = 3 ∧ ¬ hit) → ∀ i j p l, i < M → j < steps → HoldsRow e i p l → ∀ g, s.group? p.who.group = some g →
        (∀ w, w < 4 → g.r.vw.since (l * 256 + p.areg + 4 * j + w) p.vat = false) →
        (e1.adata.getD (j * M + i) {}).val = if l < g.lanes ∧ p.mask.getLsbD l = true then
          ((List.range 4).map fun w => (sget ({} : PWord) g.r.v (l * 256 + p.areg + 4 * j + w)).val.toNat * 2 ^ (32 * w)).sum else 0) ∧
      (e.kind.steps = true → hit → (∀ i j p l g w, HoldsRow e i p l → s.group? p.who.group = some g → w < 4 →
        g.r.vw.since (l * 256 + p.areg + 4 * j + w) x.latchAt = false) → e1.adata = x.latchData) ∧
      (e.kind.steps = true → e.amode = 3 → e.took = false → ((t.core core).ctx ctx).latch = if named = none then x.latch else named) ∧
      (∀ j, j ≠ id → t.mentry? core ctx j = s.mentry? core ctx j) ∧ t = { s with cores := t.cores, free := t.free, serial := t.serial }) ∧
  (∀ (core ctx : Nat) (s : State) (e : MEntry) (b : Blocks), s.mentry? core ctx e.id = some e →
    ((s.ctxQueue core ctx).filter fun f => s.stepReady f) = [e] → (∀ f ∈ s.ctxQueue core (1 - ctx), s.stepReady f = false) →
    e.kind.steps = true → e.core = core → s.stepBlocks e = .ok b →
    let af := (e.fmt.extractLsb' 0 4).toNat
    let bf := (e.fmt.extractLsb' 4 4).toNat
    let acc := (e.fmt.extractLsb' 10 2).toNat
    ∀ F ∈ [(0, 16, 16), (1, 16, 64), (2, 32, 32), (3, 64, 16)], (e.fmt.extractLsb' 12 2).toNat = F.1 →
    ∀ K ∈ [(0, 16), (1, 32), (2, 16), (3, 16), (4, 8), (5, 8)], af = K.1 →
    let M := F.2.1
    let N := F.2.2
    let w := 128 / K.2
    let t0 := e.tile0 + ((e.desc.getD 0 0).extractLsb' 16 9).toNat
    let tiles := if F.1 = 0 then 1 else 4
    let old (k : Nat) : PWord := sget {} ((s.core core).ctx ctx).tiles k
    let row (i : Nat) : Nat := if e.amode < 2 then s.chunkIn core b.a i else (e.adata.getD (e.step * M + i) {}).val
    let el (c n : Nat) : Nat := c / 2 ^ (w * n) % 2 ^ w
    let int (signed : Bool) (c n : Nat) : Int := if signed then (BitVec.ofNat w (el c n)).toInt else (el c n : Int)
    let takesA := decide (e.amode = 1)
    (∀ o ∈ (b.a.getD []).flatten, s.mem.spadBad core o 1 = false ∧ s.Current e takesA (spadKey core o)) →
    (∀ o ∈ (b.b.getD []).flatten, s.mem.spadBad core o 1 = false ∧ s.Current e true (spadKey core o)) →
    (2 ≤ e.amode → ∀ i, i < M → (e.adata.getD (e.step * M + i) {}).poison = none ∧
      (e.hit = true ∨ ∀ n, n < K.2 → s.rowWritten e e.step i (fun p => p.vat) n = false)) →
    (∀ k, t0 * 256 ≤ k → k < (t0 + tiles) * 256 → (old k).poison = false) →
    ∃ t, exec (.tileStep core ctx) s = .next t ∧
      let new (k : Nat) : PWord := sget {} ((t.core core).ctx ctx).tiles k
      (∀ i m, i < M → m < N →
        let k := (t0 + outTile F.1 i m) * 256 + 16 * (i % 16) + m % 16
        let P : Int := if e.kind = .mrsum then
            ((e.desc.getD 1 0).extractLsb' 16 16).toInt * ((List.range K.2).map fun n => int (e.fmt.getLsbD 8) (row i) n).sum
          else ((List.range K.2).map fun n => int (e.fmt.getLsbD 8) (row i) n * int (e.fmt.getLsbD 9) (s.chunkIn core b.b m) n).sum
        (af ≤ 1 → acc = 0 → new k = ⟨(old k).val + BitVec.ofInt 32 P, false⟩) ∧
        (af ≤ 1 → acc = 1 → new k = ⟨satBits 32 ((old k).val.toInt + P), false⟩) ∧
        (acc = 2 → e.kind = .mloop → ∀ fa ∈ [(2, fE4M3), (3, fE5M2), (4, fF16), (5, fBF16)], fa.1 = af →
          ∀ fb ∈ [(2, fE4M3), (3, fE5M2), (4, fF16), (5, fBF16)], fb.1 = bf → fa.2.width = fb.2.width →
          (new k).poison = false ∧ FdpResult ((List.range K.2).map fun n => (fpRead fa.2 (el (row i) n)).prod (fpRead fb.2 (el (s.chunkIn core b.b m) n)))
            (old k).val (new k).val)) ∧
      (∀ k, k / 256 < t0 ∨ t0 + tiles ≤ k / 256 → new k = old k) ∧
      (∀ g ∈ b.takes, t.mem.isFull core g = false) ∧ t.mem = { s.mem with full := t.mem.full } ∧
      ∃ f, t.mentry? core ctx e.id = some f ∧ f.step = e.step + 1 ∧
        f.ca = (if e.amode ≤ 1 then advancedBy e.aslot (e.desc.getD 6 0) e.ca else e.ca) ∧
        f.cb = (if e.kind = .mloop then advancedBy e.bslot (e.desc.getD 7 0) e.cb else e.cb)) ∧
  (∀ (core ctx id : Nat) (s : State) (e : MEntry), s.mentry? core ctx id = some e → e.core = core → e.id = id → s.ctxFinishes core ctx e.part = true →
    e.started = true → (∀ p ∈ e.parts, p.flag = none) →
    let gone (t : State) : Prop := t.mentry? core ctx id = none ∧ ∀ j, j ≠ id → (t.mentry? core ctx j).isSome = (s.mentry? core ctx j).isSome
    (e.kind.steps = true → e.steps ≤ e.step → ∃ t, exec (.matrixInstructionCompletion core ctx id) s = .next t ∧ gone t ∧ t.mem = s.mem ∧
      (e.disturbed = [] → ((t.core core).ctx ctx).tiles = ((s.core core).ctx ctx).tiles)) ∧
    (e.kind = .mzero → e.disturbed = [] → ∃ t, exec (.matrixTransferCompletion core ctx id) s = .next t ∧ gone t ∧ t.mem = s.mem ∧
      ∀ k, sget ({} : PWord) ((t.core core).ctx ctx).tiles k =
        if e.tileRange.1 ≤ k / 256 ∧ k / 256 < e.tileRange.1 + e.tileRange.2 then {} else sget {} ((s.core core).ctx ctx).tiles k) ∧
    ∀ cells, transferCells (s.entryEnv e) e.aslot e.desc = .ok cells → e.disturbed = [] →
      let key (c : MCell) : Nat := (e.tileRange.1 + c.tile) * 256 + 16 * c.r + c.j
      (e.kind = .mlda → mtMode e.desc = 0 → (∀ c ∈ cells, ∀ o, c.off = some o → s.mem.spadBad core o 4 = false ∧
          ∀ k, k < 4 → s.Current e false (spadKey core (o + k))) →
        ∃ t, exec (.matrixTransferCompletion core ctx id) s = .next t ∧ gone t ∧ t.mem = s.mem ∧
          ∀ c ∈ cells, ∀ o, c.off = some o → (sget ({} : PWord) ((t.core core).ctx ctx).tiles (key c)).val.toNat = s.mem.readSpad core o 4) ∧
      (e.kind = .mdrn → mtMode e.desc = 0 →
        (∀ c ∈ cells, ∀ d ∈ cells, ∀ o p, c.off = some o → d.off = some p → c = d ∨ o + 4 ≤ p ∨ p + 4 ≤ o) →
        ∃ t, exec (.matrixTransferCompletion core ctx id) s = .next t ∧ gone t ∧ t.mem.dram = s.mem.dram ∧
          ((t.core core).ctx ctx).tiles = ((s.core core).ctx ctx).tiles ∧
          ∀ c ∈ cells, ∀ o, c.off = some o → t.mem.readSpad core o 4 = (sget ({} : PWord) ((s.core core).ctx ctx).tiles (key c)).val.toNat ∧
            t.mem.isFull core o = true) ∧
      (e.kind = .mdrn → ∀ mode ∈ ([(1, -128, 127), (2, 0, 255)] : List (Nat × Int × Int)), ((e.desc.getD 1 0).extractLsb' 8 3).toNat = mode.1 →
        ∀ ps, paramCells (s.entryEnv e) e.bslot e.desc = .ok ps →
        (∀ c ∈ cells, ∀ d ∈ cells, ∀ o, c.off = some o → d.off = some o → c = d) →
        (∀ c ∈ cells, (sget ({} : PWord) ((s.core core).ctx ctx).tiles (key c)).poison = false) →
        (∀ o, some o ∈ ps → s.mem.spadBad core o 8 = false ∧ ∀ k, k < 8 → s.Current e false (spadKey core (o + k))) →
        ∃ t, exec (.matrixTransferCompletion core ctx id) s = .next t ∧ gone t ∧ t.mem.dram = s.mem.dram ∧
          ((t.core core).ctx ctx).tiles = ((s.core core).ctx ctx).tiles ∧
          ∀ c ∈ cells, ∀ o, c.off = some o →
            let p : DWord := match ps.getD (16 * c.tile + c.j) none with
              | some a => BitVec.ofNat 64 (s.mem.readSpad core a 8)
              | none => 0
            let x := (sget ({} : PWord) ((s.core core).ctx ctx).tiles (key c)).val.toInt
            let y := halfAway (x * (p.extractLsb' 0 32).toInt) (p.extractLsb' 32 6).toNat + ((e.desc.getD 1 0).extractLsb' 23 9).toInt
            t.mem.readSpad core o 1 = (max mode.2.1 (min y mode.2.2) % 256).toNat ∧ t.mem.isFull core o = true)) ∧
  ∀ (part bundle sub : Nat) (s : State) (b : Bundle) (m : MStream), (s.part part).bundles.find? (fun b => b.id = bundle) = some b →
    b.streams.find? (fun m => m.sub = sub) = some m → s.engineRuns part = true →
    let va := msBase m.desc.toNat + 64 * m.next
    let after (t : State) : Option MStream := t.mstream? part bundle sub
    (m.placed = false → ∀ r ctx, s.roomFor part m.core 0 (streamNeed m.desc.toNat) [] [] = some r → r.ctx = some ctx →
      ∃ t, exec (.matrixStreamCommandStart part bundle sub) s = .next t ∧
        after t = some { m with placed := true, base := r.base, ctx := ctx, tile0 := r.tile0 }) ∧
    ∀ n, m.placed = true → m.next < msSlots m.desc.toNat → s.readVirt part b.domain va 64 = .ok (n, false) → mcBad n = false →
      (mcAfter n = true → s.streamBusy m bundle = false) →
      (∀ k, mcMatrix (mcKind n) = some k → ∀ e, e = s.streamEntry part b m k n → e.commandCheck (s.streamEnv part b.domain m) = none →
        s.placeOpen m.core m.ctx (s.serial + 1) = true →
        ∃ t, exec (.matrixStreamCommandStart part bundle sub) s = .next t ∧ t.ctxQueue m.core m.ctx = s.ctxQueue m.core m.ctx ++ [e] ∧
          t.mem = s.mem ∧ after t = some { m with next := m.next + 1 }) ∧
      (mcMatrix (mcKind n) = none → m.next + 1 < msSlots m.desc.toNat → ∀ q, s.readVirt part b.domain (va + 64) 64 = .ok (q, false) →
        s.streamKickCheck part b m q = none → s.copyQueueFull m.core = false →
        ∃ t r, exec (.matrixStreamCommandStart part bundle sub) s = .next t ∧ (t.core m.core).copies = (s.core m.core).copies ++ [r] ∧
          CopyRecord (BitVec.ofNat 512 q) r ∧ t.mem = s.mem ∧ after t = some { m with next := m.next + 2 })

/-! ### Waits that expire, halts, and command queues -/

/-- R386, R389, R390 (21), R397 (22) and R432 (26): a fault that no gate call contains raises its partition's halt line and leaves its engine, code, detail and PC for
the stop record, the registers of the unit as they are; a unit that has entered a trap handler and issued nothing there stands ready at its first word, and
a Saving team's image is discarded; with the halt line high each engine stops once, and with the last one the halt is complete, vector 2,047 is sent, and
the pilots of fenced cores that no team needs stop; a wait that has lasted its limit is WAIT_EXPIRED. -/
def Obligations.HaltsAndTimeouts : Prop :=
  (∀ (s : State) (c : Code), s.grp.slot ≠ 16 → innerGate s.grp.stack 16 s.cur.top = none → c.code ≠ 0x0070 →
    s.myPart.halt.state = 0 → ((s.core s.grp.core).origin.any fun o => o.1 = s.grp.pipe) = false →
    let t := s.raise c
    (t.part s.team.part).halt.state = 1 ∧ (t.part s.team.part).halt.seq = s.myPart.halt.seq + 1 ∧
    (s.grp.pipe, (c.code, c.detail % 2 ^ 64, s.cur.pc.toNat)) ∈ (t.core s.grp.core).origin ∧ (t.core s.grp.core).stopped = [] ∧
    t.grp = { s.grp with units := t.grp.units } ∧ (s.cur.entered = false → t.cur = s.cur) ∧
    (s.cur.entered = true → s.cur.st = .issuing → s.streamIn s.grp.key.stream s.team.part = true → t.cur.st = .ready ∧ t.cur.entered = false ∧ t.cur.run.left = 0) ∧
    t.team = { s.team with image := t.team.image } ∧ (∀ T ∈ t.allTeams, T.st = .saving → T.part = s.team.part → T.image = none) ∧
    ∀ T ∈ t.teams, T ∈ s.teams ∨ T.st = .saving) ∧
  (∀ (core engine p : Nat) (s : State), s.partOf core = some p → (s.part p).halt.state = 1 → engine < 7 → engine ∉ (s.core core).stopped →
    ∃ t, exec (.engineStopRecord core engine) s = .next t ∧ (t.core core).stopped = (s.core core).stopped ++ [engine] ∧
      ((∀ c, sget false s.health.fenced c = false) → t.grp = s.grp ∧ t.cur = s.cur) ∧
      (((s.part p).coreList.all fun c => (List.range 7).all fun e => (s.core c).stopped.contains e || (c == core && e == engine)) = false →
        (t.part p).halt = (s.part p).halt ∧ t.port = s.port ∧ t.grp = s.grp ∧ t.cur = s.cur) ∧
      (((s.part p).coreList.all fun c => (List.range 7).all fun e => (s.core c).stopped.contains e || (c == core && e == engine)) = true →
        (t.part p).halt.state = 2 ∧
        (∀ c, sget false s.health.fenced c = true → (∀ T ∈ s.allTeams, T.core = c → T.st.resident = false) → s.reservedOn c = false → (t.core c).pilot = false) ∧
        (s.port.up = true → s.linkOpen p = true → s.port.msixMasked p 2047 = false →
          t.port.msix = s.port.msix ++ [(p, 2047)]))) ∧
  (∀ (u : UnitRef) (s t : State) (p : Parked), s.select u = some t → t.mayIssue = true → t.cur.st = .parked p →
    2 ^ 36 ≤ p.waited + (t.cycle - p.since) →
    (∀ x, p.why = .popq → p.instr = .popq x → (t.hqItems p.aux).length < (lanesOf p.lanes).length →
      exec (.waitLimitTimeout (.ofUnit u)) s = .next (t.raise ⟨0x0130, 2 + p.aux % 2 ^ 32 * 2 ^ 4⟩)) ∧
    (∀ x, p.why = .pushq → p.instr = .pushq x → 1024 - (t.hqItems p.aux).length < (lanesOf p.lanes).length →
      exec (.waitLimitTimeout (.ofUnit u)) s = .next (t.raise ⟨0x0130, 2 + p.aux % 2 ^ 32 * 2 ^ 4⟩)) ∧
    (∀ x, p.why = .barw → p.instr = .barw x → p.lanes = 0 →
      exec (.waitLimitTimeout (.ofUnit u)) s = .next (t.raise ⟨0x0130, 1 + p.rec_.toNat % 2 ^ 32 * 2 ^ 4⟩)) ∧
    (∀ o x l a, p.why = .ldfe → memOp p.instr = some (o, x) → t.countedFlag x.flag = none → sget false t.mem.full p.aux = false →
      (lanesOf p.lanes).head? = some l → laneAddrOf p.read p.rec_ x.a.toNat l = .at_ a →
      exec (.waitLimitTimeout (.ofUnit u)) s = .next (t.raise ⟨0x0130, a.toNat % 2 ^ 32 * 2 ^ 4⟩))) ∧
  ∀ (core ctx id g : Nat) (s : State) (e : MEntry) (b : Blocks), s.mentry? core ctx id = some e → e.running = true → e.step < e.steps →
    e.bundle.isSome = true → s.engineRuns e.part = true → 2 ^ 36 ≤ e.waited + (s.cycle - e.since) → s.stepBlocks e = .ok b →
    (b.takes.find? fun k => !s.mem.isFull e.core k) = some g →
    ∃ t, exec (.waitLimitTimeout (.ofMatrix core ctx id)) s = .next t ∧ (t.part e.part).halt.state = 1 ∧
      (((s.core e.core).origin.any fun o => o.1 = 4 + ctx) = false → (4 + ctx, (0x0130, 3 + g % 2 ^ 32 * 2 ^ 4, 0)) ∈ (t.core e.core).origin)

/-- R330, R333 (14), R107, R115 (05) and R415, R416 (23): a doorbell arrives as a posted write of its function; a poll shows the pilots a queue's tail; a
claim takes the next command of the next queue and its ticket; a command that is malformed or cannot be read, and a queue whose
descriptor is poisoned, stop their queue. -/
def Obligations.QueueEvents : Prop :=
  (∀ (vf : Nat) (value : Word) (s : State), s.port.up = true → s.linkOpen vf = true → s.fnAnswers vf = true → vf < 8 →
    s.stagedBytes + 4 ≤ 8 * 2 ^ 20 →
    ∃ t w, exec (.doorbell vf value) s = .next t ∧ t.port.inWrites = s.port.inWrites ++ [w] ∧ w.fn = vf ∧ w.requester = none ∧
      w.parts = [{ route := 4, bytes := bytesOf value.toNat 4, reg := some 0 }] ∧
      t = { s with port := { s.port with inWrites := t.port.inWrites }, serial := s.serial + 1 }) ∧
  (∀ (core part queue : Nat) (s : State), s.pilotWorks core part = true → qEnable (s.queue part queue) = true →
    ∃ t, exec (.queueTailPoll core part queue) s = .next t ∧ sget 0 (t.part part).seen queue = field (s.queue part queue) 223 192 ∧
      (∀ k, k ≠ queue → sget 0 (t.part part).seen k = sget 0 (s.part part).seen k) ∧ t = { s with parts := t.parts }) ∧
  (∀ (core part queue : Nat) (s : State), s.pilotServes core part = true → s.nextQueue part core = some queue →
    (∀ a, s.nextCommand part queue = some (.error a) → ∃ t, exec (.commandClaim core part queue) s = .next t ∧ QueueStops s t part queue) ∧
    ((s.part part).queueBad queue = true → ∃ a, s.nextCommand part queue = some (.error a))) ∧
  ∀ (core part queue : Nat) (s : State) (slots : List (BitVec 512)), s.pilotServes core part = true → s.nextQueue part core = some queue →
    s.nextCommand part queue = some (.ok slots) →
    let h := (slots.headD 0).toNat
    ((cmKind h = 1 ∨ cmBad h = false) → ∃ t, exec (.commandClaim core part queue) s = .next t ∧
      (t.part part).claimed = (s.part part).claimed ++ [{ queue := queue, head := field (s.queue part queue) 255 224, core := core, slots := slots }] ∧
      sget 0 (t.part part).tickets queue = sget 0 (s.part part).tickets queue + 1 ∧ (∀ k, t.queue part k = s.queue part k) ∧
      t = { s with parts := t.parts }) ∧
    (cmKind h ≠ 1 → cmBad h = true → ∃ t, exec (.commandClaim core part queue) s = .next t ∧ QueueStops s t part queue)

/-- R107, R109, R111 (05), R60 (03), R113 (05), R391 (21): a command that may start runs: PIN and UNPIN change the pages of their range or stop the queue
with nothing pinned, so that a page is translated once it is pinned and is not mapped once it is unpinned; WAIT starts and retires once its semaphore has reached the value; SIGNAL writes or adds its value; NOTIFY sends its
vector's message, or leaves it pending under its mask; a BUNDLE is started whole with a grid for each of its grid sub-launches, or counted as rejected. -/
def Obligations.Commands : Prop :=
  (∀ (part q : Nat) (s : State) (c : Claimed),
    let n := (c.slots.headD 0).toNat
    let dom := cmDomain n
    (s.MayStart part q 2 c →
      (∀ p, s.pinRange part n = some p → ∃ t, exec (.pin part q) s = .next t ∧ RetiredAt s t part q c ∧ t.mem = p.mem ∧ t.alloc = p.alloc ∧
        ∀ pre a, s.pathIn part dom (cmVa n) = pre ++ [a] → (∀ b ∈ pre, b + 8 ≤ a ∨ a + 8 ≤ b) →
          let level := leafLevel (n / 2 ^ 192 % 4)
          cmValue n = pageSize level → s.walkIn part dom (cmVa n) = .fail 0x0100 level → SamePages s t a ∧
          ∀ k, k < pageSize level →
            let leaf (target addr : Nat) : Except Code Phys := .ok { target := target, addr := addr + k, writable := n.testBit 194, l1 := n.testBit 195 }
            (n / 2 ^ 199 % 4 = 1 → t.translate part dom (cmVa n + k) = leaf 1 (n / 2 ^ 256 % 2 ^ 64)) ∧
            (n / 2 ^ 199 % 4 = 0 → ∀ f u, s.allocFrame (if n.testBit 196 then 4 else n / 2 ^ 197 % 4) (pageSize level) = some (f, u) →
              f % pageSize level = 0 → backed s.plat.carve (f + k) = true → t.translate part dom (cmVa n + k) = leaf 0 f)) ∧
      ((cmVa n % 2 ^ 16 ≠ 0 ∨ domValid ((s.part part).domain dom) = false) →
        ∃ t, exec (.pin part q) s = .next t ∧ QueueStops s t part q ∧ t.alloc = s.alloc)) ∧
    (s.MayStart part q 3 c →
      (∀ ps, s.pagesIn part dom (cmVa n + cmValue n) (cmValue n / 2 ^ 16 + 1) (cmVa n) = some ps →
        ∃ t, exec (.unpin part q) s = .next t ∧ RetiredAt s t part q c ∧
          (∀ k pipe, ∀ e ∈ (t.core k).tlb ++ sget [] (t.core k).pipeTlb pipe ++ t.iod.ptes, e.part = part → e.domain = dom →
            e.va + e.size ≤ cmVa n ∨ cmVa n + cmValue n ≤ e.va) ∧
          ∀ pre a e, s.pathIn part dom (cmVa n) = pre ++ [a] → (∀ b ∈ pre, b + 8 ≤ a ∨ a + 8 ≤ b) → ps = [(cmVa n, cmValue n, e)] → SamePages s t a ∧
            ∀ k, k < cmValue n → ∃ level, t.walkIn part dom (cmVa n + k) = .fail 0x0100 level) ∧
      (s.pagesIn part dom (cmVa n + cmValue n) (cmValue n / 2 ^ 16 + 1) (cmVa n) = none →
        ∃ t, exec (.unpin part q) s = .next t ∧ QueueStops s t part q ∧ t.alloc = s.alloc)) ∧
    (s.MayStart part q 4 c →
      (s.semaphore part n false ≠ none → ∃ t, exec (.waitCmd part q) s = .next t ∧ field (t.queue part q) 255 224 = (c.head + c.slots.length) % 2 ^ 32 ∧
        { c with started := true, bundle := none } ∈ (t.part part).claimed ∧ (t.core c.core).l1 = [] ∧ t.mem = s.mem) ∧
      (s.semaphore part n false = none → ∃ t, exec (.waitCmd part q) s = .next t ∧ QueueStops s t part q)) ∧
    (((s.part part).claimed.find? fun e => e.queue = q ∧ e.started ∧ cmKind (e.slots.headD 0).toNat = 4 ∧ s.waitMetCmd part (e.slots.headD 0).toNat) = some c →
      ∃ t, exec (.waitSemaphoreReread part q) s = .next t ∧ c ∉ (t.part part).claimed ∧ (t.core c.core).l1 = [] ∧ t.mem = s.mem ∧
        field (t.queue part q) 287 256 = (field (s.queue part q) 287 256 + 1) % 2 ^ 32) ∧
    (s.MayStart part q 5 c →
      (∀ p, s.semaphore part n true = some p → p.target = 0 → ∃ t, exec (.signal part q) s = .next t ∧ RetiredAt s t part q c ∧
        t.mem.readDram p.addr 8 = (if bitOf n 192 then (s.mem.readDram p.addr 8 + cmValue n) % 2 ^ 64 else cmValue n) ∧
        ∀ a, a < p.addr ∨ p.addr + 8 ≤ a → sget 0 t.mem.dram a = sget 0 s.mem.dram a) ∧
      (s.semaphore part n true = none → ∃ t, exec (.signal part q) s = .next t ∧ QueueStops s t part q)) ∧
    (s.MayStart part q 6 c → ∃ t, exec (.notify part q) s = .next t ∧ RetiredAt s t part q c ∧
      let v := n / 2 ^ 64 % 2 ^ 11
      let e := readBytes s.port.msixTable (part * 2 ^ 15 + 16 * v) 16
      (s.port.up = false ∨ s.linkOpen part = false → t.mem = s.mem ∧ t.port = s.port) ∧
      (s.port.up = true → s.linkOpen part = true → e.testBit 96 = true →
        t.mem = s.mem ∧ t.port = { s.port with pba := sset false s.port.pba (part * 2048 + v) true }) ∧
      (s.port.up = true → s.linkOpen part = true → e.testBit 96 = false →
        t.port = { s.port with msix := s.port.msix ++ [(part, v)], posted := s.port.posted ++ [.msix part v] } ∧
        t.mem.readHost (e % 2 ^ 64) 4 = e / 2 ^ 64 % 2 ^ 32 ∧ t.mem.dram = s.mem.dram ∧
        ∀ a, a < e % 2 ^ 64 ∨ e % 2 ^ 64 + 4 ≤ a → sget 0 t.mem.host a = sget 0 s.mem.host a)) ∧
    (s.MayStart part q 1 c →
      (∀ r, s.bundleCheck part c.core c.slots = some r → ∃ t, exec (.bundle part q) s = .next t ∧ RetiredAt s t part q c ∧
        sget 0 (t.part part).rejects q = (sget 0 (s.part part).rejects q + 1) % 2 ^ 32 ∧ (t.part part).grids = (s.part part).grids) ∧
      (s.bundleCheck part c.core c.slots = none → s.floorWaits part c.slots = false →
        ∃ t b, exec (.bundle part q) s = .next t ∧ b ∈ (t.part part).bundles ∧ b.id = s.serial + 1 ∧ b.queue = q ∧ b.domain = dom ∧
          field (t.queue part q) 255 224 = (c.head + c.slots.length) % 2 ^ 32 ∧
          ∀ i y, c.slots[i + 1]? = some y → slKind y.toNat = 1 → ∃ g ∈ (t.part part).grids, g.bundle = b.id ∧ g.sub = i ∧ g.domain = dom ∧
            (g.x, g.y, g.z) = ((y.extractLsb' 160 32).toNat, (y.extractLsb' 192 32).toNat, (y.extractLsb' 224 32).toNat) ∧ g.ticket = 0 ∧ g.retired = 0)))

/-! ### Teams -/

/-- R116 to R126 (05), R62 (03): a draw of one team takes the next ticket and, with no vectors, admits it at once at its coordinates, with a zeroed and
empty allocation and its groups at their entries; with vectors the team is Reserved with the scoreboard as it then reads; a re-read shows
the scoreboard to the pilot's Reserved teams, and a released one is admitted; a heartbeat adds 1 to its word; a team whose groups have
ended retires once it is quiet and is counted; a quiet bundle retires with its grids. -/
def Obligations.TeamEvents : Prop :=
  (∀ (core part grid : Nat) (s : State) (g : Grid) (room : Room), s.grid? part grid = some g → s.pilotServes core part = true → g.complete = false →
    g.saved = [] → g.ticket + 1 ≤ g.units → ldCluster g.d = 1 → s.holdUnits part core g [g.ticket] [] = some [(g.ticket, [room])] →
    (ldNvec g.d = 0 → ∃ t T, exec (.teamDraw core part grid 1) s = .next t ∧ T ∈ t.teams ∧ T.part = part ∧ T.grid = grid ∧ T.st = .admitted ∧
      (T.x, T.y, T.z) = (g.ticket % g.x, g.ticket / g.x % g.y, g.ticket / (g.x * g.y)) ∧ T.core = room.core ∧ T.base = room.base ∧
      (t.grid? part grid).map (fun k => k.ticket) = some (g.ticket + 1) ∧
      (∀ k, k < T.size → sget (0 : Byte) t.mem.spad (spadKey T.core (T.base + k)) = 0) ∧
      (∀ k, k < T.size / 16 → sget false t.mem.full (granKey T.core T.base + k) = false) ∧
      ∀ i k, i < ldRoles g.d → k < lrGroups (ldRole g.d i) → ∃ h ∈ t.groups, h.key.stream = T.stream ∧ h.core = T.core ∧ h.role = i ∧ h.rank = k ∧
        h.lanes = lrLanes (ldRole g.d i) ∧ h.budget = lrBudget (ldRole g.d i) ∧
        (g.task = false → h.st = .live ∧ ∃ u, h.units = [u] ∧ u.pc = pcOf (BitVec.ofNat 64 (lrPc (ldRole g.d i))) ∧ u.mask = fullMask h.lanes) ∧
        (g.task = true → h.st = .idle ∧ h.units = [])) ∧
    (ldNvec g.d ≠ 0 → ∃ t k r, exec (.teamDraw core part grid 1) s = .next t ∧ t.grid? part grid = some k ∧ k.ticket = g.ticket + 1 ∧
      k.reserved = g.reserved ++ [r] ∧ r.unit = g.ticket ∧ r.pilot = core ∧ r.seen = g.board ∧ t = { s with parts := t.parts })) ∧
  (∀ (core : Nat) (s : State), (s.core core).pilot = true → ∃ t, exec (.scoreboardReread core) s = .next t ∧ t = { s with parts := t.parts } ∧
    ∀ p ∈ t.parts, ∀ g ∈ p.2.grids, ∀ r ∈ g.reserved, r.pilot = core → r.seen = g.board) ∧
  (∀ (part grid unit : Nat) (s : State) (g : Grid) (r : Reserved), s.grid? part grid = some g → (g.reserved.find? fun x => x.unit = unit) = some r →
    (s.core r.pilot).pilot = true → r.rooms ≠ [] → (∀ c ∈ g.members unit, ∀ n ∈ g.preds c, sget false r.seen n = true) →
    (∀ x ∈ r.rooms, (s.withFloors part x.core grid (s.holders part x.core [])).isSome = true) →
    ∃ t T k, exec (.teamRelease part grid unit) s = .next t ∧ T ∈ t.teams ∧ T.part = part ∧ T.grid = grid ∧ T.cluster = unit ∧ T.st = .admitted ∧
      t.grid? part grid = some k ∧ ∀ x ∈ k.reserved, x.unit ≠ unit) ∧
  (∀ (core p : Nat) (s : State), s.partOf core = some p → (s.core core).pilot = true → ∃ t, exec (.pilotHeartbeat core) s = .next t ∧
    sget 0 (t.part p).beats core = sget 0 (s.part p).beats core + 1 ∧ (∀ c, c ≠ core → sget 0 (t.part p).beats c = sget 0 (s.part p).beats c) ∧
    t = { s with parts := t.parts }) ∧
  (∀ (stream : Nat) (s : State) (T : Team) (g : Grid), s.team? stream = some T → stream ≠ 0 → T.st = .admitted ∨ T.st = .retiring →
    s.grid? T.part T.grid = some g → g.task = false → s.groupsEnded stream = true →
    let s2 := s.modTeam stream fun t => { t with st := .retiring, preempt := false }
    ((s2.pilotWorks T.core T.part && s2.teamQuiet T) = true → ∃ t k, exec (.teamRetirement stream) s = .next t ∧
      (t.team? stream).map (fun x => x.st) = some .retired ∧ (∀ h ∈ t.groups, h.key.stream ≠ stream) ∧ t.grid? T.part T.grid = some k ∧
      k.retired = g.retired + 1 ∧ (ldNvec g.d ≠ 0 → sget false k.board T.number = true) ∧ (k.retired = g.teams → k.complete = true) ∧ t.mem = s.mem) ∧
    ((s2.pilotWorks T.core T.part && s2.teamQuiet T) = false → exec (.teamRetirement stream) s = .next s2)) ∧
  ∀ (part bundle : Nat) (s : State) (b : Bundle) (c : Claimed), (s.part part).bundles.find? (fun b => b.id = bundle) = some b →
    (s.part part).claimed.find? (fun c => c.started ∧ c.bundle = some bundle) = some c → s.bundleQuiet part b = true →
    (s.part part).halt.state = 0 → c.queue = b.queue →
    ∃ t, exec (.bundleRetire part bundle) s = .next t ∧ (∀ x ∈ (t.part part).bundles, x.id ≠ b.id) ∧ (∀ g ∈ (t.part part).grids, g.bundle ≠ b.id) ∧
      (∀ g ∈ (s.part part).grids, g.bundle = b.id → g ∈ (t.part part).past) ∧
      c ∉ (t.part part).claimed ∧ field (t.queue part b.queue) 287 256 = (field (s.queue part b.queue) 287 256 + 1) % 2 ^ 32 ∧ t.mem = s.mem

/-- R124, R130 to R134 (05): a grid that finds no room asks for the pre-emption of the one candidate of the lowest priority below its own that the save pool can
hold; when it takes effect the team stops whole; its image then holds its scratchpad, the unit stands on the save list, and its grid's Reserved teams have
dropped their room; a pilot with room restores the unit, once no member of it is still Saving, its scratchpad as it was. -/
def Obligations.Preemption : Prop :=
  (∀ (core part grid : Nat) (s : State) (g : Grid) (v : Team), s.grid? part grid = some g → s.pilotServes core part = true →
    g.complete = false → g.saved ≠ [] ∨ g.ticket < g.units → s.anyRoom part grid (s.nextNeed part g) [] = false →
    (s.allTeams.filter fun t => decide (t.part = part ∧ g.priority < t.priority) && s.canPreempt t && !t.preempt) = [v] → s.crew v = [v] →
    s.imageBytes v ≤ (s.part part).poolFree →
    ∃ t, exec (.preemptionStarvationTimeout core part grid) s = .next t ∧ (t.team? v.stream).map (fun x => x.preempt) = some true ∧
      (∀ n, n ≠ v.stream → t.team? n = s.team? n) ∧ t = { s with team := t.team, teams := t.teams }) ∧
  (∀ (stream : Nat) (s : State) (T : Team), s.team? stream = some T → stream ≠ 0 → s.canPreempt T = true → T.preempt = true →
    (s.part T.part).halt.state = 0 → s.crew T = [T] →
    ∃ t X, exec (.preemptionTakesEffect stream) s = .next t ∧ t.team? stream = some X ∧ X.st = .saving ∧ X.preempt = false ∧ X.image.isSome = true ∧
      (∀ h ∈ t.groups, h.key.stream = stream → h.st ≠ .live ∧ h.st ≠ .idle) ∧
      (∀ r ∈ (t.core T.core).copies, r.bundle.isSome = true ∨ r.stream ≠ stream) ∧ t.mem = s.mem ∧ t.flights = s.flights) ∧
  (∀ (stream : Nat) (s : State) (T : Team) (im : SaveImage) (g : Grid), s.team? stream = some T → T.image = some im → stream ≠ 0 → T.st = .saving →
    (s.part T.part).halt.state = 0 → s.arrivedAt T = true → s.grid? T.part T.grid = some g →
    ∃ t X jm k, exec (.saveImageComplete stream) s = .next t ∧ t.team? stream = some X ∧ X.st = .saved ∧ X.image = some jm ∧
      (∀ n, n < T.size → sget (0 : Byte) jm.spad n = sget 0 s.mem.spad (spadKey T.core T.base + n)) ∧
      (∀ n, n < T.size / 16 → sget false jm.full n = sget false s.mem.full (granKey T.core T.base + n)) ∧
      t.grid? T.part T.grid = some k ∧ T.cluster ∈ k.saved ∧ k.reserved = [] ∧ t.mem.spad = s.mem.spad ∧ t.mem.full = s.mem.full ∧
      ((s.part T.part).pool ≤ 132 * 1024 → t.mem = s.mem)) ∧
  (∀ (core stream : Nat) (s : State) (T x : Team), s.team? stream = some T → x ∈ s.unitTeams T.part T.grid T.cluster → x.st = .saving →
    s.groupsEnded x.stream = false → exec (.teamRestore core stream) s = .next s) ∧
  ∀ (core stream : Nat) (s : State) (T : Team) (im : SaveImage) (g : Grid) (room : Room), s.team? stream = some T → T.image = some im → stream ≠ 0 →
    T.st = .saved → s.grid? T.part T.grid = some g → g.saved.head? = some T.cluster → s.pilotServes core T.part = true →
    ((s.unitTeams T.part T.grid T.cluster).filter fun x => x.st == .saved) = [T] →
    (∀ x ∈ s.unitTeams T.part T.grid T.cluster, x.st = .saved ∨ x.st = .retiring ∨ x.st = .retired) →
    s.unitRoom T.part core g.id [{ needOf g.d with chans := im.chans.length }] [] = some [room] → s.carries room.core T = true →
    scanon 0 im.spad = true → scanon false im.full = true →
    ∃ t X, exec (.teamRestore core stream) s = .next t ∧ t.team? stream = some X ∧ X.st = .admitted ∧ X.image = none ∧ X.core = room.core ∧
      X.base = room.base ∧ (∀ n, n < T.size → sget (0 : Byte) t.mem.spad (spadKey room.core room.base + n) = sget 0 im.spad n) ∧
      (∀ h ∈ t.groups, h.key.stream = stream → h.st ≠ .saved ∧ h.core = room.core) ∧ t.mem.dram = s.mem.dram

/-! ### The host port -/

/-- R330 to R335 (14) and R415 (23): an inbound write to BAR0 becomes one part within the IOD, or one to the queue table in device memory, and one to the
window a part for each 2 KiB block; a part is held while an earlier write of its domain has a part unreleased on its route or unacknowledged
on another, and is applied where its route ends, its bytes and no others, poisoned where the write was; a read, unless it is relaxed, and an
AtomicOp wait for the earlier posted writes of their domain; then a read is answered with the bytes and an AtomicOp with the old value; a
completion brings a load its data, a failure or a timeout poisons it or leaves its channel uncertain; one that fails its IDE check (a status from 8 up,
the model's choice, log 38) is discarded, and the stream is Insecure. -/
def Obligations.HostAccesses : Prop :=
  (∀ (r : HostReq) (s : State), s.Answers r →
    let who := if r.ido then some r.requester else none
    let va := (s.part r.fn).wbase + r.offset
    let taken (parts : List WritePart) : Prop := exec (.inboundMemoryWrite r) s = .next { s with serial := s.serial + 1, port := { s.port with
      inWrites := s.port.inWrites ++ [{ id := s.serial + 1, fn := r.fn, requester := who, relaxed := r.relaxed, poisoned := r.poisoned, parts := parts }],
      aer := s.port.aer ++ if r.poisoned then [{ fn := r.fn, kind := 1, header := some r }] else [] } }
    (r.bytes ≠ [] → r.bytes.length ≤ 512 → s.stagedBytes + r.bytes.length ≤ 8 * 2 ^ 20 →
      (r.bar0 = true → (r.fn = 8 ∨ r.offset + r.bytes.length ≤ 0x2000 ∨ 0x3000 ≤ r.offset) → taken [{ route := 4, bytes := r.bytes, reg := some r.offset }]) ∧
      (r.bar0 = true → r.fn < 8 → 0x2000 ≤ r.offset → r.offset + r.bytes.length ≤ 0x3000 →
        let pa := (s.part r.fn).table + (r.offset - 0x2000)
        let n := 2048 - pa % 2048
        (r.bytes.length ≤ n → taken [{ route := dieOfPa pa, pa := pa, bytes := r.bytes, reg := some r.offset }]) ∧
        (n < r.bytes.length → taken [{ route := dieOfPa pa, pa := pa, bytes := r.bytes.take n, reg := some r.offset },
          { route := dieOfPa (pa + n), pa := pa + n, bytes := r.bytes.drop n, reg := some (r.offset + n) }])) ∧
      (∀ pa, s.InWindow r r.bytes.length true pa → taken [{ route := dieOfPa pa, pa := pa, bytes := r.bytes }]) ∧
      (∀ pa pb, r.fn ≠ 8 → r.bar0 = false → r.offset + r.bytes.length ≤ 2 ^ (s.part r.fn).k →
        let n := 2048 - va % 2048
        n < r.bytes.length → s.windowPa r.fn va true = some pa → s.windowPa r.fn (va + n) true = some pb →
        taken [{ route := dieOfPa pa, pa := pa, bytes := r.bytes.take n }, { route := dieOfPa pb, pa := pb, bytes := r.bytes.drop n }]) ∧
      (r.fn ≠ 8 → r.bar0 = false → va % 2048 + r.bytes.length ≤ 2048 → r.poisoned = false → s.windowPa r.fn va true = none →
        exec (.inboundMemoryWrite r) s = .next (s.aer { fn := r.fn, kind := 0, header := some r }))) ∧
    ((r.relaxed = false ∧ ∃ e ∈ s.port.inWrites, e.fn = r.fn ∧ e.requester = who) → exec (.inboundMemoryRead r) s = .next s) ∧
    ((∃ e ∈ s.port.inWrites, e.fn = r.fn ∧ e.requester = who) → exec (.inboundAtomicop r) s = .next s) ∧
    ((r.relaxed = true ∨ ∀ e ∈ s.port.inWrites, e.domain ≠ (r.fn, who)) → 0 < r.len → r.len ≤ 4096 →
      (r.bar0 = true → exec (.inboundMemoryRead r) s = .next { s with port := { s.port with completions := s.port.completions ++
        [{ fn := r.fn, requester := r.requester, bytes := (List.range r.len).map fun i => s.bar0Byte r.fn (r.offset + i),
           poisoned := (List.range r.len).any fun i => s.bar0Bad r.fn (r.offset + i) }] } }) ∧
      (r.fn ≠ 8 → r.bar0 = false → 2 ^ (s.part r.fn).k < r.offset + r.len → ∃ t, exec (.inboundMemoryRead r) s = .next t ∧
        t.port.completions = s.port.completions ++ [{ fn := r.fn, requester := r.requester, unsupported := true }] ∧
        t.port.aer = s.port.aer ++ [{ fn := r.fn, kind := 0, header := some r }] ∧ t.mem = s.mem) ∧
      (∀ pa, s.InWindow r r.len false pa → exec (.inboundMemoryRead r) s = .next { s with port := { s.port with completions := s.port.completions ++
        [{ fn := r.fn, requester := r.requester, bytes := bytesOf (s.mem.readDram pa r.len) r.len, poisoned := s.mem.dramBad pa r.len }] } })) ∧
    ((∀ e ∈ s.port.inWrites, e.domain ≠ (r.fn, who)) → ∀ pa, s.InWindow r r.len true pa →
      r.len = 4 ∨ r.len = 8 → r.offset % r.len = 0 → r.op ≤ 2 →
      let old := s.mem.readDram pa r.len
      let m := 2 ^ (8 * r.len)
      ∃ t, exec (.inboundAtomicop r) s = .next t ∧ t.port.completions = s.port.completions ++
          [{ fn := r.fn, requester := r.requester, bytes := bytesOf old r.len, poisoned := s.mem.dramBad pa r.len }] ∧
        t.mem.readDram pa r.len = (if r.op = 0 then (old + r.operand % m) % m else if r.op = 1 then r.operand % m
          else if old = r.compare % m then r.operand % m else old) ∧
        (∀ a, a < pa ∨ pa + r.len ≤ a → sget 0 t.mem.dram a = sget 0 s.mem.dram a) ∧ t.grp = s.grp)) ∧
  (∀ (id part : Nat) (s : State) (w : InWrite) (q : WritePart), (s.port.inWrites.find? fun w => w.id = id) = some w → w.parts[part]? = some q →
    let holds (e : InWrite) : Prop := e.fn = w.fn ∧ e.requester = w.requester ∧ e.id < w.id ∧
      ∃ x ∈ e.parts, (x.route = q.route ∧ x.released = none) ∨ (x.route ≠ q.route ∧ x.acked = false)
    (w.relaxed = false → (∃ e ∈ s.port.inWrites, holds e) → exec (.writePartRelease id part) s = .next s) ∧
    (q.released = none → w.relaxed = true ∨ (∀ e ∈ s.port.inWrites, ¬ holds e) →
      ∃ t v, exec (.writePartRelease id part) s = .next t ∧ (t.port.inWrites.find? fun w => w.id = id) = some v ∧
        v.parts[part]? = some { q with released := some (s.serial + 1) } ∧ t.mem = s.mem ∧ t.grp = s.grp) ∧
    (∀ n, q.released = some n → q.acked = false → (∀ e ∈ s.port.inWrites, ∀ x ∈ e.parts, ∀ m, x.route = q.route → x.acked = false → x.released = some m → n ≤ m) →
      let n := q.bytes.length
      let touches (b : Nat) : Prop := 32 * b < q.pa + n ∧ q.pa < 32 * b + 32
      (q.reg = none → n ≠ 0 → ∃ t, exec (.writePartAcknowledge id part) s = .next t ∧ t.grp = s.grp ∧
        (∀ i b, q.bytes[i]? = some b → sget 0 t.mem.dram (q.pa + i) = b) ∧
        (∀ a, a < q.pa ∨ q.pa + n ≤ a → sget 0 t.mem.dram a = sget 0 s.mem.dram a) ∧ t.mem = { s.mem with dram := t.mem.dram, dramPoison := t.mem.dramPoison } ∧
        (∀ b, touches b → w.poisoned = true ∨ b ∈ q.poison → sget false t.mem.dramPoison b = true) ∧
        (∀ b, touches b → w.poisoned = false → b ∉ q.poison → sget false t.mem.dramPoison b =
          if q.pa ≤ 32 * b ∧ 32 * b + 32 ≤ q.pa + n then false else sget false s.mem.dramPoison b) ∧
        (∀ b, ¬ touches b → sget false t.mem.dramPoison b = sget false s.mem.dramPoison b) ∧
        (w.parts = [q] → (∀ v ∈ s.port.inWrites, v.id = id → v = w) → ∀ v ∈ t.port.inWrites, v.id ≠ id)) ∧
      (q.route = 4 → w.poisoned = false → q.poison = [] →
        (w.fn = 8 → q.reg = some 0x100 → ∃ t, exec (.writePartAcknowledge id part) s = .next t ∧ t.mem = s.mem ∧
          t.plat.pwrLimit = max 1200 (min 3200 (natOfBytes q.bytes))) ∧
        (w.fn < 8 → q.reg = some 0 → s.port.pba = [] → ∀ v, q.bytes = bytesOf v 4 → ∃ t, exec (.writePartAcknowledge id part) s = .next t ∧ t.mem = s.mem ∧
          sget 0 (t.part w.fn).seen (v % 64) = field (s.queue w.fn (v % 64)) 223 192)) ∧
      (∀ off, q.route ≠ 4 → q.reg = some off → w.fn < 8 → 0x2000 ≤ off → off + n ≤ 0x3000 → ∃ t, exec (.writePartAcknowledge id part) s = .next t ∧
        (∀ i b, q.bytes[i]? = some b → field (t.queue w.fn ((off - 0x2000 + i) / 64)) (8 * ((off + i) % 64) + 7) (8 * ((off + i) % 64)) = b.toNat) ∧
        (w.poisoned = true → n ≠ 0 → (t.part w.fn).queueBad ((off - 0x2000) / 64) = true)))) ∧
  ∀ (id : Nat) (s : State) (f : Flight), s.flight? id = some f →
    (∀ status data, s.port.up = true → s.linkOpen f.part = true → f.waitsFlush = false → s.wentOut f = true → status ≠ 0 → status < 8 →
      ∃ t g, exec (.outboundCompletion id status data false) s = .next t ∧ t.flight? id = some g ∧ g.performed = true ∧ g.rpoison = true ∧
        t.port.aer = s.port.aer ++ [{ fn := f.part, kind := 5, status := status }] ∧ t.mem = s.mem) ∧
    (∀ status data poison, s.port.up = true → sget (0 : BitVec 256) s.port.ideKeys f.part ≠ 0 →
      (sget false s.port.insecure f.part = true → exec (.outboundCompletion id status data poison) s = .next s) ∧
      (sget false s.port.insecure f.part = false → 8 ≤ status → ∃ t, exec (.outboundCompletion id status data poison) s = .next t ∧
        sget false t.port.insecure f.part = true ∧ t.port.aer = s.port.aer ++ [{ fn := f.part, kind := 2 }] ∧
        t = { s with port := { s.port with insecure := t.port.insecure, aer := t.port.aer } })) ∧
    (∀ data a, s.port.up = true → s.linkOpen f.part = true → f.waitsFlush = false → s.wentOut f = true → data.length = f.width → f.place = .host a → f.kind = .load → f.flag = none → f.returned = false →
      ∃ t g, exec (.outboundCompletion id 0 data false) s = .next t ∧ t.flight? id = some g ∧ g.performed = true ∧ g.rpoison = false ∧
        g.result = loadValue f.signExt f.width (natOfBytes data) ∧ t.mem.dram = s.mem.dram ∧ t.grp = s.grp) ∧
    (f.waitsFlush = false → s.wentOut f = true → ∃ t g, exec (.completionTimeout id) s = .next t ∧ t.flight? id = some g ∧ g.performed = true ∧
      g.rpoison = true ∧ t.port.aer = s.port.aer ++ [{ fn := f.part, kind := 3 }] ∧ t.mem = s.mem ∧ t.grp = s.grp) ∧
    (f.waitsFlush = true → ∀ c T, f.chan = some c → c < 16 → s.team? f.who.group.stream = some T → ∃ t X, exec (.completionTimeout id) s = .next t ∧
      t.team? f.who.group.stream = some X ∧ X.uncertain.getLsbD c = true ∧ t.port.aer = s.port.aer ++ [{ fn := f.part, kind := 3 }] ∧ t.mem = s.mem)

/-- R329, R330 (14), R369 (20), R415 (23), R429 and R431 (26): a register write reaches PWR_LIMIT and EOL_THRESHOLD clamped to their ranges, the MSI-X table byte for
byte, and MGMT_CMD, which takes a command only while none runs and ends one that Table 150 does not list with result 1 in its status bytes; a threshold
that is not lowered is held against the ends of life at once; a write to a queue descriptor goes to the table in device memory as one to the window; one whose
TLP fails its IDE check leaves its stream Insecure and nothing else; the loss of the link is reported and ends what waits for it; its return takes it up;
new keys take a stream out of its Insecure state. -/
def Obligations.HostRegisters : Prop :=
  (∀ (s : State), s.registersFree 8 = true → s.fnAnswers 8 = true →
    let limit (x : Nat) : State := { s with plat := { s.plat with pwrLimit := max 1200 (min 3200 x) } }
    let days (i : Instr) (x : Nat) : Prop :=
      let d := max 1 (min 3650 x)
      ∃ t, exec i s = .next t ∧ t.health.threshold = d ∧ (d < s.health.threshold → t = { s with health := { s.health with threshold := d } }) ∧
        (s.health.threshold ≤ d → (∃ u, u < 17 ∧ (s.eol u).1 ≤ d) → t.health.status.getLsbD 0 = true ∧ t.health.status.getLsbD 1 = true ∧
          (s.health.status.getLsbD 0 = false → s.port.up = true → s.port.msixMasked 8 4 = false → t.port.msix = s.port.msix ++ [(8, 4)]))
    (∀ v : Word, exec (.pwrLimitWrite v) s = .next (limit v.toNat) ∧ days (.eolThresholdWrite v) v.toNat) ∧
    (∀ bs, exec (.registerWrite ⟨8, 0x100, bs, true⟩) s = .next (limit (natOfBytes bs)) ∧ days (.registerWrite ⟨8, 0x208, bs, true⟩) (natOfBytes bs)) ∧
    ∀ a : DWord, let code := s.mem.readHost a.toNat 1
      (s.plat.busy = true → exec (.registerWrite ⟨8, 8, bytesOf a.toNat 8, true⟩) s = .next { s with plat := { s.plat with rejected := true } }) ∧
      (s.plat.busy = false → a.toNat % 64 = 0 → 1 ≤ code → code ≤ 0x14 → exec (.registerWrite ⟨8, 8, bytesOf a.toNat 8, true⟩) s =
        .next { s with plat := { s.plat with busy := true, rejected := false, pending := some (code, a), begun := false } }) ∧
      (s.plat.busy = false → a.toNat % 64 ≠ 0 → exec (.registerWrite ⟨8, 8, bytesOf a.toNat 8, true⟩) s =
        .next { s with plat := { s.plat with rejected := false, result := 1 } }) ∧
      (s.plat.busy = false → a.toNat % 64 = 0 → code = 0 ∨ 0x14 < code → exec (.registerWrite ⟨8, 8, bytesOf a.toNat 8, true⟩) s =
        .next { s with plat := { s.plat with rejected := false, result := 1 }, mem := s.mem.writeHost (a.toNat + 56) 8 1 })) ∧
  (∀ (s : State) (vf i : Nat) (b : Byte), s.port.up = true → s.linkOpen vf = true → s.fnAnswers vf = true → vf < 8 → i < 4096 → s.stagedBytes < 8 * 2 ^ 20 →
    let pa := (s.part vf).table + i
    ∃ t w, exec (.registerWrite ⟨vf, 0x2000 + i, [b], true⟩) s = .next t ∧ t.port.inWrites = s.port.inWrites ++ [w] ∧ w.fn = vf ∧ w.poisoned = false ∧
      w.parts = [{ route := dieOfPa pa, pa := pa, bytes := [b], reg := some (0x2000 + i) }] ∧
      t = { s with port := { s.port with inWrites := t.port.inWrites }, serial := s.serial + 1 }) ∧
  (∀ (s : State) (w : RegWrite), s.port.up = true → sget (0 : BitVec 256) s.port.ideKeys w.fn ≠ 0 → sget false s.port.insecure w.fn = false → w.ideOk = false →
    ∃ t, exec (.registerWrite w) s = .next t ∧ sget false t.port.insecure w.fn = true ∧ t.port.aer = s.port.aer ++ [{ fn := w.fn, kind := 2 }] ∧
      t = { s with port := { s.port with insecure := t.port.insecure, aer := t.port.aer } }) ∧
  (∀ (s : State) (vf i : Nat) (b : Byte), s.registersFree vf = true → s.fnAnswers vf = true → vf < 8 → i < 16 * 2048 → s.port.pba = [] →
    ∃ t, exec (.registerWrite ⟨vf, 0x10000 + i, [b], true⟩) s = .next t ∧ sget 0 t.port.msixTable (vf * 2 ^ 15 + i) = b ∧
      (∀ k, k ≠ vf * 2 ^ 15 + i → sget 0 t.port.msixTable k = sget 0 s.port.msixTable k) ∧
      t = { s with port := { s.port with msixTable := t.port.msixTable } }) ∧
  (∀ s : State, s.port.up = true → s.flights = [] → exec .surpriseDown s = .next { s with port := { s.port with up := false, aer := s.port.aer ++ [{ fn := 8, kind := 4 }] } }) ∧
  (∀ s : State, s.port.up = true → ∃ t, exec .surpriseDown s = .next t ∧ t.port.up = false ∧ t.mem = s.mem ∧
    ∀ f ∈ s.flights, s.wentOut f = true → ∀ g ∈ t.flights, g.id = f.id → g.performed = true ∧ (g.kind.returns = true → g.rpoison = true)) ∧
  (∀ s : State, s.plat.bootStatus = 0x10 → exec .hostLinkReturn s = .next { s with port := { s.port with up := true } }) ∧
  ∀ (fn : Nat) (key : BitVec 256) (s : State), ∃ t, exec (.ideKm fn key) s = .next t ∧ sget 0 t.port.ideKeys fn = key ∧ sget false t.port.insecure fn = false ∧
    (∀ k, k ≠ fn → sget 0 t.port.ideKeys k = sget 0 s.port.ideKeys k ∧ sget false t.port.insecure k = sget false s.port.insecure k) ∧
    t = { s with port := { s.port with ideKeys := t.port.ideKeys, insecure := t.port.insecure } }

/-! ### Management commands -/

/-- R370 and R371 (20): while its code is pending and the link is up, a management command with a nonzero reserved argument bit ends with result 1 and
changes nothing else; while it is not pending it does nothing. The ranges are the argument bits that Table 150 names. -/
def Obligations.ManagementArguments : Prop :=
  ∀ (desc : DWord) (s : State), ∀ c ∈ ([(.createPartition desc, 1, [(64, 64)]), (.destroyPartition desc, 2, []), (.createQueue desc, 3, [(64, 6), (72, 2), (96, 96)]),
      (.preempt desc, 4, []), (.installGate desc, 5, [(64, 8), (128, 128)]), (.writeSegment desc, 6, [(64, 6), (128, 128)]),
      (.writePeer desc, 7, [(64, 10), (128, 128)]), (.writeTrust desc, 8, [(64, 4), (128, 64)]), (.rekey desc, 9, [(64, 10)]),
      (.getReport desc, 0x0A, [(64, 320)]), (.getCerts desc, 0x0B, [(64, 96)]), (.readErrors desc, 0x0C, [(64, 64), (128, 1)]),
      (.resetQueue desc, 0x0D, [(64, 6)]), (.restartPilot desc, 0x0E, [(64, 256)]), (.resetPartition desc, 0x0F, []), (.warmReset desc, 0x10, []),
      (.readLinks desc, 0x11, [(64, 64), (128, 1)]), (.readHealth desc, 0x12, [(64, 64)]), (.writeConfig desc, 0x13, [(64, 64)]),
      (.domainCopy desc, 0x14, [(64, 4), (72, 1), (96, 160)])] : List (Instr × Nat × List (Nat × Nat))),
    (s.plat.pending ≠ some (c.2.1, desc) → exec c.1 s = .next s) ∧
    (s.plat.pending = some (c.2.1, desc) → s.port.up = true → s.linkOpen 8 = true →
      (∃ b, 64 ≤ b ∧ b < 448 ∧ (s.mem.readHost desc.toNat 64).testBit b = true ∧ ∀ r ∈ c.2.2, b < r.1 ∨ r.1 + r.2 ≤ b) →
      exec c.1 s = .next { s with mem := s.mem.writeHost (desc.toNat + 56) 8 1,
                                  plat := { s.plat with busy := false, result := 1, pending := none, begun := false } })

/-- R370 to R372 (20), R60 (03), R131 (05), R390 and R392 (21), R419 (23), R434 (26): CREATE_PARTITION makes the partition that its block asks for, or refuses
one that stands or whose cores are taken; DESTROY_PARTITION frees it once nothing of it is under way; CREATE_QUEUE enables the queue's
descriptor; PREEMPT asks every team that may stop to stop and ends when none is left; the resets of the ladder disable a queue with all
its commands passed, restart pilots whose image agrees with M1, and clear a partition with its halt. That RESTART_PILOT of an image whose digest is not M1
ends with result 2 and leaves slot 16 stopped is the model's choice (log 37). -/
def Obligations.ManagementPartitions : Prop :=
  ∀ (desc : DWord) (s : State) (d : Nat),
    let part := d / 2 ^ 8 % 8
    let p := s.part part
    let q := d / 2 ^ 64 % 64
    let block := s.mem.readHost (d / 2 ^ 64 % 2 ^ 64) 128
    let records := (List.range 16).map fun i => (i, BitVec.ofNat 512 (s.mem.readHost (block / 2 ^ 512 + 64 * i) 64))
    let blockFine : Prop := block / 2 ^ 512 < 2 ^ 64 ∧ blockOk block = true ∧ (∀ r ∈ records, domainOk r.2.toNat = true) ∧
      domValid (BitVec.ofNat 512 (s.mem.readHost (block / 2 ^ 512) 64)) = true
    (s.Runs 1 desc [(64, 64)] d →
      (p.created = true → ∃ t, exec (.createPartition desc) s = .next t ∧ EndedWith t desc 1 0 ∧ t.parts = s.parts) ∧
      (p.created = false → blockFine → s.coreTaken part (block % 2 ^ 256) = true →
        ∃ t, exec (.createPartition desc) s = .next t ∧ EndedWith t desc 2 0 ∧ t.parts = s.parts) ∧
      (p.created = false → blockFine → s.coreTaken part (block % 2 ^ 256) = false → s.makePartition part d block records ≠ none →
        ∃ t, exec (.createPartition desc) s = .next t ∧ EndedWith t desc 0 0 ∧ (t.part part).created = true ∧
          (t.part part).cores = BitVec.ofNat 256 block ∧ (t.part part).dram = block / 2 ^ 256 % 2 ^ 64 ∧ (t.part part).pool = block / 2 ^ 320 % 2 ^ 64 ∧
          (t.part part).wbase = block / 2 ^ 384 % 2 ^ 64 ∧ (t.part part).tick = block.testBit 448 ∧ (t.part part).k = block / 2 ^ 456 % 64 ∧
          (t.part part).queues = [] ∧ (t.part part).gates = [] ∧ (t.part part).halt = {} ∧ ∀ k, k ≠ part → t.part k = s.part k)) ∧
    (s.Runs 2 desc [] d →
      (p.created = false → ∃ t, exec (.destroyPartition desc) s = .next t ∧ EndedWith t desc 1 0 ∧ t.parts = s.parts) ∧
      (p.created = true → s.flights = [] → s.port.inWrites = [] → ∃ t, exec (.destroyPartition desc) s = .next t ∧ EndedWith t desc 0 0 ∧
        t.part part = {} ∧ ∀ k, k ≠ part → (t.part k).created = (s.part k).created)) ∧
    (s.Runs 3 desc [(64, 6), (72, 2), (96, 96)] d → p.created = true → qEnable (s.queue part q) = false →
      let slots := d / 2 ^ 96 % 2 ^ 32
      let base := d / 2 ^ 128 % 2 ^ 64
      ((∀ i, i < 18 → slots ≠ 8 * 2 ^ i) ∨ base % 4096 ≠ 0 → ∃ t, exec (.createQueue desc) s = .next t ∧ EndedWith t desc 1 0 ∧ t.parts = s.parts) ∧
      (∀ i, i < 18 → slots = 8 * 2 ^ i → base % 4096 = 0 → base + 64 * slots ≤ 2 ^ 57 → (∀ a, base / 65536 * 65536 ≤ a → a < base + 64 * slots → s.pinnedAt part 0 a = true) →
        ∃ t, exec (.createQueue desc) s = .next t ∧ EndedWith t desc 0 0 ∧
          t.queue part q = base + 2 ^ 128 + d / 2 ^ 72 % 4 * 2 ^ 129 + slots * 2 ^ 160 ∧ ∀ k, k ≠ q → t.queue part k = s.queue part k)) ∧
    (s.Runs 4 desc [] d → p.created = true → p.halt.state = 0 →
      ((∀ T ∈ s.allTeams, T.part = part → T.st ≠ .admitted ∧ T.st ≠ .saving) → ∃ t, exec (.preempt desc) s = .next t ∧ EndedWith t desc 0 0) ∧
      (s.plat.begun = false → (∃ T ∈ s.allTeams, T.part = part ∧ s.canPreempt T = true) → ∃ t, exec (.preempt desc) s = .next t ∧
        t.plat.pending = s.plat.pending ∧ (∀ T ∈ s.allTeams, T.part = part → s.canPreempt T = true → { T with preempt := true } ∈ t.allTeams) ∧
        (∀ g ∈ (t.part part).grids, g.reserved = []) ∧ t.mem = s.mem)) ∧
    (s.Runs 0x0D desc [(64, 6)] d → p.created = true → ∃ t, exec (.resetQueue desc) s = .next t ∧ EndedWith t desc 0 0 ∧
      qEnable (t.queue part q) = false ∧ field (t.queue part q) 319 288 = 0 ∧
      field (t.queue part q) 255 224 = field (s.queue part q) 223 192 ∧ (∀ c ∈ (t.part part).claimed, c.queue ≠ q) ∧
      (∀ b ∈ (t.part part).bundles, b.queue ≠ q) ∧ ∀ k, k ≠ q → t.queue part k = s.queue part k) ∧
    (s.Runs 0x0E desc [(64, 256)] d → p.created = true → (BitVec.ofNat 256 (d / 2 ^ 64) &&& ~~~ p.cores) = 0 →
      let good : Bool := Config.sha384 Config.pilotImage == s.plat.m1
      ∃ t, exec (.restartPilot desc) s = .next t ∧ EndedWith t desc (if good then 0 else 2) 0 ∧
        ∀ c, c < 256 → (d / 2 ^ 64).testBit c = true → sget false s.health.fenced c = false →
          (t.core c).pilot = good ∧ (good = true → pilotOf c ∈ t.groups) ∧ (good = false → ∀ g ∈ t.groups, g.slot = 16 → g.core ≠ c) ∧
          (∀ k ∈ (t.part part).claimed, k.core = c → k.started = true) ∧
          ∀ g ∈ (t.part part).grids, ∀ r ∈ g.reserved, r.pilot ≠ c ∧ ∀ x ∈ r.rooms, x.core ≠ c) ∧
    (s.Runs 0x0F desc [] d → p.created = true → ∃ t, exec (.resetPartition desc) s = .next t ∧ EndedWith t desc 0 0 ∧
      (t.part part).halt = { seq := p.halt.seq } ∧ (t.part part).claimed = [] ∧ (t.part part).bundles = [] ∧ (t.part part).grids = [] ∧
      (∀ T ∈ t.teams, T.part ≠ part) ∧ (t.part part).created = true ∧ (t.part part).cores = p.cores)

/-- R371 to R375 (20), R137 (06), R342 and R348 (14), R368 (20), R400 (22), R412 and R414 (23), R430 (26): the commands that install a gate, a segment, a peer, a
trust entry and a configuration record install what their arguments say; DOMAIN_COPY moves the bytes of its range, but for the blocks that are poisoned (22 R399); REKEY starts a
handshake; the reports are written where the arguments say; WARM_RESET ends and restarts the boot order with all volatile state discarded (Table 167, 23
R419). That this leaves device memory listing nothing, and which state counts as volatile, are the model's choices (logs 8 and 37). -/
def Obligations.ManagementTables : Prop :=
  ∀ (desc : DWord) (s : State) (d : Nat),
    let part := d / 2 ^ 8 % 8
    let addr := d / 2 ^ 64 % 2 ^ 64
    let entry := d / 2 ^ 128 % 2 ^ 128
    let apart (n : Nat) : Prop := addr + n ≤ desc.toNat + 56 ∨ desc.toNat + 64 ≤ addr
    let reports (i : Instr) (bs : List Byte) (count : Nat) : Prop := apart bs.length → ∃ t, exec i s = .next t ∧ EndedWith t desc 0 count ∧
      t.mem.readHost addr bs.length = natOfBytes bs ∧ t.mem.dram = s.mem.dram ∧ t.parts = s.parts
    (s.Runs 5 desc [(64, 8), (128, 128)] d → (s.part part).created = true → entry / 2 ^ 120 % 32 = 0 → entry / 2 ^ 59 % 8 = 0 →
      let n := d / 2 ^ 64 % 256
      ∃ t, exec (.installGate desc) s = .next t ∧ EndedWith t desc 0 0 ∧ sget 0 (t.part part).gates n = BitVec.ofNat 128 entry ∧
        ∀ k, k ≠ n → sget 0 (t.part part).gates k = sget 0 (s.part part).gates k) ∧
    (s.Runs 6 desc [(64, 6), (128, 128)] d → entry / 2 ^ 57 % 2 ^ 37 = 0 → (entry.testBit 127 = true → sgSize entry ≠ 0 ∧ sgBase entry % 65536 = 0) →
      let n := d / 2 ^ 64 % 64
      ∃ t, exec (.writeSegment desc) s = .next t ∧ EndedWith t desc 0 0 ∧ sget 0 t.iod.segments n = BitVec.ofNat 128 entry ∧
        ∀ k, k ≠ n → sget 0 t.iod.segments k = sget 0 s.iod.segments k) ∧
    (s.Runs 7 desc [(64, 10), (128, 128)] d → entry / 2 ^ 124 % 4 = 0 → entry / 2 ^ 64 % 2 ^ 24 = 0 →
      let n := d / 2 ^ 64 % 1024
      ∃ t, exec (.writePeer desc) s = .next t ∧ EndedWith t desc 0 0 ∧ (t.peer n).entry = BitVec.ofNat 128 entry ∧ (t.peer n).lost = false ∧
        ∀ k, k ≠ n → t.peer k = s.peer k) ∧
    (s.Runs 8 desc [(64, 4), (128, 64)] d →
      let x := s.mem.readHost (d / 2 ^ 128 % 2 ^ 64) 144
      ∃ t, exec (.writeTrust desc) s = .next t ∧ EndedWith t desc 0 0 ∧ sget none t.plat.trust (d / 2 ^ 64 % 16) =
        some (BitVec.ofNat 384 x, BitVec.ofNat 384 (x / 2 ^ 384), BitVec.ofNat 384 (x / 2 ^ 768))) ∧
    (s.Runs 9 desc [(64, 10)] d →
      let n := d / 2 ^ 64 % 1024
      (s.canShake n = true → ∃ t, exec (.rekey desc) s = .next t ∧ EndedWith t desc 0 0 ∧
        (s.plat.device < n → (t.peer n).kx = .sentKx1 ∧ (t.peer n).initiator = true) ∧ (n < s.plat.device → (t.peer n).kx = .idle)) ∧
      (s.canShake n = false → ∃ t, exec (.rekey desc) s = .next t ∧ EndedWith t desc 1 0 ∧ t.iod = s.iod)) ∧
    (s.Runs 0x0A desc [(64, 320)] d → (s.part part).created = true ∨ part = 0 →
      let r := s.report (s.part part).digest (BitVec.ofNat 256 (d / 2 ^ 128))
      reports (.getReport desc) r r.length) ∧
    (s.Runs 0x0B desc [(64, 96)] d →
      let a := Config.identityCert
      let b := Config.attestationCert s.plat.akeyPub
      let all := bytesOf a.length 4 ++ a ++ bytesOf b.length 4 ++ b
      (all.length ≤ d / 2 ^ 128 % 2 ^ 32 → reports (.getCerts desc) all all.length) ∧
      (d / 2 ^ 128 % 2 ^ 32 < all.length → ∃ t, exec (.getCerts desc) s = .next t ∧ EndedWith t desc 1 0)) ∧
    (s.Runs 0x0C desc [(64, 64), (128, 1)] d → reports (.readErrors desc) s.errorBytes 0 ∧
      (d.testBit 128 = true → ∃ t, exec (.readErrors desc) s = .next t ∧ t.health = { s.health with counters := [] })) ∧
    (s.Runs 0x11 desc [(64, 64), (128, 1)] d → reports (.readLinks desc) ((List.range 128).flatMap fun n => s.laneBytes n) 0 ∧
      (d.testBit 128 = true → ∃ t, exec (.readLinks desc) s = .next t ∧ ∀ n, n < 128 →
        t.lane n = { s.lane n with tagFail := 0, replays := 0, downs := 0, refused := 0 })) ∧
    (s.Runs 0x12 desc [(64, 64)] d → reports (.readHealth desc) ((List.range 17).flatMap fun u => s.healthBytes u) 0) ∧
    (s.Runs 0x13 desc [(64, 64)] d → ∃ t, exec (.writeConfig desc) s = .next t ∧ EndedWith t desc 0 0 ∧
      t.plat.flash = BitVec.ofNat 512 (s.mem.readHost addr 64) ∧ t.plat.carve = s.plat.carve ∧ t.plat.device = s.plat.device) ∧
    (s.Runs 0x10 desc [] d → ∃ t, exec (.warmReset desc) s = .next t ∧ t.mem.readHost (desc.toNat + 56) 8 = 0 ∧ t.plat.bootStatus = 1 ∧
      t.plat.pending = none ∧ t.mem.dram = [] ∧ t.mem.spad = [] ∧ t.parts = [] ∧ t.teams = [] ∧ t.flights = [] ∧ t.plat.flash = s.plat.flash) ∧
    (s.Runs 0x14 desc [(64, 4), (72, 1), (96, 160)] d → (s.part part).created = true →
      let len := d / 2 ^ 96 % 2 ^ 32
      let va := d / 2 ^ 128 % 2 ^ 64
      let host := d / 2 ^ 192 % 2 ^ 64
      let dom := d / 2 ^ 64 % 16
      4 ≤ len → len % 4 = 0 → va % 2048 + len ≤ 2048 → va + len ≤ 2 ^ 57 →
        (∀ ph, s.translate part dom va = .ok ph → ph.target = 0 → host + len ≤ desc.toNat + 56 ∨ desc.toNat + 64 ≤ host →
          (d.testBit 72 = true → ∃ t, exec (.domainCopy desc) s = .next t ∧ EndedWith t desc 0 0 ∧
            t.mem.dram = s.mem.dram ∧ (∀ i, i < len → sget false s.mem.dramPoison ((ph.addr + i) / 32) = false →
              sget 0 t.mem.host (host + i) = sget 0 s.mem.dram (ph.addr + i)) ∧
            ∀ a, a < host ∨ host + len ≤ a → a < desc.toNat + 56 ∨ desc.toNat + 64 ≤ a → sget 0 t.mem.host a = sget 0 s.mem.host a) ∧
          (d.testBit 72 = false → ∃ t, exec (.domainCopy desc) s = .next t ∧ EndedWith t desc 0 0 ∧
            t.mem.readDram ph.addr len = s.mem.readHost host len ∧ ∀ a, a < ph.addr ∨ ph.addr + len ≤ a → sget 0 t.mem.dram a = sget 0 s.mem.dram a)) ∧
        ((∀ ph, s.translate part dom va = .ok ph → ph.target ≠ 0) → ∃ t, exec (.domainCopy desc) s = .next t ∧ EndedWith t desc 1 0 ∧ t.mem.dram = s.mem.dram))

/-! ### Boot, resets, power and health -/

/-- R367, R368 (20) and R415, R419 (23): a boot starts with all volatile state gone and flash kept, on power-good and at a warm reset; its steps measure the
firmware and take the configuration record, bring up the host link, start a pilot on every core in service, make the attestation key and
train the lanes; a failed signature stops it with the link down, and every read is then answered with Unsupported Request. The removal of power-good leaves the module without a running unit. -/
def Obligations.BootAndResets : Prop :=
  (∀ s : State,
    let fresh (status : Nat) : State := { State.reset with
      plat := { bootStatus := status, flash := s.plat.flash }, health := { history := s.health.history, fenced := s.health.fenced },
      mem := { host := s.mem.host }, free := s.free, serial := s.serial, agenda := s.agenda }
    (s.plat.bootStatus = 0 → exec .powerGood s = .next (fresh 1)) ∧
    (s.plat.bootStatus ≠ 0 → exec .hotReset s = .next { fresh 1 with health := { (fresh 1).health with status := BitVec.ofNat 4 (s.health.status.toNat % 2) } }) ∧
    (∃ t, exec .powerGoodRemoval s = .next t ∧ t.plat = { bootStatus := 0, flash := s.plat.flash } ∧ t.mem = { host := s.mem.host } ∧ t.groups = [] ∧
      t.grp.st = .free ∧ t.health = { history := s.health.history, fenced := s.health.fenced } ∧ t.parts = [] ∧ t.flights = []) ∧
    (s.plat.bootStatus = 1 → exec (.bootStepComplete true) s =
      .next { s with plat := { s.plat with bootStatus := 2, m0 := Config.sha384 Config.iodImage } }) ∧
    (s.plat.bootStatus = 2 → ∃ t, exec (.bootStepComplete true) s = .next t ∧ t.port.up = true ∧ t.plat.bootStatus = 3 ∧
      t.plat.m2 = Config.sha384 (bytesOf s.plat.flash.toNat 64) ∧
      (s.plat.flash = defaultConfig → t.plat.device = 0 ∧ t.plat.carve = 0 ∧ t.plat.pwrLimit = 3200) ∧
      ((s.plat.flash.extractLsb' 0 32 ≠ 0x43464744 ∨ s.plat.flash.extractLsb' 32 16 ≠ 1) → t.plat.device = 0 ∧ t.plat.carve = 0 ∧ t.plat.pwrLimit = 3200) ∧
      t.mem = s.mem ∧ t.parts = s.parts) ∧
    (s.plat.bootStatus = 3 → ∃ t, exec (.bootStepComplete true) s = .next t ∧ t.plat.bootStatus = 4 ∧ t.plat.m1 = Config.sha384 Config.pilotImage ∧
      t.mem.dram = s.mem.dram ∧ (∀ n, readBytes t.mem.pilot n 1 = ((Config.pilotImage[n]?).getD 0).toNat) ∧
      ∀ c, c < 256 → (sget false s.health.fenced c = false → (t.core c).pilot = true ∧ pilotOf c ∈ t.groups) ∧
        (sget false s.health.fenced c = true → (t.core c).pilot = (s.core c).pilot ∧ ∀ g ∈ t.groups, g.slot = 16 → g.core ≠ c)) ∧
    (s.plat.bootStatus = 4 → ∃ t k, exec (.bootStepComplete true) s = .next t ∧ t.plat = { s.plat with bootStatus := 5, akeyPriv := k, akeyPub := Config.p384Public k } ∧
      t = { s with plat := t.plat, free := s.free + 1 }) ∧
    (s.plat.bootStatus = 5 → ∃ t, exec (.bootStepComplete true) s = .next t ∧ t.plat.bootStatus = 0x10 ∧ (∀ n, n < 128 → (t.lane n).up = true) ∧
      t.mem.dram = s.mem.dram ∧ t.groups = s.groups) ∧
    (s.plat.bootStatus = 1 ∨ s.plat.bootStatus = 3 → exec (.bootStepComplete false) s =
      .next { s with plat := { s.plat with bootStatus := 0xE1 }, port := { s.port with up := false } }) ∧
    (s.plat.bootStatus = 0xE1 → s.port.inWrites = [] → ∀ r : HostReq, sget (0 : BitVec 256) s.port.ideKeys r.fn = 0 → 0 < r.len → r.len ≤ 4096 →
      exec (.inboundMemoryRead r) s = .next { s with port := { s.port with
        completions := s.port.completions ++ [{ fn := r.fn, requester := r.requester, unsupported := true }],
        aer := s.port.aer ++ [{ fn := r.fn, kind := 0, header := some r }] } }))

/-- R376 and R377 (20), R428, R431 and R433 (26): a power sample records the last millisecond, lowers the clock by 25 MHz above the limit or on a hot cold
plate, never below 950 MHz, and raises it by 25 MHz after ten samples below 95 percent; a health sample of 17 readings of 0 to
100 % joins the history; a unit's end of life is the least, over the monitors with a rise, of what is left over the rise per day, 0 at 100 %, and 0xFFFF
without a rise or within the first 24 h; a lane that stays down is lost; a cause of wear sets REPLACE_REQUESTED, which stays. -/
def Obligations.PowerAndHealth : Prop :=
  (∀ (mw : Nat) (hot : Bool) (s : State), 3 ≤ s.plat.bootStatus →
    let limit := s.plat.pwrLimit * 1000
    let below := if 100 * mw < 95 * limit then min 10 (s.plat.belowMs + 1) else 0
    let f := if hot = true ∨ limit < mw then max 950 (s.plat.clkNow - 25) else if below = 10 then min 1900 (s.plat.clkNow + 25) else s.plat.clkNow
    ∃ t, exec (.powerControlSample mw hot) s = .next t ∧ t.plat.pwrNow = mw ∧ t.plat.energy = s.plat.energy + mw ∧ t.plat.clkNow = f ∧
      t.plat.belowMs = below ∧ t.plat.cap = BitVec.ofNat 2 ((if f < 1900 then 1 else 0) + if hot then 2 else 0) ∧ t = { s with plat := t.plat } ∧
      (f ≠ s.plat.clkNow → t.plat.microsAt = s.micros ∧ t.plat.clkSince = s.cycle)) ∧
  (∀ (readings : List MonitorReading) (s : State), 3 ≤ s.plat.bootStatus → readings.length = 17 →
    (∀ r ∈ readings, r.age ≤ 10000 ∧ r.em ≤ 10000 ∧ r.vmin ≤ 10000 ∧ r.eye ≤ 10000) →
    ∃ t, exec (.healthSample readings) s = .next t ∧ t.health.history = (readings :: s.health.history).take 721 ∧ t.mem.dram = s.mem.dram ∧ t.grp = s.grp ∧
      (s.health.status.getLsbD 0 = true → t.health.status.getLsbD 0 = true) ∧
      ((∃ u, u < 17 ∧ (t.eol u).1 ≤ s.health.threshold) → t.health.status.getLsbD 0 = true ∧ t.health.status.getLsbD 1 = true) ∧
      (s.health.status.getLsbD 0 = false → t.health.status.getLsbD 0 = true → s.port.up = true → s.linkOpen 8 = true →
        s.port.msixMasked 8 4 = false → t.port.msix = s.port.msix ++ [(8, 4)])) ∧
  (∀ (s : State) (u : Nat) (new : List MonitorReading) (past : List (List MonitorReading)), s.health.history = new :: past → past.length ≤ 720 →
    let at_ (h : List MonitorReading) (m : Nat) : Nat := let r := h.getD u {}; [r.age, r.em, r.vmin, r.eye].getD m 0
    let used (m : Nat) : Nat := at_ new m
    let rise (m : Nat) : Nat := used m - at_ ((new :: past).getLastD []) m
    let days (m : Nat) : Nat := (10000 - used m) * past.length / (24 * rise m)
    ((∃ m, m < 4 ∧ 10000 ≤ used m) → (s.eol u).1 = 0) ∧
    ((∀ m, m < 4 → used m < 10000) →
      (past.length < 24 ∨ (∀ m, m < 4 → rise m = 0) → (s.eol u).1 = 0xFFFF) ∧
      (24 ≤ past.length → (∃ m, m < 4 ∧ 0 < rise m) →
        (∃ m, m < 4 ∧ 0 < rise m ∧ (s.eol u).1 = min (days m) 0xFFFE) ∧ ∀ m, m < 4 → 0 < rise m → (s.eol u).1 ≤ days m))) ∧
  ∀ (lane : Nat) (s : State), (s.lane lane).up = false → lane < 128 → s.plat.bootStatus = 0x10 →
    ∃ t, exec (.planeLost lane) s = .next t ∧ t.lane lane = { s.lane lane with lost := true } ∧ (∀ n, n ≠ lane → t.lane n = s.lane n) ∧
      t.mem.dram = s.mem.dram ∧ t.health = { s.health with status := t.health.status }

/-- R399, R400 and Table 160 (22), R432 (26): a corrected event is counted and logged and changes no data; an uncorrectable one is counted, logged, reported
by vector 1 of the PF, and poisons the word, granule or block that it struck, sets a full bit whose state is lost, drops a line of the L1
or the TLB, derives a translation register again, and halts the partition whose group's state is lost. -/
def Obligations.EccErrors : Prop :=
  ∀ (e : EccEvent) (s : State), s.siteOk e.site = true →
    let unit := s.siteUnit e.site
    let logged (t : State) : Prop := t.health.logged = s.health.logged + 1 ∧ ∃ r, t.health.log.getLast? = some r ∧ r.unit = unit ∧ r.time = s.micros ∧
      r.structure_ = (if e.corrected then 13 else eccCode e.site) ∧ r.kind = eccKind e ∧ r.core = (s.siteCore e.site).getD 511 ∧
      (∀ c n, e.site = .spad c n → r.location = 16 * n) ∧ (∀ pa, e.site = .dram pa → r.location = pa)
    (e.corrected = true → ∃ t, exec (.eccErrorDetected e) s = .next t ∧ logged t ∧
      sget 0 t.health.counters (unit * 3) = sget 0 s.health.counters (unit * 3) + 1 ∧ t = { s with health := t.health }) ∧
    (e.corrected = false → ∃ t, exec (.eccErrorDetected e) s = .next t ∧ logged t ∧
      sget 0 t.health.counters (unit * 3 + 1) = sget 0 s.health.counters (unit * 3 + 1) + 1 ∧
      (s.port.up = true → s.linkOpen 8 = true → s.port.msixMasked 8 1 = false → (8, 1) ∈ t.port.msix) ∧
      let bits (poison full dram : List (Nat × Bool)) : Prop := t.mem.spad = s.mem.spad ∧ t.mem.dram = s.mem.dram ∧ t.mem.spadPoison = poison ∧
        t.mem.full = full ∧ t.mem.dramPoison = dram
      (∀ l r, e.site = .mainReg s.grp.key l r → (∀ u ∈ s.cur :: s.grp.units, u.region = none) →
        (sget {} t.grp.r.v (l * 256 + r)).poison = true ∨ t.grp.st = .free) ∧
      (∀ r, e.site = .uniformReg s.grp.key r → (sget {} t.grp.r.s r).poison = true ∨ t.grp.st = .free) ∧
      (∀ c n, e.site = .spad c n → bits (sset false s.mem.spadPoison (granKey c (n * 16)) true) s.mem.full s.mem.dramPoison) ∧
      (∀ c n, e.site = .fullBit c n → bits (sset false s.mem.spadPoison (granKey c (n * 16)) true) (sset false s.mem.full (granKey c (n * 16)) true) s.mem.dramPoison) ∧
      (∀ c x n, e.site = .tile c x n → (sget {} ((t.core c).ctx x).tiles n).poison = true) ∧
      (∀ c q n w, e.site = .queue c q n → ((s.core c).hq q).items[n]? = some w → ((t.core c).hq q).items[n]? = some { w with poison := true }) ∧
      (∀ c n, e.site = .l1 c n → (∀ l ∈ (t.core c).l1, l.key ≠ n) ∧ bits s.mem.spadPoison s.mem.full s.mem.dramPoison) ∧
      (∀ c va, e.site = .tlb c none va → (∀ x ∈ (t.core c).tlb, x.va ≠ va) ∧ bits s.mem.spadPoison s.mem.full s.mem.dramPoison) ∧
      (∀ c p va, e.site = .tlb c (some p) va → (∀ x ∈ sget [] (t.core c).pipeTlb p, x.va ≠ va) ∧ bits s.mem.spadPoison s.mem.full s.mem.dramPoison) ∧
      (∀ va, e.site = .pte va → ∀ x ∈ t.iod.ptes, x.va ≠ va) ∧
      (∀ pa, e.site = .cleanLine pa → bits s.mem.spadPoison s.mem.full s.mem.dramPoison ∧ t.flights = s.flights) ∧
      (∀ pa, e.site = .dram pa → bits s.mem.spadPoison s.mem.full (sset false s.mem.dramPoison (pa / 32) true) ∧
        ∀ p, (s.part p).created = true → (s.part p).table ≤ pa → pa < (s.part p).table + 4096 → (t.part p).queueBad ((pa - (s.part p).table) / 64) = true) ∧
      (∀ n, e.site = .xlate s.grp.key n → n < 32 → s.team.stream = s.grp.key.stream → t.grp.st = .free ∨
        sget ({} : XReg) t.grp.xlate n = s.deriveReg s.team.part s.grp.sys.domain (sget 0 (s.grp.table s.team) n)) ∧
      (∀ c, e.site = .control c (some s.grp.key) → s.grp.slot ≠ 16 → s.team.stream = s.grp.key.stream → s.myPart.halt.state = 0 →
        (t.part s.team.part).halt.state = 1))

/-! ### The fabric -/

/-- R338 to R344, R346 (14), R404 and R412 (23): a frame takes the waiting packets of its destination and channel in order on the next lane in the
rotation; requests stay for retransmission and the rest are gone; a key message of epoch 0 travels in clear with a zero tag; a packet for the device
itself is performed in its turn. In a frame of epoch 0 only key messages count, and an acknowledgement that covers nothing new is dropped (24 R421). A frame that the link cannot take is answered with a nack, a duplicate with the ack again; one that it takes fills
and frees its flits of the input pool, and then: one that opens under the key of its epoch delivers its packets, and one that does not is
counted against its lane. -/
def Obligations.Frames : Prop :=
  (∀ (dest vc : Nat) (s : State) (n : Nat),
    let took := takeBody (s.waitingFor dest vc) 960
    took ≠ [] → dest ≠ s.plat.device → (s.peer dest).lost = false →
    s.nextLane dest vc (ceilDiv ((took.map fun o => packetSize o.packet).sum) 64 + 1) = some n → sget 0 (s.peer dest).counters n + 1 < 2 ^ 39 →
    let p := s.peer dest
    let l := s.lane n
    let clear := took.flatMap fun o => packetBytes o.packet
    let sends (t : State) (f g : Frame) : Prop := exec (.frameTransmit dest vc) s = .next t ∧
      (t.lane n).replay = l.replay ++ [(l.linkSeq, { g with link := { seq := BitVec.ofNat 12 l.linkSeq, crc := frameCrc g } })] ∧
      f.src = s.plat.device ∧ f.dst = dest ∧ f.plane = n ∧ f.vc = vc ∧ f.body.take clear.length = clear ∧ f.body.length % 64 = 0 ∧
      (t.peer dest).lastPlane = n ∧ (∀ m, m ≠ n → t.lane m = s.lane m) ∧ t = { s with iod := t.iod } ∧
      (∀ o, s.iod.out = [o] → took = [o] → t.iod.out = if o.packet.kind ≤ 4 then [{ o with sent := true, lane := n }] else [])
    (vc ≠ 35 → s.keyed dest = true → ∃ t f, sends t f (sealFrame p.sendKey f) ∧ f.epoch = p.epoch ∧ f.counter = sget 0 p.counters n ∧
      f.gmac = peGmac p.entry vc ∧ sget 0 (t.peer dest).counters n = sget 0 p.counters n + 1) ∧
    (vc = 35 → (∀ o ∈ took, o.epoch = 0) → ∃ t f, sends t f f ∧ f.epoch = 0 ∧ f.tag = 0 ∧ f.gmac = false ∧ (t.peer dest).counters = p.counters)) ∧
  (∀ (vc : Nat) (s : State) (o : OutPacket), s.iod.out = [o] → o.dest = s.plat.device → o.vc = vc → o.sent = false → packetSize o.packet ≤ 960 → o.packet.kind = 0 →
    ∀ pa, s.requestPlace s.plat.device o.packet = .ok pa → o.packet.length = o.packet.payload.length →
    ∃ t, exec (.frameTransmit s.plat.device vc) s = .next t ∧ t.mem = s.mem.writeDram pa o.packet.length (natOfBytes o.packet.payload) false ∧ t.grp = s.grp) ∧
  ∀ (lane : Nat) (f : Frame) (s : State), (s.lane lane).up = true →
    let l := s.lane lane
    let ahead := (f.link.seq.toNat + 4096 - l.recvSeq) % 4096
    let answers (ok : Bool) (n : Nat) : Prop := ∃ t, exec (.frameReceived lane f) s = .next t ∧ t.lane lane = { l with answer := some (ok, n) } ∧
      (∀ m, m ≠ lane → t.lane m = s.lane m) ∧ t = { s with iod := { s.iod with lanes := t.iod.lanes } }
    (f.link.fec = false ∨ f.link.crc ≠ frameCrc f → answers false l.recvSeq) ∧
    (f.link.fec = true → f.link.crc = frameCrc f → ahead ≠ 0 →
      (ahead < 2048 → answers false l.recvSeq) ∧ (2048 ≤ ahead → answers true ((l.recvSeq + 4095) % 4096))) ∧
    (f.link.fec = true → f.link.crc = frameCrc f → ahead = 0 → f.plane = lane → f.dst = s.plat.device → f.src ≠ s.plat.device →
      peValid (s.peer f.src).entry = true → (s.peer f.src).lost = false → f.body.length % 64 = 0 → 64 ≤ f.body.length → f.body.length ≤ 960 →
      let n := f.body.length / 64 + 1
      let takes (t : State) : Prop := exec (.frameReceived lane f) s = .next t ∧ (t.lane lane).recvSeq = (l.recvSeq + 1) % 4096 ∧
        (t.lane lane).answer = some (true, l.recvSeq) ∧ sget 0 (t.lane lane).granted f.vc = sget 0 l.granted f.vc + n ∧
        sget 0 (t.lane lane).pool f.vc = sget 0 l.pool f.vc
      (f.epoch = 0 → f.vc = 35 → f.tag = 0 → f.gmac = false → ∀ p, packetsOf 30 f.body = [p] →
        (p.kind = 10 → p.sos = true → p.payload.length < 256 → (s.peer f.src).kxEarly = [] → ∃ t, takes t ∧
          (t.peer f.src).kxIn = (s.peer f.src).kxIn ++ [p.payload] ∧ (t.peer f.src).kxNext = (p.seq + 1) % 65536 ∧ t = { s with iod := t.iod }) ∧
        (p.kind ≠ 10 → ∃ t, takes t ∧ t = { s with iod := { s.iod with lanes := t.iod.lanes } })) ∧
      (¬ (f.epoch = 0 ∧ f.vc = 35) →
        (∀ body, (s.peer f.src).clearBody f = some body → packetsOf 30 body = [] → ∃ t, takes t ∧ t = { s with iod := { s.iod with lanes := t.iod.lanes } }) ∧
        (∀ body p, (s.peer f.src).clearBody f = some body → packetsOf 30 body = [p] →
          (p.kind = 6 → p.stream ≠ 0 → ∀ e, s.keyEntry ⟨p.stream, p.chan, f.src * 5 + 4⟩ = some e → e.key = ⟨p.stream, p.chan, f.src * 5 + 4⟩ →
            let n := (p.seq + 65536 - e.ackSeq) % 65536
            (1 ≤ n → n ≤ e.unacked → ∃ t, takes t ∧
              t = { s with iod := { s.iod with lanes := t.iod.lanes, acks := s.iod.acks ++ [(⟨p.stream, p.chan, f.src * 5 + 4⟩, p.seq)] } }) ∧
            (n = 0 ∨ e.unacked < n → ∃ t, takes t ∧ t = { s with iod := { s.iod with lanes := t.iod.lanes } })) ∧
          (p.kind = 7 ∨ p.kind = 8 ∨ p.kind = 9 → ∃ t, takes t ∧
            t = { s with iod := { s.iod with lanes := t.iod.lanes, inbox := s.iod.inbox ++ [(f.src, p)] } }) ∧
          (p.kind = 0 → p.seq = 0 → p.sos = true → s.seqState ⟨f.src, p.stream, p.chan⟩ = none → ⟨f.src, p.stream, p.chan⟩ ∉ s.iod.refused → s.iod.keys.length < 262144 →
            ∀ pa, s.requestPlace f.src p = .ok pa → p.payload.length = p.length →
            ∃ t a, takes t ∧ t.mem = s.mem.writeDram pa p.length (natOfBytes p.payload) false ∧
              t.seqState ⟨f.src, p.stream, p.chan⟩ = some { key := ⟨f.src, p.stream, p.chan⟩, expected := 1, first := some p, heard := s.micros } ∧
              a ∈ t.iod.out ∧ a.dest = f.src ∧ a.packet.kind = 6 ∧ a.packet.seq = 1 ∧ t.grp = s.grp)) ∧
        ((s.peer f.src).clearBody f = none → ((s.peer f.src).tagFails.filter fun x => decide (s.micros < x + 1000)).length + 1 < 8 →
          ∃ t, takes t ∧ (t.lane lane).tagFail = l.tagFail + 1 ∧ t.mem = s.mem ∧ t.flights = s.flights ∧
            t.iod.out = s.iod.out ∧ t.iod.keys = s.iod.keys)))

/-- R343 (14), R408 to R411 and R439 (23): a nack of no room waits 20 µs and sends its key again, another nack and a packet that waits 50 µs start a
resynchronising exchange with a RESYNC of the oldest sequence number; the destination answers with the number it expects or that it has
no state; the reply acknowledges up to that number and sends the rest again, one of no state renumbers the key from 0, or, where a packet is lost for good,
gives the key up with a RESYNC that says so; the RESYNC is repeated until it is answered; a response
that does not come poisons its load and is logged; the state of a key goes only when it is idle: nothing stored, its acks gone out, and nothing
heard for 10 ms, or 3 ms while every key is taken. -/
def Obligations.Resynchronisation : Prop :=
  (∀ (src : Nat) (p : Packet) (s : State) (e : ChanEntry), (src, p) ∈ s.iod.inbox → p.kind = 7 →
    let k : ChanKey := ⟨p.stream, p.chan, src * 5 + 4⟩
    let rest (t : State) : State := { s with cores := t.cores, teams := t.teams, team := t.team, iod := { s.iod with inbox := s.iod.inbox.erase (src, p), out := t.iod.out } }
    s.keyEntry k = some e → e.key = k → e.unacked ≠ 0 →
    (p.payload = [3] → ∃ t, exec (.nackReceived src p) s = .next t ∧ t.keyEntry k = some { e with noRoom := true } ∧ t = rest t ∧ t.iod.out = s.iod.out) ∧
    (p.payload ≠ [3] → e.exchange = false → s.remoteKey k = true → ∃ t, exec (.nackReceived src p) s = .next t ∧ t.keyEntry k = some { e with exchange := true } ∧
      t.iod.out = s.iod.out ++ [{ dest := k.die / 5, vc := 34, packet := { stream := k.stream, chan := k.chan, seq := e.ackSeq, kind := 8 } }] ∧ t = rest t)) ∧
  (∀ (k : ChanKey) (s : State) (e : ChanEntry), s.keyEntry k = some e → e.key = k →
    (e.noRoom = true → ∃ t, exec (.noRoomRetry k) s = .next t ∧ t.keyEntry k = some { e with noRoom := false } ∧
      t.iod.out = s.iod.out.map (fun o => if o.key = some k then { o with sent := false } else o) ∧ t.mem = s.mem ∧ t.grp = s.grp) ∧
    (s.sentKey k = true → e.exchange = false → e.unacked ≠ 0 → s.remoteKey k = true → ∃ t, exec (.resyncTimeout k) s = .next t ∧
      t.keyEntry k = some { e with exchange := true } ∧ t.mem = s.mem ∧ t.grp = s.grp ∧
      t.iod.out = s.iod.out ++ [{ dest := k.die / 5, vc := 34, packet := { stream := k.stream, chan := k.chan, seq := e.ackSeq, kind := 8 } }]) ∧
    (e.exchange = true → e.unacked ≠ 0 → s.remoteKey k = true →
      (∀ o ∈ s.iod.out, ¬ (o.dest = k.die / 5 ∧ o.packet.kind = 8 ∧ o.packet.stream = k.stream ∧ o.packet.chan = k.chan)) →
      ∃ t, exec (.resyncRetry k) s = .next t ∧ t.keyEntry k = some e ∧ t.mem = s.mem ∧ t.grp = s.grp ∧
        t.iod.out = s.iod.out ++ [{ dest := k.die / 5, vc := 34, packet := { stream := k.stream, chan := k.chan, seq := e.ackSeq, kind := 8 } }])) ∧
  (∀ (src : Nat) (p : Packet) (s : State), (src, p) ∈ s.iod.inbox → p.kind = 8 →
    let k : SeqKey := ⟨src, p.stream, p.chan⟩
    let answer (seq : Nat) (bs : List Byte) : OutPacket :=
      { dest := src, vc := 34, packet := { stream := p.stream, chan := p.chan, seq := seq, kind := 9, length := bs.length, payload := bs } }
    (p.payload = [1] → ∃ t, exec (.resync src p) s = .next t ∧ t.seqState k = none ∧ t.iod.out = s.iod.out ∧ t.mem = s.mem) ∧
    (p.payload ≠ [1] → (∀ x, s.seqState k = some x → ∃ t, exec (.resync src p) s = .next t ∧ t.iod.out = s.iod.out ++ [answer x.expected []] ∧
        t.seqState k = some { x with heard := s.micros } ∧ t.mem = s.mem) ∧
      (s.seqState k = none → ∃ t, exec (.resync src p) s = .next t ∧ t.iod.out = s.iod.out ++ [answer 0 [2]] ∧ t.seqState k = none ∧ t.mem = s.mem))) ∧
  (∀ (src : Nat) (p : Packet) (s : State) (e : ChanEntry), (src, p) ∈ s.iod.inbox → p.kind = 9 → p.payload ≠ [2] →
    let k : ChanKey := ⟨p.stream, p.chan, src * 5 + 4⟩
    s.keyEntry k = some e → e.key = k → e.exchange = true → e.lostPackets = [] → e.ackSeq < 65536 →
    ∀ n, n ≤ e.unacked → n < 65536 → p.seq = (e.ackSeq + n) % 65536 →
    ∃ t x, exec (.resyncReply src p) s = .next t ∧ t.keyEntry k = some x ∧ x.exchange = false ∧ x.ackSeq = p.seq ∧ x.unacked = e.unacked - n ∧
      (∀ o ∈ t.iod.out, o.key = some k → o.sent = false) ∧ t.iod.inbox = s.iod.inbox.erase (src, p) ∧ t.mem = s.mem) ∧
  (∀ (src : Nat) (p : Packet) (s : State) (e : ChanEntry), (src, p) ∈ s.iod.inbox → p.kind = 9 → p.payload = [2] →
    let k : ChanKey := ⟨p.stream, p.chan, src * 5 + 4⟩
    s.keyEntry k = some e → e.key = k → e.exchange = true →
    (e.lostPackets = [] → ∃ t x, exec (.resyncReply src p) s = .next t ∧ t.keyEntry k = some x ∧ x.exchange = false ∧ x.ackSeq = 0 ∧
      x.nextSeq = e.unacked ∧ x.unacked = e.unacked ∧ (∀ o ∈ t.iod.out, o.key = some k → o.sent = false ∧ (o.packet.sos = true ↔ o.packet.seq = 0)) ∧ t.mem = s.mem) ∧
    (e.lostPackets ≠ [] → ∃ t, exec (.resyncReply src p) s = .next t ∧ (∀ o ∈ t.iod.out, o.key ≠ some k) ∧ t.mem = s.mem ∧
      { dest := src, vc := 34, packet := { stream := p.stream, chan := p.chan, seq := e.ackSeq, kind := 8, length := 1, payload := [1] } } ∈ t.iod.out)) ∧
  (∀ (id : Nat) (s : State) (f : Flight), s.flight? id = some f → f.rtag.isSome = true → f.kind.returns = true → f.performed = false → 3 ≤ f.done →
    ∃ t g, exec (.responseTimeout id) s = .next t ∧ t.flight? id = some g ∧ g.performed = true ∧ g.rpoison = true ∧ t.health.logged = s.health.logged + 1 ∧ t.mem = s.mem ∧ t.grp = s.grp) ∧
  ∀ (k : SeqKey) (s : State) (x : SeqState), s.seqState k = some x →
    let acking : Prop := ∃ o ∈ s.iod.out, o.dest = k.src ∧ o.packet.kind = 6 ∧ o.packet.stream = k.stream ∧ o.packet.chan = k.chan
    let due : Prop := x.heard + (if s.iod.keys.length < 262144 then 10000 else 3000) ≤ s.micros
    (x.stored ≠ [] ∨ acking ∨ ¬ due → exec (.keyStateIdleDrop k) s = .next s) ∧
    (x.stored = [] → ¬ acking → due → ∃ t, exec (.keyStateIdleDrop k) s = .next t ∧ t.seqState k = none ∧ (∀ j, j ≠ k → t.seqState j = s.seqState j) ∧
      t = { s with iod := { s.iod with keys := t.iod.keys } })

/-- R341 (14), R404 and R405 (23), R433 (26): a link ack frees the frames up to the one it names; a link nack or a timeout replays, and after the third
replay the lane goes down with its buffer; a lane that is down is retrained and rejoins, in service again; a notice takes a plane out of
the rotation towards a device and a probe that succeeds puts it back; a grant frees flits. -/
def Obligations.FabricLinks : Prop :=
  ∀ (lane : Nat) (s : State),
    let l := s.lane lane
    let only (t : State) : Prop := (∀ n, n ≠ lane → t.lane n = s.lane n) ∧ t = { s with iod := { s.iod with lanes := t.iod.lanes } }
    (∀ seq a b f, l.replay = a ++ (seq, f) :: b → (∀ x ∈ a, x.1 ≠ seq) → ∃ t, exec (.linkAckReceived lane seq) s = .next t ∧ only t ∧
      t.lane lane = { l with replay := b, fails := 0 }) ∧
    (∀ i ∈ ([.linkNackReceived lane, .linkAckTimeout lane] : List Instr),
      (l.replay = [] → exec i s = .next s) ∧
      (l.replay ≠ [] → l.fails < 3 → ∃ t, exec i s = .next t ∧ only t ∧ t.lane lane = { l with fails := l.fails + 1, replays := l.replays + 1 }) ∧
      (l.replay ≠ [] → 3 ≤ l.fails → ∃ t, exec i s = .next t ∧ (t.lane lane).up = false ∧ (t.lane lane).replay = [] ∧ (t.lane lane).downs = l.downs + 1)) ∧
    (l.up = true → ∃ t, exec (.laneDownSignal lane) s = .next t ∧ (t.lane lane).up = false ∧ (t.lane lane).replay = [] ∧ (t.lane lane).downs = l.downs + 1 ∧
      (∀ n, n ≠ lane → t.lane n = s.lane n) ∧ t.mem = s.mem ∧ t.grp = s.grp) ∧
    (l.up = false → lane < 128 → s.plat.bootStatus = 0x10 → ∀ ok, ∃ t, exec (.laneRetrain lane ok) s = .next t ∧ only t ∧ t.lane lane = { l with retrained := ok }) ∧
    (l.up = false → l.retrained = true → ∃ t, exec (.planeRejoin lane) s = .next t ∧ only t ∧
      t.lane lane = { l with up := true, retrained := false, lost := false }) ∧
    (∀ vc n, ∃ t, exec (.creditGrant lane vc n) s = .next t ∧ only t ∧ sget 0 (t.lane lane).used vc = sget 0 l.used vc - n ∧
      ∀ k, k ≠ vc → sget 0 (t.lane lane).used k = sget 0 l.used k) ∧
    ∀ dest, let p := s.peer dest
      (∃ t, exec (.planeUnreachableNotice lane dest) s = .next t ∧ (∀ n, n ∈ (t.peer dest).excluded ↔ n = lane ∨ n ∈ p.excluded) ∧
        (∀ d, d ≠ dest → t.peer d = s.peer d) ∧ t.peer dest = { p with excluded := (t.peer dest).excluded }) ∧
      (∃ t, exec (.planeProbe lane dest true) s = .next t ∧ (∀ n, n ∈ (t.peer dest).excluded ↔ n ≠ lane ∧ n ∈ p.excluded) ∧
        (∀ d, d ≠ dest → t.peer d = s.peer d) ∧ t.peer dest = { p with excluded := (t.peer dest).excluded }) ∧
      exec (.planeProbe lane dest false) s = .next s

/-- R348 (14), Table 121, R412 and R413 (23): KX1 from a lower device that is trusted is answered with KX2; KX2 and KX3 that verify give both directions' keys
and a new epoch with counters from 0, the previous epoch still being accepted until it expires; a message counts once all its packets have arrived, and its answer
leaves in packets on virtual channel 35 under the epoch in use; what fails is abandoned, logged and reported,
and its initiator starts afresh; a peer that shows no sign of life is lost, and an idle port shows one. -/
def Obligations.Handshakes : Prop :=
  ∀ (d : Nat) (s : State),
    let p := s.peer d
    let fails (i : Instr) (q : Peer) : Prop := ∃ t, exec i s = .next t ∧ t.peer d = { q with kx := .failed } ∧
      (∃ r, t.health.log.getLast? = some r ∧ r.structure_ = 16 ∧ r.unit = 4 ∧ r.location = d * 16) ∧ t.health.logged = s.health.logged + 1 ∧
      t.mem.dram = s.mem.dram ∧ (s.port.up = true → s.linkOpen 8 = true → s.port.msixMasked 8 3 = false → t.port.msix = s.port.msix ++ [(8, 3)])
    let sent (t : State) (bs : List Byte) : Prop := ∃ o ∈ t.iod.out, o.dest = d ∧ o.vc = 35 ∧ o.packet.kind = 10 ∧ o.packet.sos = true ∧
      o.packet.payload = bs.take 256 ∧ o.packet.seq = p.kxSeq % 65536 ∧ o.epoch = p.epoch
    let keyed (i : Instr) (t : State) (own : BitVec 384) (other : BitVec 768) (ni nr : BitVec 256) : Prop := ∃ q, exec i s = .next t ∧ t.peer d = q ∧
      q.epoch = p.epoch % 3 + 1 ∧ q.kx = .idle ∧ q.counters = [] ∧ q.prevEpoch = p.epoch ∧ q.prevRecvKey = p.recvKey ∧ q.prevSendKey = p.sendKey ∧
      q.prevCounters = p.counters ∧ q.prevValid = decide (p.epoch ≠ 0) ∧ (∀ k, k ≠ d → t.peer k = s.peer k) ∧
      t = { s with iod := { s.iod with peers := t.iod.peers, out := t.iod.out } } ∧
      q.sendKey = Config.hkdf (BitVec.ofNat 512 (ni.toNat + nr.toNat * 2 ^ 256)) (Config.ecdh own other) p.initiator q.epoch ∧
      q.recvKey = Config.hkdf (BitVec.ofNat 512 (ni.toNat + nr.toNat * 2 ^ 256)) (Config.ecdh own other) (!p.initiator) q.epoch
    let body (m : KxMessage) : List Byte := bytesOf m.nonce.toNat 32 ++ bytesOf m.pub.toNat 96 ++ m.report
    let without (bs : List Byte) : Peer := { p with kxIn := p.kxIn.erase bs }
    (∀ m : KxMessage, s.canShake d = true → d < s.plat.device → m.report.length = 436 → m.sig = 0 →
      let bs := body m ++ m.certs
      (bs ∉ p.kxIn → exec (.kx1 d m) s = .next s) ∧
      (bs ∈ p.kxIn → s.trusts m.report m.certs = true → ∃ t q, exec (.kx1 d m) s = .next t ∧ t.peer d = q ∧ q.kx = .sentKx2 ∧ q.kx1 = m ∧ q.initiator = false ∧
        q.kx2.sig = Config.ecdsaSign s.plat.akeyPriv (kx2Digest m q.kx2) ∧ q.kx2.pub = Config.p384Public q.priv ∧ q.epoch = p.epoch ∧
        sent t (body q.kx2 ++ bytesOf q.kx2.sig.toNat 96 ++ q.kx2.certs) ∧ ∀ k, k ≠ d → t.peer k = s.peer k) ∧
      (bs ∈ p.kxIn → s.trusts m.report m.certs = false → fails (.kx1 d m) (without bs))) ∧
    (∀ m : KxMessage, s.canShake d = true → p.kx = .sentKx1 → m.report.length = 436 →
      let bs := body m ++ bytesOf m.sig.toNat 96 ++ m.certs
      let good := s.trusts m.report m.certs && Config.ecdsaVerify (reportKey m.report) (kx2Digest p.kx1 m) m.sig
      bs ∈ p.kxIn → (good = true → ∃ t, keyed (.kx2 d m) t p.priv m.pub p.kx1.nonce m.nonce ∧
          sent t (bytesOf (Config.ecdsaSign s.plat.akeyPriv (kx3Digest p.kx1 m)).toNat 96)) ∧
        (good = false → fails (.kx2 d m) (without bs))) ∧
    (∀ m : KxMessage, s.canShake d = true → p.kx = .sentKx2 →
      let bs := bytesOf m.sig.toNat 96
      bs ∈ p.kxIn → (Config.ecdsaVerify (reportKey p.kx1.report) (kx3Digest p.kx1 p.kx2) m.sig = true →
          ∃ t, keyed (.kx3 d m) t p.priv p.kx1.pub p.kx1.nonce p.kx2.nonce ∧ t.iod.out = s.iod.out) ∧
        (Config.ecdsaVerify (reportKey p.kx1.report) (kx3Digest p.kx1 p.kx2) m.sig = false → fails (.kx3 d m) (without bs))) ∧
    (p.kx = .sentKx1 ∨ p.kx = .sentKx2 → fails (.keyHandshakeTimeout d) p) ∧
    (p.kx = .failed → p.initiator = true → s.canShake d = true → s.plat.device < d → ∃ t, exec (.handshakeRetry d) s = .next t ∧
      (t.peer d).kx = .sentKx1 ∧ (t.peer d).epoch = p.epoch ∧ (t.peer d).kx1.pub = Config.p384Public (t.peer d).priv ∧
      sent t (body (t.peer d).kx1 ++ (t.peer d).kx1.certs) ∧ ∀ k, k ≠ d → t.peer k = s.peer k) ∧
    (∃ t, exec (.previousEpochExpiry d) s = .next t ∧ t.peer d = { p with prevValid := false } ∧ (∀ k, k ≠ d → t.peer k = s.peer k) ∧
      t = { s with iod := { s.iod with peers := t.iod.peers } }) ∧
    (s.lossDue d = true → ∃ t, exec (.peerLossTimeout d) s = .next t ∧ (t.peer d).lost = true ∧ (t.peer d).epoch = 0 ∧
      (∀ o ∈ t.iod.out, o.dest ≠ d) ∧ (∀ f ∈ t.flights, f.toDev d = true → f.performed = true) ∧ t.mem = s.mem) ∧
    (s.keyed d = true → p.lost = false → (∀ o ∈ s.iod.out, o.dest = d → o.sent = true) → exec (.livenessFrame d) s =
      .next { s with iod := { s.iod with out := s.iod.out ++ [{ dest := d, vc := 33, packet := { kind := 6 } }] } })
end

