-- ==== Sys2Proof/Laws/Sparse.lean ====
section
/-! SUPPORT. Laws/Sparse.lean: the laws of sparse maps: reading after writing, and that writing keeps the canonical form. -/

namespace Sys2Proof

variable {V : Type}

theorem sget_sins (d : V) (m : List (Nat × V)) (i j : Nat) (v : V) : sget d (sins m i v) j = if j = i then v else sget d m j := by
  induction m with
  | nil => simp [sins, sget]
  | cons e m ih =>
    obtain ⟨k, w⟩ := e
    simp only [sins]
    split
    · simp [sget]
    · split
      · subst_vars; simp only [sget]; split <;> simp_all
      · simp only [sget, ih]; split <;> split <;> simp_all

theorem sget_filter_of_not_mem (d : V) (m : List (Nat × V)) (p : Nat × V → Bool) (i : Nat) (h : ∀ e ∈ m, e.1 = i → p e = true) :
    sget d (m.filter p) i = sget d m i := by
  induction m with
  | nil => rfl
  | cons e m ih =>
    obtain ⟨k, w⟩ := e
    have ih' := ih fun e he => h e (List.mem_cons_of_mem _ he)
    by_cases hp : p (k, w) = true
    · simp [List.filter, hp, sget, ih']
    · have hk : i ≠ k := fun he => hp (h (k, w) List.mem_cons_self he.symm)
      simp [List.filter, hp, sget, ih', hk]

theorem sget_filter_of_none (d : V) (m : List (Nat × V)) (p : Nat × V → Bool) (i : Nat) (h : ∀ e ∈ m, e.1 = i → p e = false) :
    sget d (m.filter p) i = d := by
  induction m with
  | nil => rfl
  | cons e m ih =>
    obtain ⟨k, w⟩ := e
    have ih' := ih fun e he => h e (List.mem_cons_of_mem _ he)
    by_cases hk : i = k
    · simp [List.filter, h (k, w) List.mem_cons_self hk.symm, ih']
    · by_cases hp : p (k, w) = true <;> simp [List.filter, hp, sget, ih', hk]

theorem sget_serase (d : V) (m : List (Nat × V)) (i j : Nat) : sget d (serase m i) j = if j = i then d else sget d m j := by
  unfold serase
  split
  · subst_vars; exact sget_filter_of_none d m _ _ fun e _ he => by simp [he]
  · exact sget_filter_of_not_mem d m _ _ fun e _ he => by simp_all

variable [DecidableEq V]

/-- Reading after writing. -/
theorem sget_sset (d : V) (m : List (Nat × V)) (i j : Nat) (v : V) : sget d (sset d m i v) j = if j = i then v else sget d m j := by
  unfold sset
  split
  · subst_vars; exact sget_serase v m i j
  · exact sget_sins d m i j v

@[simp] theorem sget_sset_self (d : V) (m : List (Nat × V)) (i : Nat) (v : V) : sget d (sset d m i v) i = v := by simp [sget_sset]

theorem sget_sset_of_ne (d : V) (m : List (Nat × V)) {i j : Nat} (v : V) (h : j ≠ i) : sget d (sset d m i v) j = sget d m j := by
  simp [sget_sset, h]

omit [DecidableEq V] in
theorem risingFrom_mono {lo hi : Nat} (h : lo ≤ hi) {m : List (Nat × V)} (hm : risingFrom hi m = true) : risingFrom lo m = true := by
  cases m with
  | nil => rfl
  | cons e m => obtain ⟨k, v⟩ := e; simp [risingFrom] at hm ⊢; exact ⟨by omega, hm.2⟩

omit [DecidableEq V] in
theorem risingFrom_filter (p : Nat × V → Bool) : ∀ (m : List (Nat × V)) (lo : Nat), risingFrom lo m = true → risingFrom lo (m.filter p) = true
  | [], _, _ => rfl
  | (k, v) :: m, lo, h => by
    simp [risingFrom] at h
    by_cases hp : p (k, v) = true
    · simp [List.filter, hp, risingFrom, h.1, risingFrom_filter p m (k + 1) h.2]
    · simp [List.filter, hp]
      exact risingFrom_mono (by omega) (risingFrom_filter p m (k + 1) h.2)

omit [DecidableEq V] in
theorem risingFrom_sins : ∀ (m : List (Nat × V)) (lo i : Nat) (v : V), lo ≤ i → risingFrom lo m = true → risingFrom lo (sins m i v) = true
  | [], lo, i, v, hi, _ => by simp [sins, risingFrom, hi]
  | (k, w) :: m, lo, i, v, hi, h => by
    simp [risingFrom] at h
    simp only [sins]
    split
    · simp [risingFrom, hi]; exact ⟨by omega, h.2⟩
    · split
      · subst_vars; simp [risingFrom, h]
      · simp [risingFrom, h.1]; exact risingFrom_sins m (k + 1) i v (by omega) h.2

omit [DecidableEq V] in
theorem mem_sins {m : List (Nat × V)} {i : Nat} {v : V} {e : Nat × V} (h : e ∈ sins m i v) : e = (i, v) ∨ e ∈ m := by
  induction m with
  | nil => simpa [sins] using h
  | cons f m ih =>
    obtain ⟨k, w⟩ := f
    simp only [sins] at h
    split at h
    · simpa using h
    · split at h
      · rcases List.mem_cons.1 h with h | h
        · exact .inl h
        · exact .inr (List.mem_cons_of_mem _ h)
      · rcases List.mem_cons.1 h with h | h
        · exact .inr (h ▸ List.mem_cons_self)
        · rcases ih h with h | h
          · exact .inl h
          · exact .inr (List.mem_cons_of_mem _ h)

/-- Any part of a canonical map is canonical. -/
theorem scanon_filter {d : V} {m : List (Nat × V)} (p : Nat × V → Bool) (h : scanon d m = true) : scanon d (m.filter p) = true := by
  simp only [scanon, Bool.and_eq_true, List.all_eq_true] at h ⊢
  exact ⟨risingFrom_filter p m 0 h.1, fun e he => h.2 e (List.mem_filter.1 he).1⟩

/-- A write keeps the canonical form. -/
theorem scanon_sset {d : V} {m : List (Nat × V)} (i : Nat) (v : V) (h : scanon d m = true) : scanon d (sset d m i v) = true := by
  unfold sset
  split
  · exact scanon_filter _ h
  · rename_i hv
    simp only [scanon, Bool.and_eq_true, List.all_eq_true] at h ⊢
    refine ⟨risingFrom_sins m 0 i v (Nat.zero_le _) h.1, fun e he => ?_⟩
    rcases mem_sins he with rfl | he
    · simpa using hv
    · exact h.2 e he

@[simp] theorem scanon_nil (d : V) : scanon d ([] : List (Nat × V)) = true := rfl

/-- Writes one after another keep the canonical form. -/
theorem scanon_foldl {d : V} {α : Type} (xs : List α) (f : List (Nat × V) → α → List (Nat × V))
    (hf : ∀ m a, scanon d m = true → scanon d (f m a) = true) {m : List (Nat × V)} (h : scanon d m = true) :
    scanon d (xs.foldl f m) = true := by
  induction xs generalizing m with
  | nil => exact h
  | cons a xs ih => exact ih (hf m a h)

end Sys2Proof
end

