-- ==== Sys2Proof/Laws/State.lean ====
section
/-! SUPPORT. Laws/State.lean: what every update of the state leaves in every field, by rfl, so that no proof unfolds a record update. -/

namespace Sys2Proof.Machine

variable (s : State)

@[simp] theorem State.setCore_grp (c : Nat) (k : Core) : (s.setCore c k).grp = s.grp := rfl
@[simp] theorem State.setCore_team (c : Nat) (k : Core) : (s.setCore c k).team = s.team := rfl
@[simp] theorem State.setCore_cur (c : Nat) (k : Core) : (s.setCore c k).cur = s.cur := rfl
@[simp] theorem State.setCore_groups (c : Nat) (k : Core) : (s.setCore c k).groups = s.groups := rfl
@[simp] theorem State.setCore_teams (c : Nat) (k : Core) : (s.setCore c k).teams = s.teams := rfl
@[simp] theorem State.setCore_cores (c : Nat) (k : Core) : (s.setCore c k).cores = sset {} s.cores c k := rfl
@[simp] theorem State.setCore_mem (c : Nat) (k : Core) : (s.setCore c k).mem = s.mem := rfl
@[simp] theorem State.setCore_alloc (c : Nat) (k : Core) : (s.setCore c k).alloc = s.alloc := rfl
@[simp] theorem State.setCore_flights (c : Nat) (k : Core) : (s.setCore c k).flights = s.flights := rfl
@[simp] theorem State.setCore_parts (c : Nat) (k : Core) : (s.setCore c k).parts = s.parts := rfl
@[simp] theorem State.setCore_iod (c : Nat) (k : Core) : (s.setCore c k).iod = s.iod := rfl
@[simp] theorem State.setCore_port (c : Nat) (k : Core) : (s.setCore c k).port = s.port := rfl
@[simp] theorem State.setCore_plat (c : Nat) (k : Core) : (s.setCore c k).plat = s.plat := rfl
@[simp] theorem State.setCore_health (c : Nat) (k : Core) : (s.setCore c k).health = s.health := rfl
@[simp] theorem State.setCore_cycle (c : Nat) (k : Core) : (s.setCore c k).cycle = s.cycle := rfl
@[simp] theorem State.setCore_serial (c : Nat) (k : Core) : (s.setCore c k).serial = s.serial := rfl
@[simp] theorem State.setCore_free (c : Nat) (k : Core) : (s.setCore c k).free = s.free := rfl
@[simp] theorem State.setCore_agenda (c : Nat) (k : Core) : (s.setCore c k).agenda = s.agenda := rfl

@[simp] theorem State.modCore_grp (c : Nat) (f : Core → Core) : (s.modCore c f).grp = s.grp := rfl
@[simp] theorem State.modCore_team (c : Nat) (f : Core → Core) : (s.modCore c f).team = s.team := rfl
@[simp] theorem State.modCore_cur (c : Nat) (f : Core → Core) : (s.modCore c f).cur = s.cur := rfl
@[simp] theorem State.modCore_groups (c : Nat) (f : Core → Core) : (s.modCore c f).groups = s.groups := rfl
@[simp] theorem State.modCore_teams (c : Nat) (f : Core → Core) : (s.modCore c f).teams = s.teams := rfl
@[simp] theorem State.modCore_cores (c : Nat) (f : Core → Core) : (s.modCore c f).cores = sset {} s.cores c (f (s.core c)) := rfl
@[simp] theorem State.modCore_mem (c : Nat) (f : Core → Core) : (s.modCore c f).mem = s.mem := rfl
@[simp] theorem State.modCore_alloc (c : Nat) (f : Core → Core) : (s.modCore c f).alloc = s.alloc := rfl
@[simp] theorem State.modCore_flights (c : Nat) (f : Core → Core) : (s.modCore c f).flights = s.flights := rfl
@[simp] theorem State.modCore_parts (c : Nat) (f : Core → Core) : (s.modCore c f).parts = s.parts := rfl
@[simp] theorem State.modCore_iod (c : Nat) (f : Core → Core) : (s.modCore c f).iod = s.iod := rfl
@[simp] theorem State.modCore_port (c : Nat) (f : Core → Core) : (s.modCore c f).port = s.port := rfl
@[simp] theorem State.modCore_plat (c : Nat) (f : Core → Core) : (s.modCore c f).plat = s.plat := rfl
@[simp] theorem State.modCore_health (c : Nat) (f : Core → Core) : (s.modCore c f).health = s.health := rfl
@[simp] theorem State.modCore_cycle (c : Nat) (f : Core → Core) : (s.modCore c f).cycle = s.cycle := rfl
@[simp] theorem State.modCore_serial (c : Nat) (f : Core → Core) : (s.modCore c f).serial = s.serial := rfl
@[simp] theorem State.modCore_free (c : Nat) (f : Core → Core) : (s.modCore c f).free = s.free := rfl
@[simp] theorem State.modCore_agenda (c : Nat) (f : Core → Core) : (s.modCore c f).agenda = s.agenda := rfl

@[simp] theorem State.setPart_grp (p : Nat) (k : Partition) : (s.setPart p k).grp = s.grp := rfl
@[simp] theorem State.setPart_team (p : Nat) (k : Partition) : (s.setPart p k).team = s.team := rfl
@[simp] theorem State.setPart_cur (p : Nat) (k : Partition) : (s.setPart p k).cur = s.cur := rfl
@[simp] theorem State.setPart_groups (p : Nat) (k : Partition) : (s.setPart p k).groups = s.groups := rfl
@[simp] theorem State.setPart_teams (p : Nat) (k : Partition) : (s.setPart p k).teams = s.teams := rfl
@[simp] theorem State.setPart_cores (p : Nat) (k : Partition) : (s.setPart p k).cores = s.cores := rfl
@[simp] theorem State.setPart_mem (p : Nat) (k : Partition) : (s.setPart p k).mem = s.mem := rfl
@[simp] theorem State.setPart_alloc (p : Nat) (k : Partition) : (s.setPart p k).alloc = s.alloc := rfl
@[simp] theorem State.setPart_flights (p : Nat) (k : Partition) : (s.setPart p k).flights = s.flights := rfl
@[simp] theorem State.setPart_parts (p : Nat) (k : Partition) : (s.setPart p k).parts = sset {} s.parts p k := rfl
@[simp] theorem State.setPart_iod (p : Nat) (k : Partition) : (s.setPart p k).iod = s.iod := rfl
@[simp] theorem State.setPart_port (p : Nat) (k : Partition) : (s.setPart p k).port = s.port := rfl
@[simp] theorem State.setPart_plat (p : Nat) (k : Partition) : (s.setPart p k).plat = s.plat := rfl
@[simp] theorem State.setPart_health (p : Nat) (k : Partition) : (s.setPart p k).health = s.health := rfl
@[simp] theorem State.setPart_cycle (p : Nat) (k : Partition) : (s.setPart p k).cycle = s.cycle := rfl
@[simp] theorem State.setPart_serial (p : Nat) (k : Partition) : (s.setPart p k).serial = s.serial := rfl
@[simp] theorem State.setPart_free (p : Nat) (k : Partition) : (s.setPart p k).free = s.free := rfl
@[simp] theorem State.setPart_agenda (p : Nat) (k : Partition) : (s.setPart p k).agenda = s.agenda := rfl

@[simp] theorem State.modPart_grp (p : Nat) (f : Partition → Partition) : (s.modPart p f).grp = s.grp := rfl
@[simp] theorem State.modPart_team (p : Nat) (f : Partition → Partition) : (s.modPart p f).team = s.team := rfl
@[simp] theorem State.modPart_cur (p : Nat) (f : Partition → Partition) : (s.modPart p f).cur = s.cur := rfl
@[simp] theorem State.modPart_groups (p : Nat) (f : Partition → Partition) : (s.modPart p f).groups = s.groups := rfl
@[simp] theorem State.modPart_teams (p : Nat) (f : Partition → Partition) : (s.modPart p f).teams = s.teams := rfl
@[simp] theorem State.modPart_cores (p : Nat) (f : Partition → Partition) : (s.modPart p f).cores = s.cores := rfl
@[simp] theorem State.modPart_mem (p : Nat) (f : Partition → Partition) : (s.modPart p f).mem = s.mem := rfl
@[simp] theorem State.modPart_alloc (p : Nat) (f : Partition → Partition) : (s.modPart p f).alloc = s.alloc := rfl
@[simp] theorem State.modPart_flights (p : Nat) (f : Partition → Partition) : (s.modPart p f).flights = s.flights := rfl
@[simp] theorem State.modPart_parts (p : Nat) (f : Partition → Partition) : (s.modPart p f).parts = sset {} s.parts p (f (s.part p)) := rfl
@[simp] theorem State.modPart_iod (p : Nat) (f : Partition → Partition) : (s.modPart p f).iod = s.iod := rfl
@[simp] theorem State.modPart_port (p : Nat) (f : Partition → Partition) : (s.modPart p f).port = s.port := rfl
@[simp] theorem State.modPart_plat (p : Nat) (f : Partition → Partition) : (s.modPart p f).plat = s.plat := rfl
@[simp] theorem State.modPart_health (p : Nat) (f : Partition → Partition) : (s.modPart p f).health = s.health := rfl
@[simp] theorem State.modPart_cycle (p : Nat) (f : Partition → Partition) : (s.modPart p f).cycle = s.cycle := rfl
@[simp] theorem State.modPart_serial (p : Nat) (f : Partition → Partition) : (s.modPart p f).serial = s.serial := rfl
@[simp] theorem State.modPart_free (p : Nat) (f : Partition → Partition) : (s.modPart p f).free = s.free := rfl
@[simp] theorem State.modPart_agenda (p : Nat) (f : Partition → Partition) : (s.modPart p f).agenda = s.agenda := rfl

@[simp] theorem State.modRegs_grp (f : Regs → Regs) : (s.modRegs f).grp = { s.grp with r := f s.grp.r } := rfl
@[simp] theorem State.modRegs_team (f : Regs → Regs) : (s.modRegs f).team = s.team := rfl
@[simp] theorem State.modRegs_cur (f : Regs → Regs) : (s.modRegs f).cur = s.cur := rfl
@[simp] theorem State.modRegs_groups (f : Regs → Regs) : (s.modRegs f).groups = s.groups := rfl
@[simp] theorem State.modRegs_teams (f : Regs → Regs) : (s.modRegs f).teams = s.teams := rfl
@[simp] theorem State.modRegs_cores (f : Regs → Regs) : (s.modRegs f).cores = s.cores := rfl
@[simp] theorem State.modRegs_mem (f : Regs → Regs) : (s.modRegs f).mem = s.mem := rfl
@[simp] theorem State.modRegs_alloc (f : Regs → Regs) : (s.modRegs f).alloc = s.alloc := rfl
@[simp] theorem State.modRegs_flights (f : Regs → Regs) : (s.modRegs f).flights = s.flights := rfl
@[simp] theorem State.modRegs_parts (f : Regs → Regs) : (s.modRegs f).parts = s.parts := rfl
@[simp] theorem State.modRegs_iod (f : Regs → Regs) : (s.modRegs f).iod = s.iod := rfl
@[simp] theorem State.modRegs_port (f : Regs → Regs) : (s.modRegs f).port = s.port := rfl
@[simp] theorem State.modRegs_plat (f : Regs → Regs) : (s.modRegs f).plat = s.plat := rfl
@[simp] theorem State.modRegs_health (f : Regs → Regs) : (s.modRegs f).health = s.health := rfl
@[simp] theorem State.modRegs_cycle (f : Regs → Regs) : (s.modRegs f).cycle = s.cycle := rfl
@[simp] theorem State.modRegs_serial (f : Regs → Regs) : (s.modRegs f).serial = s.serial := rfl
@[simp] theorem State.modRegs_free (f : Regs → Regs) : (s.modRegs f).free = s.free := rfl
@[simp] theorem State.modRegs_agenda (f : Regs → Regs) : (s.modRegs f).agenda = s.agenda := rfl

@[simp] theorem State.setS_grp (n : Nat) (x : PWord) : (s.setS n x).grp = { s.grp with r := { s.grp.r with s := sset {} s.grp.r.s n x } } := rfl
@[simp] theorem State.setS_team (n : Nat) (x : PWord) : (s.setS n x).team = s.team := rfl
@[simp] theorem State.setS_cur (n : Nat) (x : PWord) : (s.setS n x).cur = s.cur := rfl
@[simp] theorem State.setS_groups (n : Nat) (x : PWord) : (s.setS n x).groups = s.groups := rfl
@[simp] theorem State.setS_teams (n : Nat) (x : PWord) : (s.setS n x).teams = s.teams := rfl
@[simp] theorem State.setS_cores (n : Nat) (x : PWord) : (s.setS n x).cores = s.cores := rfl
@[simp] theorem State.setS_mem (n : Nat) (x : PWord) : (s.setS n x).mem = s.mem := rfl
@[simp] theorem State.setS_alloc (n : Nat) (x : PWord) : (s.setS n x).alloc = s.alloc := rfl
@[simp] theorem State.setS_flights (n : Nat) (x : PWord) : (s.setS n x).flights = s.flights := rfl
@[simp] theorem State.setS_parts (n : Nat) (x : PWord) : (s.setS n x).parts = s.parts := rfl
@[simp] theorem State.setS_iod (n : Nat) (x : PWord) : (s.setS n x).iod = s.iod := rfl
@[simp] theorem State.setS_port (n : Nat) (x : PWord) : (s.setS n x).port = s.port := rfl
@[simp] theorem State.setS_plat (n : Nat) (x : PWord) : (s.setS n x).plat = s.plat := rfl
@[simp] theorem State.setS_health (n : Nat) (x : PWord) : (s.setS n x).health = s.health := rfl
@[simp] theorem State.setS_cycle (n : Nat) (x : PWord) : (s.setS n x).cycle = s.cycle := rfl
@[simp] theorem State.setS_serial (n : Nat) (x : PWord) : (s.setS n x).serial = s.serial := rfl
@[simp] theorem State.setS_free (n : Nat) (x : PWord) : (s.setS n x).free = s.free := rfl
@[simp] theorem State.setS_agenda (n : Nat) (x : PWord) : (s.setS n x).agenda = s.agenda := rfl

@[simp] theorem State.setSw_grp (n x : Nat) : (s.setSw n x).grp = { s.grp with r := { s.grp.r with s := sset {} s.grp.r.s n ⟨BitVec.ofNat 32 x, false⟩ } } := rfl
@[simp] theorem State.setSw_team (n x : Nat) : (s.setSw n x).team = s.team := rfl
@[simp] theorem State.setSw_cur (n x : Nat) : (s.setSw n x).cur = s.cur := rfl
@[simp] theorem State.setSw_groups (n x : Nat) : (s.setSw n x).groups = s.groups := rfl
@[simp] theorem State.setSw_teams (n x : Nat) : (s.setSw n x).teams = s.teams := rfl
@[simp] theorem State.setSw_cores (n x : Nat) : (s.setSw n x).cores = s.cores := rfl
@[simp] theorem State.setSw_mem (n x : Nat) : (s.setSw n x).mem = s.mem := rfl
@[simp] theorem State.setSw_alloc (n x : Nat) : (s.setSw n x).alloc = s.alloc := rfl
@[simp] theorem State.setSw_flights (n x : Nat) : (s.setSw n x).flights = s.flights := rfl
@[simp] theorem State.setSw_parts (n x : Nat) : (s.setSw n x).parts = s.parts := rfl
@[simp] theorem State.setSw_iod (n x : Nat) : (s.setSw n x).iod = s.iod := rfl
@[simp] theorem State.setSw_port (n x : Nat) : (s.setSw n x).port = s.port := rfl
@[simp] theorem State.setSw_plat (n x : Nat) : (s.setSw n x).plat = s.plat := rfl
@[simp] theorem State.setSw_health (n x : Nat) : (s.setSw n x).health = s.health := rfl
@[simp] theorem State.setSw_cycle (n x : Nat) : (s.setSw n x).cycle = s.cycle := rfl
@[simp] theorem State.setSw_serial (n x : Nat) : (s.setSw n x).serial = s.serial := rfl
@[simp] theorem State.setSw_free (n x : Nat) : (s.setSw n x).free = s.free := rfl
@[simp] theorem State.setSw_agenda (n x : Nat) : (s.setSw n x).agenda = s.agenda := rfl

@[simp] theorem State.setSpair_grp (n x : Nat) : (s.setSpair n x).grp = ((s.setSw n (x % 2 ^ 32)).setSw (n + 1) (x / 2 ^ 32)).grp := rfl
@[simp] theorem State.setSpair_team (n x : Nat) : (s.setSpair n x).team = s.team := rfl
@[simp] theorem State.setSpair_cur (n x : Nat) : (s.setSpair n x).cur = s.cur := rfl
@[simp] theorem State.setSpair_groups (n x : Nat) : (s.setSpair n x).groups = s.groups := rfl
@[simp] theorem State.setSpair_teams (n x : Nat) : (s.setSpair n x).teams = s.teams := rfl
@[simp] theorem State.setSpair_cores (n x : Nat) : (s.setSpair n x).cores = s.cores := rfl
@[simp] theorem State.setSpair_mem (n x : Nat) : (s.setSpair n x).mem = s.mem := rfl
@[simp] theorem State.setSpair_alloc (n x : Nat) : (s.setSpair n x).alloc = s.alloc := rfl
@[simp] theorem State.setSpair_flights (n x : Nat) : (s.setSpair n x).flights = s.flights := rfl
@[simp] theorem State.setSpair_parts (n x : Nat) : (s.setSpair n x).parts = s.parts := rfl
@[simp] theorem State.setSpair_iod (n x : Nat) : (s.setSpair n x).iod = s.iod := rfl
@[simp] theorem State.setSpair_port (n x : Nat) : (s.setSpair n x).port = s.port := rfl
@[simp] theorem State.setSpair_plat (n x : Nat) : (s.setSpair n x).plat = s.plat := rfl
@[simp] theorem State.setSpair_health (n x : Nat) : (s.setSpair n x).health = s.health := rfl
@[simp] theorem State.setSpair_cycle (n x : Nat) : (s.setSpair n x).cycle = s.cycle := rfl
@[simp] theorem State.setSpair_serial (n x : Nat) : (s.setSpair n x).serial = s.serial := rfl
@[simp] theorem State.setSpair_free (n x : Nat) : (s.setSpair n x).free = s.free := rfl
@[simp] theorem State.setSpair_agenda (n x : Nat) : (s.setSpair n x).agenda = s.agenda := rfl

@[simp] theorem State.setQ_grp (n : Nat) (b : Bool) : (s.setQ n b).grp = { s.grp with r := { s.grp.r with q := setBit s.grp.r.q n b } } := rfl
@[simp] theorem State.setQ_team (n : Nat) (b : Bool) : (s.setQ n b).team = s.team := rfl
@[simp] theorem State.setQ_cur (n : Nat) (b : Bool) : (s.setQ n b).cur = s.cur := rfl
@[simp] theorem State.setQ_groups (n : Nat) (b : Bool) : (s.setQ n b).groups = s.groups := rfl
@[simp] theorem State.setQ_teams (n : Nat) (b : Bool) : (s.setQ n b).teams = s.teams := rfl
@[simp] theorem State.setQ_cores (n : Nat) (b : Bool) : (s.setQ n b).cores = s.cores := rfl
@[simp] theorem State.setQ_mem (n : Nat) (b : Bool) : (s.setQ n b).mem = s.mem := rfl
@[simp] theorem State.setQ_alloc (n : Nat) (b : Bool) : (s.setQ n b).alloc = s.alloc := rfl
@[simp] theorem State.setQ_flights (n : Nat) (b : Bool) : (s.setQ n b).flights = s.flights := rfl
@[simp] theorem State.setQ_parts (n : Nat) (b : Bool) : (s.setQ n b).parts = s.parts := rfl
@[simp] theorem State.setQ_iod (n : Nat) (b : Bool) : (s.setQ n b).iod = s.iod := rfl
@[simp] theorem State.setQ_port (n : Nat) (b : Bool) : (s.setQ n b).port = s.port := rfl
@[simp] theorem State.setQ_plat (n : Nat) (b : Bool) : (s.setQ n b).plat = s.plat := rfl
@[simp] theorem State.setQ_health (n : Nat) (b : Bool) : (s.setQ n b).health = s.health := rfl
@[simp] theorem State.setQ_cycle (n : Nat) (b : Bool) : (s.setQ n b).cycle = s.cycle := rfl
@[simp] theorem State.setQ_serial (n : Nat) (b : Bool) : (s.setQ n b).serial = s.serial := rfl
@[simp] theorem State.setQ_free (n : Nat) (b : Bool) : (s.setQ n b).free = s.free := rfl
@[simp] theorem State.setQ_agenda (n : Nat) (b : Bool) : (s.setQ n b).agenda = s.agenda := rfl

@[simp] theorem State.setP_grp (l n : Nat) (b : Bool) : (s.setP l n b).grp = { s.grp with r := { s.grp.r with p := sset 0 s.grp.r.p l (setBit (sget 0 s.grp.r.p l) n b) } } := rfl
@[simp] theorem State.setP_team (l n : Nat) (b : Bool) : (s.setP l n b).team = s.team := rfl
@[simp] theorem State.setP_cur (l n : Nat) (b : Bool) : (s.setP l n b).cur = s.cur := rfl
@[simp] theorem State.setP_groups (l n : Nat) (b : Bool) : (s.setP l n b).groups = s.groups := rfl
@[simp] theorem State.setP_teams (l n : Nat) (b : Bool) : (s.setP l n b).teams = s.teams := rfl
@[simp] theorem State.setP_cores (l n : Nat) (b : Bool) : (s.setP l n b).cores = s.cores := rfl
@[simp] theorem State.setP_mem (l n : Nat) (b : Bool) : (s.setP l n b).mem = s.mem := rfl
@[simp] theorem State.setP_alloc (l n : Nat) (b : Bool) : (s.setP l n b).alloc = s.alloc := rfl
@[simp] theorem State.setP_flights (l n : Nat) (b : Bool) : (s.setP l n b).flights = s.flights := rfl
@[simp] theorem State.setP_parts (l n : Nat) (b : Bool) : (s.setP l n b).parts = s.parts := rfl
@[simp] theorem State.setP_iod (l n : Nat) (b : Bool) : (s.setP l n b).iod = s.iod := rfl
@[simp] theorem State.setP_port (l n : Nat) (b : Bool) : (s.setP l n b).port = s.port := rfl
@[simp] theorem State.setP_plat (l n : Nat) (b : Bool) : (s.setP l n b).plat = s.plat := rfl
@[simp] theorem State.setP_health (l n : Nat) (b : Bool) : (s.setP l n b).health = s.health := rfl
@[simp] theorem State.setP_cycle (l n : Nat) (b : Bool) : (s.setP l n b).cycle = s.cycle := rfl
@[simp] theorem State.setP_serial (l n : Nat) (b : Bool) : (s.setP l n b).serial = s.serial := rfl
@[simp] theorem State.setP_free (l n : Nat) (b : Bool) : (s.setP l n b).free = s.free := rfl
@[simp] theorem State.setP_agenda (l n : Nat) (b : Bool) : (s.setP l n b).agenda = s.agenda := rfl

@[simp] theorem State.setX_grp (n : Nat) (x : Word) : (s.setX n x).grp = { s.grp with r := { s.grp.r with x := sset 0 s.grp.r.x n x } } := rfl
@[simp] theorem State.setX_team (n : Nat) (x : Word) : (s.setX n x).team = s.team := rfl
@[simp] theorem State.setX_cur (n : Nat) (x : Word) : (s.setX n x).cur = s.cur := rfl
@[simp] theorem State.setX_groups (n : Nat) (x : Word) : (s.setX n x).groups = s.groups := rfl
@[simp] theorem State.setX_teams (n : Nat) (x : Word) : (s.setX n x).teams = s.teams := rfl
@[simp] theorem State.setX_cores (n : Nat) (x : Word) : (s.setX n x).cores = s.cores := rfl
@[simp] theorem State.setX_mem (n : Nat) (x : Word) : (s.setX n x).mem = s.mem := rfl
@[simp] theorem State.setX_alloc (n : Nat) (x : Word) : (s.setX n x).alloc = s.alloc := rfl
@[simp] theorem State.setX_flights (n : Nat) (x : Word) : (s.setX n x).flights = s.flights := rfl
@[simp] theorem State.setX_parts (n : Nat) (x : Word) : (s.setX n x).parts = s.parts := rfl
@[simp] theorem State.setX_iod (n : Nat) (x : Word) : (s.setX n x).iod = s.iod := rfl
@[simp] theorem State.setX_port (n : Nat) (x : Word) : (s.setX n x).port = s.port := rfl
@[simp] theorem State.setX_plat (n : Nat) (x : Word) : (s.setX n x).plat = s.plat := rfl
@[simp] theorem State.setX_health (n : Nat) (x : Word) : (s.setX n x).health = s.health := rfl
@[simp] theorem State.setX_cycle (n : Nat) (x : Word) : (s.setX n x).cycle = s.cycle := rfl
@[simp] theorem State.setX_serial (n : Nat) (x : Word) : (s.setX n x).serial = s.serial := rfl
@[simp] theorem State.setX_free (n : Nat) (x : Word) : (s.setX n x).free = s.free := rfl
@[simp] theorem State.setX_agenda (n : Nat) (x : Word) : (s.setX n x).agenda = s.agenda := rfl

@[simp] theorem State.setV_grp (l r : Nat) (x : PWord) : (s.setV l r x).grp = { s.grp with r := { s.grp.r with v := sset {} s.grp.r.v (s.vkey l r) x, vw := s.grp.r.vw.note (s.vkey l r) } } := rfl
@[simp] theorem State.setV_team (l r : Nat) (x : PWord) : (s.setV l r x).team = s.team := rfl
@[simp] theorem State.setV_groups (l r : Nat) (x : PWord) : (s.setV l r x).groups = s.groups := rfl
@[simp] theorem State.setV_teams (l r : Nat) (x : PWord) : (s.setV l r x).teams = s.teams := rfl
@[simp] theorem State.setV_cores (l r : Nat) (x : PWord) : (s.setV l r x).cores = s.cores := rfl
@[simp] theorem State.setV_mem (l r : Nat) (x : PWord) : (s.setV l r x).mem = s.mem := rfl
@[simp] theorem State.setV_alloc (l r : Nat) (x : PWord) : (s.setV l r x).alloc = s.alloc := rfl
@[simp] theorem State.setV_flights (l r : Nat) (x : PWord) : (s.setV l r x).flights = s.flights := rfl
@[simp] theorem State.setV_parts (l r : Nat) (x : PWord) : (s.setV l r x).parts = s.parts := rfl
@[simp] theorem State.setV_iod (l r : Nat) (x : PWord) : (s.setV l r x).iod = s.iod := rfl
@[simp] theorem State.setV_port (l r : Nat) (x : PWord) : (s.setV l r x).port = s.port := rfl
@[simp] theorem State.setV_plat (l r : Nat) (x : PWord) : (s.setV l r x).plat = s.plat := rfl
@[simp] theorem State.setV_health (l r : Nat) (x : PWord) : (s.setV l r x).health = s.health := rfl
@[simp] theorem State.setV_cycle (l r : Nat) (x : PWord) : (s.setV l r x).cycle = s.cycle := rfl
@[simp] theorem State.setV_serial (l r : Nat) (x : PWord) : (s.setV l r x).serial = s.serial := rfl
@[simp] theorem State.setV_free (l r : Nat) (x : PWord) : (s.setV l r x).free = s.free := rfl
@[simp] theorem State.setV_agenda (l r : Nat) (x : PWord) : (s.setV l r x).agenda = s.agenda := rfl

@[simp] theorem State.setVw_grp (l r x : Nat) : (s.setVw l r x).grp = { s.grp with r := { s.grp.r with v := sset {} s.grp.r.v (s.vkey l r) ⟨BitVec.ofNat 32 x, false⟩, vw := s.grp.r.vw.note (s.vkey l r) } } := rfl
@[simp] theorem State.setVw_team (l r x : Nat) : (s.setVw l r x).team = s.team := rfl
@[simp] theorem State.setVw_groups (l r x : Nat) : (s.setVw l r x).groups = s.groups := rfl
@[simp] theorem State.setVw_teams (l r x : Nat) : (s.setVw l r x).teams = s.teams := rfl
@[simp] theorem State.setVw_cores (l r x : Nat) : (s.setVw l r x).cores = s.cores := rfl
@[simp] theorem State.setVw_mem (l r x : Nat) : (s.setVw l r x).mem = s.mem := rfl
@[simp] theorem State.setVw_alloc (l r x : Nat) : (s.setVw l r x).alloc = s.alloc := rfl
@[simp] theorem State.setVw_flights (l r x : Nat) : (s.setVw l r x).flights = s.flights := rfl
@[simp] theorem State.setVw_parts (l r x : Nat) : (s.setVw l r x).parts = s.parts := rfl
@[simp] theorem State.setVw_iod (l r x : Nat) : (s.setVw l r x).iod = s.iod := rfl
@[simp] theorem State.setVw_port (l r x : Nat) : (s.setVw l r x).port = s.port := rfl
@[simp] theorem State.setVw_plat (l r x : Nat) : (s.setVw l r x).plat = s.plat := rfl
@[simp] theorem State.setVw_health (l r x : Nat) : (s.setVw l r x).health = s.health := rfl
@[simp] theorem State.setVw_cycle (l r x : Nat) : (s.setVw l r x).cycle = s.cycle := rfl
@[simp] theorem State.setVw_serial (l r x : Nat) : (s.setVw l r x).serial = s.serial := rfl
@[simp] theorem State.setVw_free (l r x : Nat) : (s.setVw l r x).free = s.free := rfl
@[simp] theorem State.setVw_agenda (l r x : Nat) : (s.setVw l r x).agenda = s.agenda := rfl

@[simp] theorem State.setEntry_grp (i : Nat) (e : StackEntry) : (s.setEntry i e).grp = { s.grp with stack := sset {} s.grp.stack i e } := rfl
@[simp] theorem State.setEntry_team (i : Nat) (e : StackEntry) : (s.setEntry i e).team = s.team := rfl
@[simp] theorem State.setEntry_cur (i : Nat) (e : StackEntry) : (s.setEntry i e).cur = s.cur := rfl
@[simp] theorem State.setEntry_groups (i : Nat) (e : StackEntry) : (s.setEntry i e).groups = s.groups := rfl
@[simp] theorem State.setEntry_teams (i : Nat) (e : StackEntry) : (s.setEntry i e).teams = s.teams := rfl
@[simp] theorem State.setEntry_cores (i : Nat) (e : StackEntry) : (s.setEntry i e).cores = s.cores := rfl
@[simp] theorem State.setEntry_mem (i : Nat) (e : StackEntry) : (s.setEntry i e).mem = s.mem := rfl
@[simp] theorem State.setEntry_alloc (i : Nat) (e : StackEntry) : (s.setEntry i e).alloc = s.alloc := rfl
@[simp] theorem State.setEntry_flights (i : Nat) (e : StackEntry) : (s.setEntry i e).flights = s.flights := rfl
@[simp] theorem State.setEntry_parts (i : Nat) (e : StackEntry) : (s.setEntry i e).parts = s.parts := rfl
@[simp] theorem State.setEntry_iod (i : Nat) (e : StackEntry) : (s.setEntry i e).iod = s.iod := rfl
@[simp] theorem State.setEntry_port (i : Nat) (e : StackEntry) : (s.setEntry i e).port = s.port := rfl
@[simp] theorem State.setEntry_plat (i : Nat) (e : StackEntry) : (s.setEntry i e).plat = s.plat := rfl
@[simp] theorem State.setEntry_health (i : Nat) (e : StackEntry) : (s.setEntry i e).health = s.health := rfl
@[simp] theorem State.setEntry_cycle (i : Nat) (e : StackEntry) : (s.setEntry i e).cycle = s.cycle := rfl
@[simp] theorem State.setEntry_serial (i : Nat) (e : StackEntry) : (s.setEntry i e).serial = s.serial := rfl
@[simp] theorem State.setEntry_free (i : Nat) (e : StackEntry) : (s.setEntry i e).free = s.free := rfl
@[simp] theorem State.setEntry_agenda (i : Nat) (e : StackEntry) : (s.setEntry i e).agenda = s.agenda := rfl

@[simp] theorem State.stall_grp : (s.stall).grp = s.grp := rfl
@[simp] theorem State.stall_team : (s.stall).team = s.team := rfl
@[simp] theorem State.stall_cur : (s.stall).cur = s.cur := rfl
@[simp] theorem State.stall_groups : (s.stall).groups = s.groups := rfl
@[simp] theorem State.stall_teams : (s.stall).teams = s.teams := rfl
@[simp] theorem State.stall_cores : (s.stall).cores = s.cores := rfl
@[simp] theorem State.stall_mem : (s.stall).mem = s.mem := rfl
@[simp] theorem State.stall_alloc : (s.stall).alloc = s.alloc := rfl
@[simp] theorem State.stall_flights : (s.stall).flights = s.flights := rfl
@[simp] theorem State.stall_parts : (s.stall).parts = s.parts := rfl
@[simp] theorem State.stall_iod : (s.stall).iod = s.iod := rfl
@[simp] theorem State.stall_port : (s.stall).port = s.port := rfl
@[simp] theorem State.stall_plat : (s.stall).plat = s.plat := rfl
@[simp] theorem State.stall_health : (s.stall).health = s.health := rfl
@[simp] theorem State.stall_cycle : (s.stall).cycle = s.cycle + 1 := rfl
@[simp] theorem State.stall_serial : (s.stall).serial = s.serial := rfl
@[simp] theorem State.stall_free : (s.stall).free = s.free := rfl
@[simp] theorem State.stall_agenda : (s.stall).agenda = s.agenda := rfl

@[simp] theorem State.stamp_grp : (s.stamp).grp = s.grp := rfl
@[simp] theorem State.stamp_team : (s.stamp).team = s.team := rfl
@[simp] theorem State.stamp_cur : (s.stamp).cur = s.cur := rfl
@[simp] theorem State.stamp_groups : (s.stamp).groups = s.groups := rfl
@[simp] theorem State.stamp_teams : (s.stamp).teams = s.teams := rfl
@[simp] theorem State.stamp_cores : (s.stamp).cores = s.cores := rfl
@[simp] theorem State.stamp_mem : (s.stamp).mem = s.mem := rfl
@[simp] theorem State.stamp_alloc : (s.stamp).alloc = s.alloc := rfl
@[simp] theorem State.stamp_flights : (s.stamp).flights = s.flights := rfl
@[simp] theorem State.stamp_parts : (s.stamp).parts = s.parts := rfl
@[simp] theorem State.stamp_iod : (s.stamp).iod = s.iod := rfl
@[simp] theorem State.stamp_port : (s.stamp).port = s.port := rfl
@[simp] theorem State.stamp_plat : (s.stamp).plat = s.plat := rfl
@[simp] theorem State.stamp_health : (s.stamp).health = s.health := rfl
@[simp] theorem State.stamp_cycle : (s.stamp).cycle = s.cycle := rfl
@[simp] theorem State.stamp_serial : (s.stamp).serial = s.serial + 1 := rfl
@[simp] theorem State.stamp_free : (s.stamp).free = s.free := rfl
@[simp] theorem State.stamp_agenda : (s.stamp).agenda = s.agenda := rfl

@[simp] theorem State.advance_grp (n c : Nat) : (s.advance n c).grp = s.grp := rfl
@[simp] theorem State.advance_team (n c : Nat) : (s.advance n c).team = s.team := rfl
@[simp] theorem State.advance_cur (n c : Nat) : (s.advance n c).cur = (s.cur.advance n).settle (s.cycle + c) := rfl
@[simp] theorem State.advance_groups (n c : Nat) : (s.advance n c).groups = s.groups := rfl
@[simp] theorem State.advance_teams (n c : Nat) : (s.advance n c).teams = s.teams := rfl
@[simp] theorem State.advance_cores (n c : Nat) : (s.advance n c).cores = s.cores := rfl
@[simp] theorem State.advance_mem (n c : Nat) : (s.advance n c).mem = s.mem := rfl
@[simp] theorem State.advance_alloc (n c : Nat) : (s.advance n c).alloc = s.alloc := rfl
@[simp] theorem State.advance_flights (n c : Nat) : (s.advance n c).flights = s.flights := rfl
@[simp] theorem State.advance_parts (n c : Nat) : (s.advance n c).parts = s.parts := rfl
@[simp] theorem State.advance_iod (n c : Nat) : (s.advance n c).iod = s.iod := rfl
@[simp] theorem State.advance_port (n c : Nat) : (s.advance n c).port = s.port := rfl
@[simp] theorem State.advance_plat (n c : Nat) : (s.advance n c).plat = s.plat := rfl
@[simp] theorem State.advance_health (n c : Nat) : (s.advance n c).health = s.health := rfl
@[simp] theorem State.advance_cycle (n c : Nat) : (s.advance n c).cycle = s.cycle + c := rfl
@[simp] theorem State.advance_serial (n c : Nat) : (s.advance n c).serial = s.serial := rfl
@[simp] theorem State.advance_free (n c : Nat) : (s.advance n c).free = s.free := rfl
@[simp] theorem State.advance_agenda (n c : Nat) : (s.advance n c).agenda = s.agenda := rfl

@[simp] theorem State.doneU_grp (x : Args) : (s.doneU x).grp = s.grp := rfl
@[simp] theorem State.doneU_team (x : Args) : (s.doneU x).team = s.team := rfl
@[simp] theorem State.doneU_cur (x : Args) : (s.doneU x).cur = (s.cur.advance x.bytes).settle (s.cycle + 1) := rfl
@[simp] theorem State.doneU_groups (x : Args) : (s.doneU x).groups = s.groups := rfl
@[simp] theorem State.doneU_teams (x : Args) : (s.doneU x).teams = s.teams := rfl
@[simp] theorem State.doneU_cores (x : Args) : (s.doneU x).cores = s.cores := rfl
@[simp] theorem State.doneU_mem (x : Args) : (s.doneU x).mem = s.mem := rfl
@[simp] theorem State.doneU_alloc (x : Args) : (s.doneU x).alloc = s.alloc := rfl
@[simp] theorem State.doneU_flights (x : Args) : (s.doneU x).flights = s.flights := rfl
@[simp] theorem State.doneU_parts (x : Args) : (s.doneU x).parts = s.parts := rfl
@[simp] theorem State.doneU_iod (x : Args) : (s.doneU x).iod = s.iod := rfl
@[simp] theorem State.doneU_port (x : Args) : (s.doneU x).port = s.port := rfl
@[simp] theorem State.doneU_plat (x : Args) : (s.doneU x).plat = s.plat := rfl
@[simp] theorem State.doneU_health (x : Args) : (s.doneU x).health = s.health := rfl
@[simp] theorem State.doneU_cycle (x : Args) : (s.doneU x).cycle = s.cycle + 1 := rfl
@[simp] theorem State.doneU_serial (x : Args) : (s.doneU x).serial = s.serial := rfl
@[simp] theorem State.doneU_free (x : Args) : (s.doneU x).free = s.free := rfl
@[simp] theorem State.doneU_agenda (x : Args) : (s.doneU x).agenda = s.agenda := rfl

@[simp] theorem State.doneL_grp (x : Args) (i : Nat) : (s.doneL x i).grp = s.grp := rfl
@[simp] theorem State.doneL_team (x : Args) (i : Nat) : (s.doneL x i).team = s.team := rfl
@[simp] theorem State.doneL_cur (x : Args) (i : Nat) : (s.doneL x i).cur = (s.cur.advance x.bytes).settle (s.cycle + passes s.cur.mask * i) := rfl
@[simp] theorem State.doneL_groups (x : Args) (i : Nat) : (s.doneL x i).groups = s.groups := rfl
@[simp] theorem State.doneL_teams (x : Args) (i : Nat) : (s.doneL x i).teams = s.teams := rfl
@[simp] theorem State.doneL_cores (x : Args) (i : Nat) : (s.doneL x i).cores = s.cores := rfl
@[simp] theorem State.doneL_mem (x : Args) (i : Nat) : (s.doneL x i).mem = s.mem := rfl
@[simp] theorem State.doneL_alloc (x : Args) (i : Nat) : (s.doneL x i).alloc = s.alloc := rfl
@[simp] theorem State.doneL_flights (x : Args) (i : Nat) : (s.doneL x i).flights = s.flights := rfl
@[simp] theorem State.doneL_parts (x : Args) (i : Nat) : (s.doneL x i).parts = s.parts := rfl
@[simp] theorem State.doneL_iod (x : Args) (i : Nat) : (s.doneL x i).iod = s.iod := rfl
@[simp] theorem State.doneL_port (x : Args) (i : Nat) : (s.doneL x i).port = s.port := rfl
@[simp] theorem State.doneL_plat (x : Args) (i : Nat) : (s.doneL x i).plat = s.plat := rfl
@[simp] theorem State.doneL_health (x : Args) (i : Nat) : (s.doneL x i).health = s.health := rfl
@[simp] theorem State.doneL_cycle (x : Args) (i : Nat) : (s.doneL x i).cycle = s.cycle + passes s.cur.mask * i := rfl
@[simp] theorem State.doneL_serial (x : Args) (i : Nat) : (s.doneL x i).serial = s.serial := rfl
@[simp] theorem State.doneL_free (x : Args) (i : Nat) : (s.doneL x i).free = s.free := rfl
@[simp] theorem State.doneL_agenda (x : Args) (i : Nat) : (s.doneL x i).agenda = s.agenda := rfl

@[simp] theorem State.jump_grp (pc : DWord) (c : Nat) : (s.jump pc c).grp = s.grp := rfl
@[simp] theorem State.jump_team (pc : DWord) (c : Nat) : (s.jump pc c).team = s.team := rfl
@[simp] theorem State.jump_cur (pc : DWord) (c : Nat) : (s.jump pc c).cur = (s.cur.goTo pc).settle (s.cycle + c) := rfl
@[simp] theorem State.jump_groups (pc : DWord) (c : Nat) : (s.jump pc c).groups = s.groups := rfl
@[simp] theorem State.jump_teams (pc : DWord) (c : Nat) : (s.jump pc c).teams = s.teams := rfl
@[simp] theorem State.jump_cores (pc : DWord) (c : Nat) : (s.jump pc c).cores = s.cores := rfl
@[simp] theorem State.jump_mem (pc : DWord) (c : Nat) : (s.jump pc c).mem = s.mem := rfl
@[simp] theorem State.jump_alloc (pc : DWord) (c : Nat) : (s.jump pc c).alloc = s.alloc := rfl
@[simp] theorem State.jump_flights (pc : DWord) (c : Nat) : (s.jump pc c).flights = s.flights := rfl
@[simp] theorem State.jump_parts (pc : DWord) (c : Nat) : (s.jump pc c).parts = s.parts := rfl
@[simp] theorem State.jump_iod (pc : DWord) (c : Nat) : (s.jump pc c).iod = s.iod := rfl
@[simp] theorem State.jump_port (pc : DWord) (c : Nat) : (s.jump pc c).port = s.port := rfl
@[simp] theorem State.jump_plat (pc : DWord) (c : Nat) : (s.jump pc c).plat = s.plat := rfl
@[simp] theorem State.jump_health (pc : DWord) (c : Nat) : (s.jump pc c).health = s.health := rfl
@[simp] theorem State.jump_cycle (pc : DWord) (c : Nat) : (s.jump pc c).cycle = s.cycle + c := rfl
@[simp] theorem State.jump_serial (pc : DWord) (c : Nat) : (s.jump pc c).serial = s.serial := rfl
@[simp] theorem State.jump_free (pc : DWord) (c : Nat) : (s.jump pc c).free = s.free := rfl
@[simp] theorem State.jump_agenda (pc : DWord) (c : Nat) : (s.jump pc c).agenda = s.agenda := rfl

@[simp] theorem State.park_grp (w : ParkWhy) (i : Instr) (n : Nat) (ls : Mask) (aux : Nat) (y : BitVec 512) : (s.park w i n ls aux y).grp = s.grp := rfl
@[simp] theorem State.park_team (w : ParkWhy) (i : Instr) (n : Nat) (ls : Mask) (aux : Nat) (y : BitVec 512) : (s.park w i n ls aux y).team = s.team := rfl
@[simp] theorem State.park_cur (w : ParkWhy) (i : Instr) (n : Nat) (ls : Mask) (aux : Nat) (y : BitVec 512) : (s.park w i n ls aux y).cur = { s.cur with st := .parked { why := w, instr := i, serial := n, lanes := ls, since := s.cycle, aux := aux, rec_ := y } } := rfl
@[simp] theorem State.park_groups (w : ParkWhy) (i : Instr) (n : Nat) (ls : Mask) (aux : Nat) (y : BitVec 512) : (s.park w i n ls aux y).groups = s.groups := rfl
@[simp] theorem State.park_teams (w : ParkWhy) (i : Instr) (n : Nat) (ls : Mask) (aux : Nat) (y : BitVec 512) : (s.park w i n ls aux y).teams = s.teams := rfl
@[simp] theorem State.park_cores (w : ParkWhy) (i : Instr) (n : Nat) (ls : Mask) (aux : Nat) (y : BitVec 512) : (s.park w i n ls aux y).cores = s.cores := rfl
@[simp] theorem State.park_mem (w : ParkWhy) (i : Instr) (n : Nat) (ls : Mask) (aux : Nat) (y : BitVec 512) : (s.park w i n ls aux y).mem = s.mem := rfl
@[simp] theorem State.park_alloc (w : ParkWhy) (i : Instr) (n : Nat) (ls : Mask) (aux : Nat) (y : BitVec 512) : (s.park w i n ls aux y).alloc = s.alloc := rfl
@[simp] theorem State.park_flights (w : ParkWhy) (i : Instr) (n : Nat) (ls : Mask) (aux : Nat) (y : BitVec 512) : (s.park w i n ls aux y).flights = s.flights := rfl
@[simp] theorem State.park_parts (w : ParkWhy) (i : Instr) (n : Nat) (ls : Mask) (aux : Nat) (y : BitVec 512) : (s.park w i n ls aux y).parts = s.parts := rfl
@[simp] theorem State.park_iod (w : ParkWhy) (i : Instr) (n : Nat) (ls : Mask) (aux : Nat) (y : BitVec 512) : (s.park w i n ls aux y).iod = s.iod := rfl
@[simp] theorem State.park_port (w : ParkWhy) (i : Instr) (n : Nat) (ls : Mask) (aux : Nat) (y : BitVec 512) : (s.park w i n ls aux y).port = s.port := rfl
@[simp] theorem State.park_plat (w : ParkWhy) (i : Instr) (n : Nat) (ls : Mask) (aux : Nat) (y : BitVec 512) : (s.park w i n ls aux y).plat = s.plat := rfl
@[simp] theorem State.park_health (w : ParkWhy) (i : Instr) (n : Nat) (ls : Mask) (aux : Nat) (y : BitVec 512) : (s.park w i n ls aux y).health = s.health := rfl
@[simp] theorem State.park_cycle (w : ParkWhy) (i : Instr) (n : Nat) (ls : Mask) (aux : Nat) (y : BitVec 512) : (s.park w i n ls aux y).cycle = s.cycle := rfl
@[simp] theorem State.park_serial (w : ParkWhy) (i : Instr) (n : Nat) (ls : Mask) (aux : Nat) (y : BitVec 512) : (s.park w i n ls aux y).serial = s.serial := rfl
@[simp] theorem State.park_free (w : ParkWhy) (i : Instr) (n : Nat) (ls : Mask) (aux : Nat) (y : BitVec 512) : (s.park w i n ls aux y).free = s.free := rfl
@[simp] theorem State.park_agenda (w : ParkWhy) (i : Instr) (n : Nat) (ls : Mask) (aux : Nat) (y : BitVec 512) : (s.park w i n ls aux y).agenda = s.agenda := rfl

@[simp] theorem State.unpark_grp : (s.unpark).grp = s.grp := rfl
@[simp] theorem State.unpark_team : (s.unpark).team = s.team := rfl
@[simp] theorem State.unpark_cur : (s.unpark).cur = { s.cur with st := s.readyState, since := s.cycle } := rfl
@[simp] theorem State.unpark_groups : (s.unpark).groups = s.groups := rfl
@[simp] theorem State.unpark_teams : (s.unpark).teams = s.teams := rfl
@[simp] theorem State.unpark_cores : (s.unpark).cores = s.cores := rfl
@[simp] theorem State.unpark_mem : (s.unpark).mem = s.mem := rfl
@[simp] theorem State.unpark_alloc : (s.unpark).alloc = s.alloc := rfl
@[simp] theorem State.unpark_flights : (s.unpark).flights = s.flights := rfl
@[simp] theorem State.unpark_parts : (s.unpark).parts = s.parts := rfl
@[simp] theorem State.unpark_iod : (s.unpark).iod = s.iod := rfl
@[simp] theorem State.unpark_port : (s.unpark).port = s.port := rfl
@[simp] theorem State.unpark_plat : (s.unpark).plat = s.plat := rfl
@[simp] theorem State.unpark_health : (s.unpark).health = s.health := rfl
@[simp] theorem State.unpark_cycle : (s.unpark).cycle = s.cycle := rfl
@[simp] theorem State.unpark_serial : (s.unpark).serial = s.serial := rfl
@[simp] theorem State.unpark_free : (s.unpark).free = s.free := rfl
@[simp] theorem State.unpark_agenda : (s.unpark).agenda = s.agenda := rfl

@[simp] theorem State.wake_grp (n : Nat) : (s.wake n).grp = s.grp := rfl
@[simp] theorem State.wake_team (n : Nat) : (s.wake n).team = s.team := rfl
@[simp] theorem State.wake_cur (n : Nat) : (s.wake n).cur = ({ s.cur with st := s.readyState, since := s.cycle } : MUnit).advance n := rfl
@[simp] theorem State.wake_groups (n : Nat) : (s.wake n).groups = s.groups := rfl
@[simp] theorem State.wake_teams (n : Nat) : (s.wake n).teams = s.teams := rfl
@[simp] theorem State.wake_cores (n : Nat) : (s.wake n).cores = s.cores := rfl
@[simp] theorem State.wake_mem (n : Nat) : (s.wake n).mem = s.mem := rfl
@[simp] theorem State.wake_alloc (n : Nat) : (s.wake n).alloc = s.alloc := rfl
@[simp] theorem State.wake_flights (n : Nat) : (s.wake n).flights = s.flights := rfl
@[simp] theorem State.wake_parts (n : Nat) : (s.wake n).parts = s.parts := rfl
@[simp] theorem State.wake_iod (n : Nat) : (s.wake n).iod = s.iod := rfl
@[simp] theorem State.wake_port (n : Nat) : (s.wake n).port = s.port := rfl
@[simp] theorem State.wake_plat (n : Nat) : (s.wake n).plat = s.plat := rfl
@[simp] theorem State.wake_health (n : Nat) : (s.wake n).health = s.health := rfl
@[simp] theorem State.wake_cycle (n : Nat) : (s.wake n).cycle = s.cycle := rfl
@[simp] theorem State.wake_serial (n : Nat) : (s.wake n).serial = s.serial := rfl
@[simp] theorem State.wake_free (n : Nat) : (s.wake n).free = s.free := rfl
@[simp] theorem State.wake_agenda (n : Nat) : (s.wake n).agenda = s.agenda := rfl

@[simp] theorem State.flagIssue_grp (f : Option Nat) : (s.flagIssue f).grp = { s.grp with r := s.grp.r.flagIssue f } := rfl
@[simp] theorem State.flagIssue_team (f : Option Nat) : (s.flagIssue f).team = s.team := rfl
@[simp] theorem State.flagIssue_cur (f : Option Nat) : (s.flagIssue f).cur = s.cur := rfl
@[simp] theorem State.flagIssue_groups (f : Option Nat) : (s.flagIssue f).groups = s.groups := rfl
@[simp] theorem State.flagIssue_teams (f : Option Nat) : (s.flagIssue f).teams = s.teams := rfl
@[simp] theorem State.flagIssue_cores (f : Option Nat) : (s.flagIssue f).cores = s.cores := rfl
@[simp] theorem State.flagIssue_mem (f : Option Nat) : (s.flagIssue f).mem = s.mem := rfl
@[simp] theorem State.flagIssue_alloc (f : Option Nat) : (s.flagIssue f).alloc = s.alloc := rfl
@[simp] theorem State.flagIssue_flights (f : Option Nat) : (s.flagIssue f).flights = s.flights := rfl
@[simp] theorem State.flagIssue_parts (f : Option Nat) : (s.flagIssue f).parts = s.parts := rfl
@[simp] theorem State.flagIssue_iod (f : Option Nat) : (s.flagIssue f).iod = s.iod := rfl
@[simp] theorem State.flagIssue_port (f : Option Nat) : (s.flagIssue f).port = s.port := rfl
@[simp] theorem State.flagIssue_plat (f : Option Nat) : (s.flagIssue f).plat = s.plat := rfl
@[simp] theorem State.flagIssue_health (f : Option Nat) : (s.flagIssue f).health = s.health := rfl
@[simp] theorem State.flagIssue_cycle (f : Option Nat) : (s.flagIssue f).cycle = s.cycle := rfl
@[simp] theorem State.flagIssue_serial (f : Option Nat) : (s.flagIssue f).serial = s.serial := rfl
@[simp] theorem State.flagIssue_free (f : Option Nat) : (s.flagIssue f).free = s.free := rfl
@[simp] theorem State.flagIssue_agenda (f : Option Nat) : (s.flagIssue f).agenda = s.agenda := rfl

@[simp] theorem State.clearAlloc_grp (c b n : Nat) : (s.clearAlloc c b n).grp = s.grp := rfl
@[simp] theorem State.clearAlloc_team (c b n : Nat) : (s.clearAlloc c b n).team = s.team := rfl
@[simp] theorem State.clearAlloc_cur (c b n : Nat) : (s.clearAlloc c b n).cur = s.cur := rfl
@[simp] theorem State.clearAlloc_groups (c b n : Nat) : (s.clearAlloc c b n).groups = s.groups := rfl
@[simp] theorem State.clearAlloc_teams (c b n : Nat) : (s.clearAlloc c b n).teams = s.teams := rfl
@[simp] theorem State.clearAlloc_cores (c b n : Nat) : (s.clearAlloc c b n).cores = s.cores := rfl
@[simp] theorem State.clearAlloc_alloc (c b n : Nat) : (s.clearAlloc c b n).alloc = s.alloc := rfl
@[simp] theorem State.clearAlloc_flights (c b n : Nat) : (s.clearAlloc c b n).flights = s.flights := rfl
@[simp] theorem State.clearAlloc_parts (c b n : Nat) : (s.clearAlloc c b n).parts = s.parts := rfl
@[simp] theorem State.clearAlloc_iod (c b n : Nat) : (s.clearAlloc c b n).iod = s.iod := rfl
@[simp] theorem State.clearAlloc_port (c b n : Nat) : (s.clearAlloc c b n).port = s.port := rfl
@[simp] theorem State.clearAlloc_plat (c b n : Nat) : (s.clearAlloc c b n).plat = s.plat := rfl
@[simp] theorem State.clearAlloc_health (c b n : Nat) : (s.clearAlloc c b n).health = s.health := rfl
@[simp] theorem State.clearAlloc_cycle (c b n : Nat) : (s.clearAlloc c b n).cycle = s.cycle := rfl
@[simp] theorem State.clearAlloc_serial (c b n : Nat) : (s.clearAlloc c b n).serial = s.serial := rfl
@[simp] theorem State.clearAlloc_free (c b n : Nat) : (s.clearAlloc c b n).free = s.free := rfl
@[simp] theorem State.clearAlloc_agenda (c b n : Nat) : (s.clearAlloc c b n).agenda = s.agenda := rfl

@[simp] theorem State.setCore_inGate (c : Nat) (k : Core) : (s.setCore c k).inGate = s.inGate := rfl
@[simp] theorem State.setCore_gateDepth (c : Nat) (k : Core) : (s.setCore c k).gateDepth = s.gateDepth := rfl
@[simp] theorem State.setCore_frameQ (c : Nat) (k : Core) : (s.setCore c k).frame? = s.frame? := rfl
@[simp] theorem State.setCore_dom (c : Nat) (k : Core) : (s.setCore c k).dom = s.dom := rfl
@[simp] theorem State.setCore_budget (c : Nat) (k : Core) : (s.setCore c k).budget = s.budget := rfl
@[simp] theorem State.setCore_myPart (c : Nat) (k : Core) : (s.setCore c k).myPart = s.myPart := rfl
@[simp] theorem State.setCore_table (c : Nat) (k : Core) : (s.setCore c k).table = s.table := rfl
@[simp] theorem State.setCore_vkey (c : Nat) (k : Core) (i j : Nat) : (s.setCore c k).vkey i j = s.vkey i j := rfl

@[simp] theorem State.modCore_inGate (c : Nat) (f : Core → Core) : (s.modCore c f).inGate = s.inGate := rfl
@[simp] theorem State.modCore_gateDepth (c : Nat) (f : Core → Core) : (s.modCore c f).gateDepth = s.gateDepth := rfl
@[simp] theorem State.modCore_frameQ (c : Nat) (f : Core → Core) : (s.modCore c f).frame? = s.frame? := rfl
@[simp] theorem State.modCore_dom (c : Nat) (f : Core → Core) : (s.modCore c f).dom = s.dom := rfl
@[simp] theorem State.modCore_budget (c : Nat) (f : Core → Core) : (s.modCore c f).budget = s.budget := rfl
@[simp] theorem State.modCore_myPart (c : Nat) (f : Core → Core) : (s.modCore c f).myPart = s.myPart := rfl
@[simp] theorem State.modCore_table (c : Nat) (f : Core → Core) : (s.modCore c f).table = s.table := rfl
@[simp] theorem State.modCore_vkey (c : Nat) (f : Core → Core) (i j : Nat) : (s.modCore c f).vkey i j = s.vkey i j := rfl

@[simp] theorem State.modRegs_inGate (f : Regs → Regs) : (s.modRegs f).inGate = s.inGate := rfl
@[simp] theorem State.modRegs_gateDepth (f : Regs → Regs) : (s.modRegs f).gateDepth = s.gateDepth := rfl
@[simp] theorem State.modRegs_frameQ (f : Regs → Regs) : (s.modRegs f).frame? = s.frame? := rfl
@[simp] theorem State.modRegs_dom (f : Regs → Regs) : (s.modRegs f).dom = s.dom := rfl
@[simp] theorem State.modRegs_budget (f : Regs → Regs) : (s.modRegs f).budget = s.budget := rfl
@[simp] theorem State.modRegs_myPart (f : Regs → Regs) : (s.modRegs f).myPart = s.myPart := rfl
@[simp] theorem State.modRegs_table (f : Regs → Regs) : (s.modRegs f).table = s.table := rfl
@[simp] theorem State.modRegs_vkey (f : Regs → Regs) (i j : Nat) : (s.modRegs f).vkey i j = s.vkey i j := rfl

@[simp] theorem State.setS_inGate (n : Nat) (x : PWord) : (s.setS n x).inGate = s.inGate := rfl
@[simp] theorem State.setS_gateDepth (n : Nat) (x : PWord) : (s.setS n x).gateDepth = s.gateDepth := rfl
@[simp] theorem State.setS_frameQ (n : Nat) (x : PWord) : (s.setS n x).frame? = s.frame? := rfl
@[simp] theorem State.setS_dom (n : Nat) (x : PWord) : (s.setS n x).dom = s.dom := rfl
@[simp] theorem State.setS_budget (n : Nat) (x : PWord) : (s.setS n x).budget = s.budget := rfl
@[simp] theorem State.setS_myPart (n : Nat) (x : PWord) : (s.setS n x).myPart = s.myPart := rfl
@[simp] theorem State.setS_table (n : Nat) (x : PWord) : (s.setS n x).table = s.table := rfl
@[simp] theorem State.setS_vkey (n : Nat) (x : PWord) (i j : Nat) : (s.setS n x).vkey i j = s.vkey i j := rfl

@[simp] theorem State.setSw_inGate (n x : Nat) : (s.setSw n x).inGate = s.inGate := rfl
@[simp] theorem State.setSw_gateDepth (n x : Nat) : (s.setSw n x).gateDepth = s.gateDepth := rfl
@[simp] theorem State.setSw_frameQ (n x : Nat) : (s.setSw n x).frame? = s.frame? := rfl
@[simp] theorem State.setSw_dom (n x : Nat) : (s.setSw n x).dom = s.dom := rfl
@[simp] theorem State.setSw_budget (n x : Nat) : (s.setSw n x).budget = s.budget := rfl
@[simp] theorem State.setSw_myPart (n x : Nat) : (s.setSw n x).myPart = s.myPart := rfl
@[simp] theorem State.setSw_table (n x : Nat) : (s.setSw n x).table = s.table := rfl
@[simp] theorem State.setSw_vkey (n x : Nat) (i j : Nat) : (s.setSw n x).vkey i j = s.vkey i j := rfl

@[simp] theorem State.setSpair_inGate (n x : Nat) : (s.setSpair n x).inGate = s.inGate := rfl
@[simp] theorem State.setSpair_gateDepth (n x : Nat) : (s.setSpair n x).gateDepth = s.gateDepth := rfl
@[simp] theorem State.setSpair_frameQ (n x : Nat) : (s.setSpair n x).frame? = s.frame? := rfl
@[simp] theorem State.setSpair_dom (n x : Nat) : (s.setSpair n x).dom = s.dom := rfl
@[simp] theorem State.setSpair_budget (n x : Nat) : (s.setSpair n x).budget = s.budget := rfl
@[simp] theorem State.setSpair_myPart (n x : Nat) : (s.setSpair n x).myPart = s.myPart := rfl
@[simp] theorem State.setSpair_table (n x : Nat) : (s.setSpair n x).table = s.table := rfl
@[simp] theorem State.setSpair_vkey (n x : Nat) (i j : Nat) : (s.setSpair n x).vkey i j = s.vkey i j := rfl

@[simp] theorem State.setQ_inGate (n : Nat) (b : Bool) : (s.setQ n b).inGate = s.inGate := rfl
@[simp] theorem State.setQ_gateDepth (n : Nat) (b : Bool) : (s.setQ n b).gateDepth = s.gateDepth := rfl
@[simp] theorem State.setQ_frameQ (n : Nat) (b : Bool) : (s.setQ n b).frame? = s.frame? := rfl
@[simp] theorem State.setQ_dom (n : Nat) (b : Bool) : (s.setQ n b).dom = s.dom := rfl
@[simp] theorem State.setQ_budget (n : Nat) (b : Bool) : (s.setQ n b).budget = s.budget := rfl
@[simp] theorem State.setQ_myPart (n : Nat) (b : Bool) : (s.setQ n b).myPart = s.myPart := rfl
@[simp] theorem State.setQ_table (n : Nat) (b : Bool) : (s.setQ n b).table = s.table := rfl
@[simp] theorem State.setQ_vkey (n : Nat) (b : Bool) (i j : Nat) : (s.setQ n b).vkey i j = s.vkey i j := rfl

@[simp] theorem State.setP_inGate (l n : Nat) (b : Bool) : (s.setP l n b).inGate = s.inGate := rfl
@[simp] theorem State.setP_gateDepth (l n : Nat) (b : Bool) : (s.setP l n b).gateDepth = s.gateDepth := rfl
@[simp] theorem State.setP_frameQ (l n : Nat) (b : Bool) : (s.setP l n b).frame? = s.frame? := rfl
@[simp] theorem State.setP_dom (l n : Nat) (b : Bool) : (s.setP l n b).dom = s.dom := rfl
@[simp] theorem State.setP_budget (l n : Nat) (b : Bool) : (s.setP l n b).budget = s.budget := rfl
@[simp] theorem State.setP_myPart (l n : Nat) (b : Bool) : (s.setP l n b).myPart = s.myPart := rfl
@[simp] theorem State.setP_table (l n : Nat) (b : Bool) : (s.setP l n b).table = s.table := rfl
@[simp] theorem State.setP_vkey (l n : Nat) (b : Bool) (i j : Nat) : (s.setP l n b).vkey i j = s.vkey i j := rfl

@[simp] theorem State.setX_inGate (n : Nat) (x : Word) : (s.setX n x).inGate = s.inGate := rfl
@[simp] theorem State.setX_gateDepth (n : Nat) (x : Word) : (s.setX n x).gateDepth = s.gateDepth := rfl
@[simp] theorem State.setX_frameQ (n : Nat) (x : Word) : (s.setX n x).frame? = s.frame? := rfl
@[simp] theorem State.setX_dom (n : Nat) (x : Word) : (s.setX n x).dom = s.dom := rfl
@[simp] theorem State.setX_budget (n : Nat) (x : Word) : (s.setX n x).budget = s.budget := rfl
@[simp] theorem State.setX_myPart (n : Nat) (x : Word) : (s.setX n x).myPart = s.myPart := rfl
@[simp] theorem State.setX_table (n : Nat) (x : Word) : (s.setX n x).table = s.table := rfl
@[simp] theorem State.setX_vkey (n : Nat) (x : Word) (i j : Nat) : (s.setX n x).vkey i j = s.vkey i j := rfl

@[simp] theorem State.stall_inGate : (s.stall).inGate = s.inGate := rfl
@[simp] theorem State.stall_gateDepth : (s.stall).gateDepth = s.gateDepth := rfl
@[simp] theorem State.stall_frameQ : (s.stall).frame? = s.frame? := rfl
@[simp] theorem State.stall_dom : (s.stall).dom = s.dom := rfl
@[simp] theorem State.stall_budget : (s.stall).budget = s.budget := rfl
@[simp] theorem State.stall_myPart : (s.stall).myPart = s.myPart := rfl
@[simp] theorem State.stall_table : (s.stall).table = s.table := rfl
@[simp] theorem State.stall_vkey (i j : Nat) : (s.stall).vkey i j = s.vkey i j := rfl

@[simp] theorem State.stamp_inGate : (s.stamp).inGate = s.inGate := rfl
@[simp] theorem State.stamp_gateDepth : (s.stamp).gateDepth = s.gateDepth := rfl
@[simp] theorem State.stamp_frameQ : (s.stamp).frame? = s.frame? := rfl
@[simp] theorem State.stamp_dom : (s.stamp).dom = s.dom := rfl
@[simp] theorem State.stamp_budget : (s.stamp).budget = s.budget := rfl
@[simp] theorem State.stamp_myPart : (s.stamp).myPart = s.myPart := rfl
@[simp] theorem State.stamp_table : (s.stamp).table = s.table := rfl
@[simp] theorem State.stamp_vkey (i j : Nat) : (s.stamp).vkey i j = s.vkey i j := rfl

@[simp] theorem State.flagIssue_inGate (f : Option Nat) : (s.flagIssue f).inGate = s.inGate := rfl
@[simp] theorem State.flagIssue_gateDepth (f : Option Nat) : (s.flagIssue f).gateDepth = s.gateDepth := rfl
@[simp] theorem State.flagIssue_frameQ (f : Option Nat) : (s.flagIssue f).frame? = s.frame? := rfl
@[simp] theorem State.flagIssue_dom (f : Option Nat) : (s.flagIssue f).dom = s.dom := rfl
@[simp] theorem State.flagIssue_budget (f : Option Nat) : (s.flagIssue f).budget = s.budget := rfl
@[simp] theorem State.flagIssue_myPart (f : Option Nat) : (s.flagIssue f).myPart = s.myPart := rfl
@[simp] theorem State.flagIssue_table (f : Option Nat) : (s.flagIssue f).table = s.table := rfl
@[simp] theorem State.flagIssue_vkey (f : Option Nat) (i j : Nat) : (s.flagIssue f).vkey i j = s.vkey i j := rfl

end Sys2Proof.Machine
end

