-- ==== Sys2Proof/Laws/Regs.lean ====
section
/-! SUPPORT. Laws/Regs.lean: what a register reads after a write, what the writes of many lanes leave, and when the shared checks pass. -/

namespace Sys2Proof.Machine

/-! ### Group-uniform registers -/

theorem State.sreg_setS (s : State) (n m : Nat) (x : PWord) : (s.setS n x).sreg m = if m = n then x else s.sreg m := by
  simp only [State.sreg, State.setS_grp, sget_sset]

theorem State.sreg_setSw (s : State) (n m x : Nat) : (s.setSw n x).sreg m = if m = n then ⟨BitVec.ofNat 32 x, false⟩ else s.sreg m :=
  State.sreg_setS s n m _

theorem State.sreg_setSpair (s : State) (n m x : Nat) : (s.setSpair n x).sreg m =
    if m = n + 1 then ⟨BitVec.ofNat 32 (x / 2 ^ 32), false⟩ else if m = n then ⟨BitVec.ofNat 32 (x % 2 ^ 32), false⟩ else s.sreg m := by
  simp only [State.setSpair, State.sreg_setSw]

theorem State.xr_setX (s : State) (n m : Nat) (x : Word) : (s.setX n x).xr m = if m = n then x.toNat else s.xr m := by
  simp only [State.xr, State.setX_grp, sget_sset]; split <;> rfl

theorem testBit_setBit {w : Nat} (x : BitVec w) (n m : Nat) (b : Bool) :
    (setBit x n b).toNat.testBit m = if m = n ∧ n < w then b else x.toNat.testBit m := by
  simp only [setBit, BitVec.testBit_toNat]
  cases b
  · simp only [Bool.false_eq_true, if_false, BitVec.getLsbD_and, BitVec.getLsbD_not, BitVec.getLsbD_ofNat, Nat.testBit_two_pow]
    by_cases h : m = n
    · subst h
      by_cases hw : m < w
      · simp [hw]
      · simp [hw, BitVec.getLsbD_of_ge x m (by omega)]
    · have h' : ¬ n = m := fun e => h e.symm
      by_cases hw : m < w
      · simp [h, h', hw]
      · simp [h, hw, BitVec.getLsbD_of_ge x m (by omega)]
  · simp only [if_true, BitVec.getLsbD_or, BitVec.getLsbD_ofNat, Nat.testBit_two_pow]
    by_cases h : m = n
    · subst h
      by_cases hw : m < w <;> simp [hw]
    · have h' : ¬ n = m := fun e => h e.symm
      simp [h, h']

theorem State.q_setQ (s : State) (n m : Nat) (b : Bool) : (s.setQ n b).q m = if m = n ∧ n < 16 then b else s.q m :=
  testBit_setBit s.grp.r.q n m b

theorem State.p_setP (s : State) (l n l' m : Nat) (b : Bool) :
    (s.setP l n b).p l' m = if l' = l ∧ m = n ∧ n < 48 then b else s.p l' m := by
  simp only [State.p, State.preg, State.setP_grp, sget_sset]
  by_cases h : l' = l
  · subst h; simp [testBit_setBit]
  · simp [h]

/-! ### Lane registers -/

theorem State.vkey_inj (s : State) {l l' r : Nat} (h : s.vkey l r = s.vkey l' r) : l = l' := by
  simp only [State.vkey] at h; omega

@[simp] theorem Region.write_identity (g : Region) (k r : Nat) (o : PWord) : (g.write k r o).identity = g.identity := by
  unfold Region.write; split <;> rfl

/-- A state in which only v-registers, the record of their writes and the marks of the region of the unit in issue differ from those of `s`. -/
def State.VChange (s t : State) : Prop :=
  ∃ m w g, t = { s with grp := { s.grp with r := { s.grp.r with v := m, vw := w } }, cur := { s.cur with region := g } } ∧
    g.map Region.identity = s.cur.region.map Region.identity

theorem State.VChange.refl (s : State) : s.VChange s := ⟨s.grp.r.v, s.grp.r.vw, s.cur.region, rfl, rfl⟩

theorem State.VChange.trans {s t u : State} (h : s.VChange t) (h' : t.VChange u) : s.VChange u := by
  obtain ⟨m, w, g, rfl, hg⟩ := h
  obtain ⟨m', w', g', rfl, hg'⟩ := h'
  exact ⟨m', w', g', rfl, hg'.trans hg⟩

theorem State.VChange.vkey {s t : State} (h : s.VChange t) (l r : Nat) : t.vkey l r = s.vkey l r := by
  obtain ⟨m, w, g, rfl, -⟩ := h; rfl

theorem State.setV_vchange (s : State) (l r : Nat) (x : PWord) : s.VChange (s.setV l r x) := by
  refine ⟨sset {} s.grp.r.v (s.vkey l r) x, s.grp.r.vw.note (s.vkey l r), (s.setV l r x).cur.region, ?_, ?_⟩
  · unfold State.setV
    cases h : s.cur.region with
    | none => simp only [h]; rw [← h]
    | some g => rfl
  · unfold State.setV
    cases h : s.cur.region with
    | none => simp [h]
    | some g => simp

/-- A write per lane to one register: which states, and what every place of the register map holds afterwards. -/
theorem State.foldl_setV (d : Nat) (val : Nat → PWord) : ∀ (ls : List Nat) (s : State),
    s.VChange (ls.foldl (fun t l => t.setV l d (val l)) s) ∧
    (∀ l ∈ ls, sget {} (ls.foldl (fun t l => t.setV l d (val l)) s).grp.r.v (s.vkey l d) = val l) ∧
    ∀ k, (∀ l ∈ ls, k ≠ s.vkey l d) → sget {} (ls.foldl (fun t l => t.setV l d (val l)) s).grp.r.v k = sget {} s.grp.r.v k
  | [], s => ⟨.refl s, by simp, fun _ _ => rfl⟩
  | l :: ls, s => by
    obtain ⟨hc, hv, hk⟩ := State.foldl_setV d val ls (s.setV l d (val l))
    have hkey : ∀ l' r, (s.setV l d (val l)).vkey l' r = s.vkey l' r := (s.setV_vchange l d (val l)).vkey
    simp only [hkey] at hv hk
    refine ⟨(s.setV_vchange l d (val l)).trans hc, fun l' hl' => ?_, fun k hk' => ?_⟩
    · by_cases hin : l' ∈ ls
      · exact hv l' hin
      · rcases List.mem_cons.1 hl' with rfl | h
        · have := hk (s.vkey l' d) (fun l'' h'' e => hin ((s.vkey_inj e) ▸ h''))
          simp only [List.foldl_cons, this, State.setV_grp, sget_sset_self]
        · exact absurd h hin
    · have h1 := hk k fun l' h' => hk' l' (List.mem_cons_of_mem _ h')
      simp only [List.foldl_cons, h1, State.setV_grp]
      exact sget_sset_of_ne _ _ _ (hk' l List.mem_cons_self)

/-- What writeLanes does, once and whole. -/
theorem State.writeLanes_spec (s : State) (ls : List Nat) (d : Nat) (val : Nat → Nat) :
    s.VChange (s.writeLanes ls d val) ∧
    (∀ l ∈ ls, (s.writeLanes ls d val).vreg l d = ⟨BitVec.ofNat 32 (val l), false⟩) ∧
    ∀ k, (∀ l ∈ ls, k ≠ s.vkey l d) → sget {} (s.writeLanes ls d val).grp.r.v k = sget {} s.grp.r.v k := by
  obtain ⟨hc, hv, hk⟩ := State.foldl_setV d (fun l => ⟨BitVec.ofNat 32 (val l), false⟩) ls s
  refine ⟨hc, fun l hl => ?_, hk⟩
  simp only [State.vreg, State.VChange.vkey (s := s) (t := s.writeLanes ls d val) hc]
  exact hv l hl

/-- A state in which only lane predicates differ from those of `s`. -/
def State.PChange (s t : State) : Prop := ∃ m, t = { s with grp := { s.grp with r := { s.grp.r with p := m } } }

/-- What writePreds does, once and whole. -/
theorem State.writePreds_spec (n : Nat) (val : Nat → Bool) (hn : n < 48) : ∀ (ls : List Nat) (s : State),
    s.PChange (s.writePreds ls n val) ∧ (∀ l ∈ ls, (s.writePreds ls n val).p l n = val l) ∧
    ∀ l m, (l ∉ ls ∨ m ≠ n) → (s.writePreds ls n val).p l m = s.p l m
  | [], s => ⟨⟨s.grp.r.p, rfl⟩, by simp, fun _ _ _ => rfl⟩
  | l :: ls, s => by
    obtain ⟨⟨m, hm⟩, hv, hk⟩ := State.writePreds_spec n val hn ls (s.setP l n (val l))
    have hw : s.writePreds (l :: ls) n val = (s.setP l n (val l)).writePreds ls n val := rfl
    refine ⟨⟨m, by rw [hw, hm]; rfl⟩, fun l' hl' => ?_, fun l' m' h' => ?_⟩
    · rw [hw]
      by_cases hin : l' ∈ ls
      · exact hv l' hin
      · rcases List.mem_cons.1 hl' with rfl | h
        · rw [hk l' n (.inl hin), State.p_setP]; simp [hn]
        · exact absurd h hin
    · rw [hw]
      have h1 : l' ∉ ls ∨ m' ≠ n := h'.imp_left fun h e => h (List.mem_cons_of_mem _ e)
      rw [hk l' m' h1, State.p_setP]
      rcases h' with h' | h'
      · have : l' ≠ l := fun e => h' (e ▸ List.mem_cons_self)
        simp [this]
      · simp [h']

/-! ### Checks -/

theorem State.poisonS_none {s : State} {regs : List Nat} : s.poisonS regs = none ↔ ∀ r ∈ regs, (s.sreg r).poison = false := by
  unfold State.poisonS
  split
  · rename_i r h
    simp only [reduceCtorEq, false_iff]
    intro h'
    exact absurd (h' r (List.mem_of_find?_eq_some h)) (by simpa using List.find?_some h)
  · rename_i h
    simpa using h

theorem State.poisonV_none {s : State} {lanes regs : List Nat} :
    s.poisonV lanes regs = none ↔ ∀ r ∈ regs, ∀ l ∈ lanes, (s.vreg l r).poison = false := by
  unfold State.poisonV
  split
  · rename_i r h
    simp only [reduceCtorEq, false_iff]
    intro h'
    have := List.find?_some h
    simp only [List.any_eq_true] at this
    obtain ⟨l, hl, hp⟩ := this
    exact absurd (h' r (List.mem_of_find?_eq_some h) l hl) (by simp [hp])
  · rename_i h
    simpa using h

theorem State.budgetCheck_none {s : State} {regs : List Nat} : s.budgetCheck regs = none ↔ ∀ r ∈ regs, r < s.budget := by
  unfold State.budgetCheck
  split
  · rename_i r h
    simp only [reduceCtorEq, false_iff]
    intro h'
    have h1 := h' r (List.mem_of_find?_eq_some h)
    have h2 : r ≥ s.budget := by simpa using List.find?_some h
    omega
  · rename_i h
    simpa using h

theorem firstCode_none {l : List (Option Code)} : firstCode l = none ↔ ∀ c ∈ l, c = none := by
  induction l with
  | nil => simp [firstCode]
  | cons c l ih => cases c <;> simp [firstCode, ih]

theorem need_none {ok : Bool} {c d : Nat} : need ok c d = none ↔ ok = true := by
  cases ok <;> simp [need]

end Sys2Proof.Machine
end

