-- ==== Sys2Proof/Laws/Exec.lean ====
section
/-! SUPPORT. Laws/Exec.lean: what the shared shapes of instructions do: uniform operations, lane operations, checks and their outcome. -/

namespace Sys2Proof.Machine

/-! ### Outcomes -/

@[simp] theorem outcome_none (s e : State) : outcome s false none e = .next e := rfl
@[simp] theorem outcome_stall (s e : State) (f : Option Code) : outcome s true f e = .next s.stall := rfl
@[simp] theorem outcome_fault (s e : State) (c : Code) : outcome s false (some c) e = .next (s.raise c) := rfl

/-- A uniform instruction whose guard holds and whose checks pass has its effect. -/
theorem uniformOp_next {s : State} {x : Args} {faults : List (Option Code)} {effect : State → State}
    (hg : s.guardU x.gp x.gn = true) (hf : ∀ c ∈ faults, c = none) : uniformOp s x faults effect = .next ((effect s).doneU x) := by
  simp [uniformOp, hg, firstCode_none.2 hf]

/-- Under a false guard it does nothing. -/
theorem uniformOp_off {s : State} {x : Args} {faults : List (Option Code)} {effect : State → State}
    (hg : s.guardU x.gp x.gn = false) : uniformOp s x faults effect = .next (s.doneU x) := by
  simp [uniformOp, hg]

/-- The first of its checks that fails faults. -/
theorem uniformOp_fault {s : State} {x : Args} {faults : List (Option Code)} {effect : State → State} {c : Code}
    (hg : s.guardU x.gp x.gn = true) (hf : firstCode faults = some c) : uniformOp s x faults effect = .next (s.raise c) := by
  simp [uniformOp, hg, hf]

/-- A uniform instruction that writes one s-register, without poison. -/
theorem uniformOp_setSw {s : State} {x : Args} {faults : List (Option Code)} {d v : Nat}
    (hg : s.guardU x.gp x.gn = true) (hf : ∀ c ∈ faults, c = none) :
    ∃ t, uniformOp s x faults (fun t => t.setSw d v) = .next t ∧ t.sreg d = ⟨BitVec.ofNat 32 v, false⟩ ∧ OnlyS s t x [d] :=
  ⟨_, uniformOp_next hg hf, by simp [State.sreg], rfl, fun n hn => by
    have : n ≠ d := by simpa using hn
    simp [State.sreg, sget_sset_of_ne, this]⟩

/-- A uniform instruction that writes a pair of s-registers. -/
theorem uniformOp_setSpair {s : State} {x : Args} {faults : List (Option Code)} {d v : Nat}
    (hg : s.guardU x.gp x.gn = true) (hf : ∀ c ∈ faults, c = none) :
    ∃ t, uniformOp s x faults (fun t => t.setSpair d v) = .next t ∧ t.sreg d = ⟨BitVec.ofNat 32 (v % 2 ^ 32), false⟩ ∧
      t.sreg (d + 1) = ⟨BitVec.ofNat 32 (v / 2 ^ 32), false⟩ ∧ OnlyS s t x [d, d + 1] := by
  refine ⟨_, uniformOp_next hg hf, ?_, ?_, rfl, fun n hn => ?_⟩
  · exact (State.sreg_setSpair s d d v).trans (by simp)
  · exact (State.sreg_setSpair s d (d + 1) v).trans (by simp)
  · have : n ≠ d ∧ n ≠ d + 1 := by simpa using hn
    exact (State.sreg_setSpair s d n v).trans (by simp [this])

/-- A uniform instruction that writes a q-predicate. -/
theorem uniformOp_setQ {s : State} {x : Args} {faults : List (Option Code)} {d : Nat} {b : Bool} (hd : d < 16)
    (hg : s.guardU x.gp x.gn = true) (hf : ∀ c ∈ faults, c = none) :
    ∃ t, uniformOp s x faults (fun t => t.setQ d b) = .next t ∧ t.q d = b ∧ OnlyQ s t x [d] := by
  refine ⟨_, uniformOp_next hg hf, ?_, rfl, fun n hn => ?_⟩
  · exact (State.q_setQ s d d b).trans (by simp [hd])
  · have : n ≠ d := by simpa using hn
    exact (State.q_setQ s d n b).trans (by simp [this])

/-! ### Lane operations -/

/-- A lane instruction whose registers are free and whose checks pass has its effect. -/
theorem laneRun_next {s : State} {x : Args} {interval : Nat} {named used : List Nat} {faults : List (Option Code)} {effect : State}
    (hw : s.waitsV used = false) (hb : ∀ r ∈ named, r < s.budget) (hf : ∀ c ∈ faults, c = none) :
    laneRun s x interval named used faults effect = .next (effect.advance x.bytes (s.laneCost interval used)) := by
  have : firstCode (s.budgetCheck named :: faults) = none := firstCode_none.2 (by
    intro c hc
    rcases List.mem_cons.1 hc with rfl | hc
    · exact State.budgetCheck_none.2 hb
    · exact hf c hc)
  simp [laneRun, hw, this, State.laneCost]

/-- It stalls while one of its registers is in flight. -/
theorem laneRun_stall {s : State} {x : Args} {interval : Nat} {named used : List Nat} {faults : List (Option Code)} {effect : State}
    (hw : s.waitsV used = true) : laneRun s x interval named used faults effect = .next s.stall := by
  simp [laneRun, hw]

/-! ### The unit in issue -/

@[simp] theorem MUnit.advance_id (u : MUnit) (n : Nat) : (u.advance n).id = u.id := by
  unfold MUnit.advance; repeat' split
  all_goals rfl
@[simp] theorem MUnit.settle_id (u : MUnit) (n : Nat) : (u.settle n).id = u.id := by unfold MUnit.settle; split <;> rfl
@[simp] theorem MUnit.goTo_id (u : MUnit) (pc : DWord) : (u.goTo pc).id = u.id := rfl
@[simp] theorem MUnit.advance_mask (u : MUnit) (n : Nat) : (u.advance n).mask = u.mask := by
  unfold MUnit.advance; repeat' split
  all_goals rfl
@[simp] theorem MUnit.settle_mask (u : MUnit) (n : Nat) : (u.settle n).mask = u.mask := by unfold MUnit.settle; split <;> rfl
@[simp] theorem MUnit.goTo_mask (u : MUnit) (pc : DWord) : (u.goTo pc).mask = u.mask := rfl
@[simp] theorem MUnit.advance_top (u : MUnit) (n : Nat) : (u.advance n).top = u.top := by
  unfold MUnit.advance; repeat' split
  all_goals rfl
@[simp] theorem MUnit.settle_top (u : MUnit) (n : Nat) : (u.settle n).top = u.top := by unfold MUnit.settle; split <;> rfl
@[simp] theorem MUnit.goTo_top (u : MUnit) (pc : DWord) : (u.goTo pc).top = u.top := rfl
@[simp] theorem MUnit.advance_region (u : MUnit) (n : Nat) : (u.advance n).region = u.region := by
  unfold MUnit.advance; repeat' split
  all_goals rfl
@[simp] theorem MUnit.settle_region (u : MUnit) (n : Nat) : (u.settle n).region = u.region := by unfold MUnit.settle; split <;> rfl
@[simp] theorem MUnit.goTo_region (u : MUnit) (pc : DWord) : (u.goTo pc).region = u.region := rfl
@[simp] theorem MUnit.advance_lastIssue (u : MUnit) (n : Nat) : (u.advance n).lastIssue = u.lastIssue := by
  unfold MUnit.advance; repeat' split
  all_goals rfl
@[simp] theorem MUnit.settle_lastIssue (u : MUnit) (n : Nat) : (u.settle n).lastIssue = u.lastIssue := by unfold MUnit.settle; split <;> rfl
@[simp] theorem MUnit.goTo_lastIssue (u : MUnit) (pc : DWord) : (u.goTo pc).lastIssue = u.lastIssue := rfl
@[simp] theorem MUnit.advance_mopfV (u : MUnit) (n : Nat) : (u.advance n).mopfV = u.mopfV := by
  unfold MUnit.advance; repeat' split
  all_goals rfl
@[simp] theorem MUnit.settle_mopfV (u : MUnit) (n : Nat) : (u.settle n).mopfV = u.mopfV := by unfold MUnit.settle; split <;> rfl
@[simp] theorem MUnit.goTo_mopfV (u : MUnit) (pc : DWord) : (u.goTo pc).mopfV = u.mopfV := rfl
@[simp] theorem MUnit.advance_mopfW (u : MUnit) (n : Nat) : (u.advance n).mopfW = u.mopfW := by
  unfold MUnit.advance; repeat' split
  all_goals rfl
@[simp] theorem MUnit.settle_mopfW (u : MUnit) (n : Nat) : (u.settle n).mopfW = u.mopfW := by unfold MUnit.settle; split <;> rfl
@[simp] theorem MUnit.goTo_mopfW (u : MUnit) (pc : DWord) : (u.goTo pc).mopfW = u.mopfW := rfl
@[simp] theorem MUnit.advance_entered (u : MUnit) (n : Nat) : (u.advance n).entered = false := by
  unfold MUnit.advance; repeat' split
  all_goals rfl
@[simp] theorem MUnit.settle_entered (u : MUnit) (n : Nat) : (u.settle n).entered = u.entered := by unfold MUnit.settle; split <;> rfl
@[simp] theorem MUnit.goTo_entered (u : MUnit) (pc : DWord) : (u.goTo pc).entered = false := rfl
@[simp] theorem MUnit.advance_wrote (u : MUnit) (n : Nat) : (u.advance n).wrote = u.wrote := by
  unfold MUnit.advance; repeat' split
  all_goals rfl
@[simp] theorem MUnit.settle_wrote (u : MUnit) (n : Nat) : (u.settle n).wrote = u.wrote := by unfold MUnit.settle; split <;> rfl
@[simp] theorem MUnit.goTo_wrote (u : MUnit) (pc : DWord) : (u.goTo pc).wrote = u.wrote := rfl
@[simp] theorem MUnit.settle_pc (u : MUnit) (n : Nat) : (u.settle n).pc = u.pc := by unfold MUnit.settle; split <;> rfl
@[simp] theorem MUnit.settle_run (u : MUnit) (n : Nat) : (u.settle n).run = u.run := by unfold MUnit.settle; split <;> rfl
@[simp] theorem MUnit.goTo_pc (u : MUnit) (pc : DWord) : (u.goTo pc).pc = pcOf pc := rfl

/-- An instruction that is not repeated leaves its unit behind it. -/
theorem MUnit.advance_pc {u : MUnit} (h : u.run.rep = none) (n : Nat) : (u.advance n).pc = pcCut (u.pc + BitVec.ofNat 64 n) := by
  unfold MUnit.advance; rw [h]

/-- The position of a unit has no part in where its registers lie. -/
theorem State.advance_inGate (s : State) (n c : Nat) : (s.advance n c).inGate = s.inGate := by simp [State.inGate]
theorem State.advance_gateDepth (s : State) (n c : Nat) : (s.advance n c).gateDepth = s.gateDepth := by simp [State.gateDepth]
theorem State.advance_frameQ (s : State) (n c : Nat) : (s.advance n c).frame? = s.frame? := by
  simp [State.frame?, State.advance_inGate, State.advance_gateDepth]
@[simp] theorem State.advance_budget (s : State) (n c : Nat) : (s.advance n c).budget = s.budget := by
  simp [State.budget, State.advance_frameQ]
@[simp] theorem State.advance_vkey (s : State) (n c l r : Nat) : (s.advance n c).vkey l r = s.vkey l r := by simp [State.vkey]
@[simp] theorem State.advance_vreg (s : State) (n c l r : Nat) : (s.advance n c).vreg l r = s.vreg l r := by simp [State.vreg]

/-- A change of v-registers alone, and then the end of the instruction, is what `OnlyV` says. -/
theorem State.VChange.onlyV {s t : State} (h : s.VChange t) (x : Args) (cost : Nat) {keys : List Nat}
    (hk : ∀ k, k ∉ keys → sget {} t.grp.r.v k = sget {} s.grp.r.v k) : OnlyV s (t.advance x.bytes cost) x cost keys := by
  obtain ⟨m, w, g, rfl, hg⟩ := h
  have e1 : ∀ u : MUnit, ∀ n, ({ u with region := g } : MUnit).advance n = { u.advance n with region := g } := by
    intro u n; unfold MUnit.advance; dsimp only; split
    · split <;> rfl
    · rfl
  have e2 : ∀ u : MUnit, ∀ n, ({ u with region := g } : MUnit).settle n = { u.settle n with region := g } := by
    intro u n; unfold MUnit.settle; dsimp only; split <;> rfl
  have er : (({ s.cur with region := g } : MUnit).advance x.bytes |>.settle (s.cycle + cost)).region = g := by rw [e1, e2]
  refine ⟨?_, ?_, hk⟩
  · simp only [State.completes, State.advance, e1, e2]
  · simp only [State.advance, er]; exact hg

/-- A change of lane predicates alone, and then the end of the instruction, is what `OnlyP` says. -/
theorem State.PChange.onlyP {s t : State} (h : s.PChange t) (x : Args) (cost : Nat) {lanes : List Nat} {n : Nat}
    (hk : ∀ l m, l ∉ lanes ∨ m ≠ n → t.p l m = s.p l m) : OnlyP s (t.advance x.bytes cost) x cost lanes n := by
  obtain ⟨m, rfl⟩ := h
  exact ⟨rfl, hk⟩

/-- A lane instruction that writes one v-register per executing lane. -/
theorem laneRun_writeLanes {s : State} {x : Args} {interval d : Nat} {named used : List Nat} {faults : List (Option Code)} {ls : List Nat}
    {val : Nat → Nat} (hw : s.waitsV used = false) (hb : ∀ r ∈ named, r < s.budget) (hf : ∀ c ∈ faults, c = none) :
    ∃ t, laneRun s x interval named used faults (s.writeLanes ls d val) = .next t ∧
      (∀ l ∈ ls, t.vreg l d = ⟨BitVec.ofNat 32 (val l), false⟩) ∧ OnlyV s t x (s.laneCost interval used) (s.keysOf ls d) := by
  obtain ⟨hc, hv, hk⟩ := s.writeLanes_spec ls d val
  refine ⟨_, laneRun_next hw hb hf, fun l hl => (State.advance_vreg _ _ _ _ _).trans (hv l hl), hc.onlyV x _ fun k hk' => hk k fun l hl e => hk' ?_⟩
  exact List.mem_map.2 ⟨l, hl, e.symm⟩

/-- A lane instruction that writes one lane predicate per executing lane. -/
theorem laneRun_writePreds {s : State} {x : Args} {interval n : Nat} {named used : List Nat} {faults : List (Option Code)} {ls : List Nat}
    {val : Nat → Bool} (hn : n < 48) (hw : s.waitsV used = false) (hb : ∀ r ∈ named, r < s.budget) (hf : ∀ c ∈ faults, c = none) :
    ∃ t, laneRun s x interval named used faults (s.writePreds ls n val) = .next t ∧ (∀ l ∈ ls, t.p l n = val l) ∧
      OnlyP s t x (s.laneCost interval used) ls n := by
  obtain ⟨hc, hv, hk⟩ := State.writePreds_spec n val hn ls s
  exact ⟨_, laneRun_next hw hb hf, fun l hl => hv l hl, hc.onlyP x _ hk⟩

/-- The checks of an indexed or cross-lane source A pass. -/
theorem State.poisonA_none {s : State} {x : Args} {ls : List Nat} (ha : ∀ l ∈ ls, (s.srcA x l).poison = false) (hn : s.LaneNumberClean x) :
    s.poisonA x ls = none := by
  unfold State.poisonA
  apply firstCode_none.2
  intro c hc
  simp only [List.mem_cons, List.not_mem_nil, or_false] at hc
  rcases hc with rfl | rfl
  · rw [if_neg]
    simp only [List.any_eq_true, not_exists, not_and]
    intro l hl; simp [ha l hl]
  · split
    · rename_i h
      obtain ⟨h3, h7, -⟩ := h
      have hc : x.c.toNat < 128 := by
        by_contra hge
        have := x.c.isLt
        simp [bitOf, Nat.testBit, Nat.shiftRight_eq_div_pow] at h7
        omega
      have hf : field x.c.toNat 6 0 = x.c.toNat := by simp [field]; omega
      rw [hf]
      exact State.poisonS_none.2 (by simpa using hn h3 hc)
    · rfl

theorem State.poisonB_none {s : State} {x : Args} {ls : List Nat} (hb : ∀ l ∈ ls, (s.srcB x l).poison = false) : s.poisonB x ls = none := by
  unfold State.poisonB
  rw [if_neg]
  simp only [List.any_eq_true, not_exists, not_and]
  intro l hl; simp [hb l hl]

/-- The bound of an indexed operand holds when the register that it names lies in the budget. -/
theorem State.xmodeCheck_none {s : State} {x : Args} (ha : ∀ r ∈ s.regsA x, r < s.budget) (hb : x.xmode = 2 → ∀ r ∈ s.regsB x, r < s.budget) :
    s.xmodeCheck x = none := by
  unfold State.xmodeCheck
  split
  · rename_i h; exact need_none.2 (by simpa using ha _ (by simp [State.regsA, h]))
  · rename_i h; exact need_none.2 (by simpa using hb h _ (by simp [State.regsB, h]))
  · rfl

theorem mem_directDA {s : State} {x : Args} {r : Nat} (h : r ∈ directDA x) : r ∈ [x.d.toNat] ++ s.regsA x := by
  unfold directDA at h; unfold State.regsA
  by_cases hx : x.xmode = 1 <;> simp_all

theorem mem_directDAB {s : State} {x : Args} {r : Nat} (h : r ∈ directDAB x) : r ∈ [x.d.toNat] ++ s.regsA x ++ s.regsB x := by
  unfold directDAB at h; unfold State.regsA State.regsB
  by_cases hx : x.xmode = 1 <;> by_cases hy : x.xmode = 2 <;> simp_all <;> tauto

/-- What a lane instruction of two sources does when its registers are free and its sources hold no poison. -/
theorem lane2_next {s : State} {x : Args} {f : Nat → Nat → Nat} (hr : s.Free ([x.d.toNat] ++ s.regsA x ++ s.regsB x))
    (hn : s.LaneNumberClean x) (ha : ∀ l ∈ s.lanesFor x, (s.srcA x l).poison = false) (hb : ∀ l ∈ s.lanesFor x, (s.srcB x l).poison = false) :
    ∃ t, lane2 s x f = .next t ∧ (∀ l ∈ s.lanesFor x, t.vreg l x.d.toNat = ⟨BitVec.ofNat 32 (f (s.a x l) (s.b x l)), false⟩) ∧
      OnlyV s t x (s.laneCost 1 ([x.d.toNat] ++ s.regsA x ++ s.regsB x)) (s.keysOf (s.lanesFor x) x.d.toNat) :=
  laneRun_writeLanes hr.idle (fun r h => hr.inBudget r (mem_directDAB h)) (by
    have h1 := State.xmodeCheck_none (s := s) (x := x) (fun r h => hr.inBudget r (by simp [h])) fun _ r h => hr.inBudget r (by simp [h])
    simp [h1, State.poisonA_none ha hn, State.poisonB_none hb])

/-- The same for one source. -/
theorem lane1_next {s : State} {x : Args} {f : Nat → Nat} (hr : s.Free ([x.d.toNat] ++ s.regsA x)) (h2 : x.xmode ≠ 2)
    (hn : s.LaneNumberClean x) (ha : ∀ l ∈ s.lanesFor x, (s.srcA x l).poison = false) :
    ∃ t, lane1 s x f = .next t ∧ (∀ l ∈ s.lanesFor x, t.vreg l x.d.toNat = ⟨BitVec.ofNat 32 (f (s.a x l)), false⟩) ∧
      OnlyV s t x (s.laneCost 1 ([x.d.toNat] ++ s.regsA x)) (s.keysOf (s.lanesFor x) x.d.toNat) :=
  laneRun_writeLanes hr.idle (fun r h => hr.inBudget r (mem_directDA h)) (by
    have h1 := State.xmodeCheck_none (s := s) (x := x) (fun r h => hr.inBudget r (by simp [h])) fun h => absurd h h2
    simp [h1, State.poisonA_none ha hn])

/-- The same for three sources, the third being c or d (R231). -/
theorem lane3_next {s : State} {x : Args} {f : Nat → Nat → Nat → Nat} (hr : s.Free [x.d.toNat, x.a.toNat, x.b.toNat, third x])
    (hc : s.Clean (s.lanesFor x) [x.a.toNat, x.b.toNat, third x]) :
    ∃ t, lane3 s x f = .next t ∧ (∀ l ∈ s.lanesFor x, t.vreg l x.d.toNat = ⟨BitVec.ofNat 32 (f (s.a x l) (s.b x l) (s.c x l)), false⟩) ∧
      OnlyV s t x (s.laneCost 1 [x.d.toNat, x.a.toNat, x.b.toNat, third x]) (s.keysOf (s.lanesFor x) x.d.toNat) :=
  laneRun_writeLanes hr.idle hr.inBudget (by simp [State.poisonV_none.2 hc])

end Sys2Proof.Machine
end

