-- ==== Sys2Proof/Laws/Arith.lean ====
section
/-! SUPPORT. Laws/Arith.lean: the arithmetic of Flags and Bits on words as that of bit vectors, and uniform operations by their sources. -/

namespace Sys2Proof.Machine

theorem s32_toInt (a : Word) : s32 a.toNat = a.toInt := by
  unfold s32 signedOf
  rw [BitVec.toInt_eq_toNat_cond]
  have := a.isLt
  have h2 : a.toNat % 2^32 = a.toNat := Nat.mod_eq_of_lt this
  simp only [h2]
  split <;> split <;> omega

theorem ofNat_wrapU (x : Int) : BitVec.ofNat 32 (wrapU x 32) = BitVec.ofInt 32 x := by
  unfold wrapU
  apply BitVec.eq_of_toNat_eq
  simp only [BitVec.toNat_ofNat, BitVec.toNat_ofInt]
  have : (x % (2^32 : Int)).toNat < 2^32 := by omega
  simpa using this

theorem ofNat_intResult (sat : Bool) (w sg : Int) : BitVec.ofNat 32 (intResult sat w sg 32) = if sat then satBits 32 sg else BitVec.ofInt 32 w := by
  unfold intResult
  cases sat
  · simp [ofNat_wrapU]
  · simp only [if_true, ofNat_wrapU]
    unfold satBits satS
    congr 1
    norm_num
    split <;> [skip; split] <;> omega

/-- A uniform operation of two sources. -/
theorem uni2_next {s : State} {x : Args} {f : Nat → Nat → Nat} {r : Word} (hg : s.guardU x.gp x.gn = true)
   (hc : s.CleanS [x.a.toNat, x.b.toNat]) (hr : BitVec.ofNat 32 (f (s.sr x.a.toNat) (s.sr x.b.toNat)) = r) :
   ∃ t, uni2 s x f = .next t ∧ t.sreg x.d.toNat = ⟨r, false⟩ ∧ OnlyS s t x [x.d.toNat] := by
  subst hr
  exact uniformOp_setSw hg (by simpa using State.poisonS_none.2 hc)
/-- A uniform operation of three sources. -/
theorem uni3_next {s : State} {x : Args} {f : Nat → Nat → Nat → Nat} {r : Word} (hg : s.guardU x.gp x.gn = true)
   (hc : s.CleanS [x.a.toNat, x.b.toNat, thirdU x]) (hr : BitVec.ofNat 32 (f (s.sr x.a.toNat) (s.sr x.b.toNat) (s.sr (thirdU x))) = r) :
   ∃ t, uni3 s x f = .next t ∧ t.sreg x.d.toNat = ⟨r, false⟩ ∧ OnlyS s t x [x.d.toNat] := by
  subst hr
  exact uniformOp_setSw hg (by simpa using State.poisonS_none.2 hc)
/-- A uniform operation of one source. -/
theorem uni1_next {s : State} {x : Args} {f : Nat → Nat} {r : Word} (hg : s.guardU x.gp x.gn = true)
   (hc : s.CleanS [x.a.toNat]) (hr : BitVec.ofNat 32 (f (s.sr x.a.toNat)) = r) :
   ∃ t, uni1 s x f = .next t ∧ t.sreg x.d.toNat = ⟨r, false⟩ ∧ OnlyS s t x [x.d.toNat] := by
  subst hr
  exact uniformOp_setSw hg (by simpa using State.poisonS_none.2 hc)

variable (A B C : Word)
theorem ofInt_add_toNat : BitVec.ofInt 32 ((A.toNat : Int) + B.toNat) = A + B := by
  apply BitVec.eq_of_toNat_eq; simp [BitVec.toNat_ofInt]; omega
theorem ofInt_sub_toNat : BitVec.ofInt 32 ((A.toNat : Int) - B.toNat) = A - B := by
  apply BitVec.eq_of_toNat_eq; simp [BitVec.toNat_ofInt]; have := A.isLt; have := B.isLt; omega
theorem ofNat_mul : BitVec.ofNat 32 (A.toNat * B.toNat % 2^32) = A * B := by
  apply BitVec.eq_of_toNat_eq; simp
theorem ofNat_mulh32 : BitVec.ofNat 32 (mulh32 A.toNat B.toNat) = BitVec.ofInt 32 (A.toInt * B.toInt / 2^32) := by
  unfold mulh32; rw [ofNat_wrapU, s32_toInt, s32_toInt]
theorem ofNat_mad : BitVec.ofNat 32 ((A.toNat * B.toNat + C.toNat) % 2^32) = A * B + C := by
  apply BitVec.eq_of_toNat_eq; simp
theorem ofNat_sdiv32 : BitVec.ofNat 32 (sdiv32 A.toNat B.toNat) = if B = 0 then 0xFFFFFFFF else A.sdiv B := by
  unfold sdiv32
  by_cases hb : B = 0
  · simp [hb]
  · have hb' : B.toNat ≠ 0 := fun h => hb (BitVec.eq_of_toNat_eq (by simpa using h))
    simp only [hb', if_false, hb]
    split
    · rename_i h
      have h1 : A = 0x80000000#32 := BitVec.eq_of_toNat_eq (by simpa using h.1)
      have h2 : B = 0xFFFFFFFF#32 := BitVec.eq_of_toNat_eq (by simpa using h.2)
      subst h1 h2; decide
    · rw [ofNat_wrapU, s32_toInt, s32_toInt]
      apply BitVec.eq_of_toInt_eq
      rw [BitVec.toInt_ofInt, BitVec.toInt_sdiv]
theorem ofNat_srem32 : BitVec.ofNat 32 (srem32 A.toNat B.toNat) = if B = 0 then A else A.srem B := by
  unfold srem32
  by_cases hb : B = 0
  · simp [hb]
  · have hb' : B.toNat ≠ 0 := fun h => hb (BitVec.eq_of_toNat_eq (by simpa using h))
    simp only [hb', if_false, hb]
    split
    · rename_i h
      have h1 : A = 0x80000000#32 := BitVec.eq_of_toNat_eq (by simpa using h.1)
      have h2 : B = 0xFFFFFFFF#32 := BitVec.eq_of_toNat_eq (by simpa using h.2)
      subst h1 h2; decide
    · rw [ofNat_wrapU, s32_toInt, s32_toInt]
      have : A.toInt - B.toInt * A.toInt.tdiv B.toInt = A.toInt.tmod B.toInt := by rw [Int.tmod_def]
      rw [this, ← BitVec.toInt_srem, BitVec.ofInt_toInt]
theorem ofNat_land : BitVec.ofNat 32 (Nat.land A.toNat B.toNat) = A &&& B := by
  apply BitVec.eq_of_toNat_eq; simp [BitVec.toNat_and]
theorem ofNat_lor : BitVec.ofNat 32 (Nat.lor A.toNat B.toNat) = A ||| B := by
  apply BitVec.eq_of_toNat_eq; simp [BitVec.toNat_or]
theorem ofNat_xor : BitVec.ofNat 32 (Nat.xor A.toNat B.toNat) = A ^^^ B := by
  apply BitVec.eq_of_toNat_eq; simp [BitVec.toNat_xor]
theorem ofNat_shl32 : BitVec.ofNat 32 (shl32 A.toNat B.toNat) = A <<< B.toNat := by
  unfold shl32
  apply BitVec.eq_of_toNat_eq
  split
  · rename_i h; rw [BitVec.shiftLeft_eq_zero h]
  · simp [Nat.shiftLeft_eq]
theorem ofNat_shr32 : BitVec.ofNat 32 (shr32 A.toNat B.toNat) = A >>> B.toNat := by
  unfold shr32
  apply BitVec.eq_of_toNat_eq
  split
  · rename_i h; simp [BitVec.ushiftRight_eq_zero h]
  · have := A.isLt
    simp [Nat.shiftRight_eq_div_pow]
    exact Nat.lt_of_le_of_lt (Nat.div_le_self _ _) A.isLt
theorem ofNat_smin32 : BitVec.ofNat 32 (smin32 A.toNat B.toNat) = if A.sle B then A else B := by
  unfold smin32; rw [s32_toInt, s32_toInt]
  simp only [BitVec.sle_eq_decide, decide_eq_true_eq]
  split <;> simp
theorem ofNat_smax32 : BitVec.ofNat 32 (smax32 A.toNat B.toNat) = if A.sle B then B else A := by
  unfold smax32; rw [s32_toInt, s32_toInt]
  simp only [BitVec.sle_eq_decide, decide_eq_true_eq]
  split <;> split <;> simp
  · apply BitVec.eq_of_toInt_eq; omega
  · omega

end Sys2Proof.Machine
end

