-- ==== Sys2Proof/Laws/Control.lean ====
section
/-! SUPPORT. Laws/Control.lean: what the shared shapes of control flow, divergence and waiting do. -/

namespace Sys2Proof.Machine

/-- A jump sets the PC and ends the run, one cycle later; nothing else differs. -/
theorem State.jump_goesTo (s : State) (pc : DWord) : GoesTo s (s.jump pc 1) pc := by
  refine ⟨?_, ?_, ?_, ?_⟩
  · simp only [State.jump, MUnit.settle, MUnit.goTo]; split <;> rfl
  · simp only [State.jump, MUnit.settle, MUnit.goTo]
    by_cases h : s.cur.st = .issuing <;> simp [h]
  · simp only [State.jump, MUnit.settle, MUnit.goTo]; split <;> rfl
  · rfl

/-- Without a region there is none to release. -/
@[simp] theorem State.releaseRegion_none {s : State} (h : s.cur.region = none) : s.releaseRegion = s := by simp [State.releaseRegion, h]

theorem pcCut_toNat (a : DWord) : (pcCut a).toNat = a.toNat % 2 ^ 57 := by
  simp only [pcCut, BitVec.toNat_setWidth]
  exact Nat.mod_eq_of_lt (Nat.lt_trans (Nat.mod_lt _ (by decide)) (by decide))

/-- Addresses are cut to 57 bits at every step, so an addition sees no more of its operand than they hold. -/
theorem pcCut_add (a b : DWord) : pcCut (pcCut a + b) = pcCut (a + b) := by
  apply BitVec.eq_of_toNat_eq
  simp only [pcCut_toNat, BitVec.toNat_add]
  omega

/-- A branch target: the address behind the instruction and four times the offset, in 57 bits. -/
theorem State.branchTo_eq (s : State) (size : Nat) {w : Nat} (hw : w ≤ 60) (off : BitVec w) :
    s.branchTo size off = pcCut (s.cur.pc + BitVec.ofNat 64 size + 4 * off.signExtend 64) := by
  simp only [State.branchTo, State.next, pcCut_add]
  congr 2
  apply BitVec.eq_of_toInt_eq
  simp only [BitVec.toInt_mul, BitVec.toInt_signExtend, BitVec.toInt_ofInt]
  rw [show min 64 w = w by omega]
  have e : off.toInt.bmod (2 ^ w) = off.toInt := BitVec.toInt_bmod_cancel off
  rw [e]
  rfl

/-- An event that ends a wait does its work on the unit that it names, or nothing. -/
theorem onParked_next {s : State} {u : UnitRef} {why : ParkWhy} {t : State} {p : Parked} (h : WaitsOn s u why t p)
    (f : State → Parked → Option State) : onParked s u why f = .next ((f t p).getD s) := by
  obtain ⟨h1, h2, h3, h4⟩ := h
  simp [onParked, h1, h2, State.parkedOn, h3, h4]

/-! ### The units of a group -/

theorem mem_insUnit (u v : MUnit) (us : List MUnit) : v ∈ insUnit u us ↔ v = u ∨ v ∈ us := by
  induction us with
  | nil => simp [insUnit]
  | cons w us ih => simp only [insUnit]; split <;> simp [ih, or_left_comm]

theorem filter_insUnit (u : MUnit) (us : List MUnit) (p : MUnit → Bool) (h : p u = false) : (insUnit u us).filter p = us.filter p := by
  induction us with
  | nil => simp [insUnit, h]
  | cons v us ih => simp only [insUnit]; split <;> simp [List.filter, h, ih]

theorem find_insUnit (u : MUnit) (us : List MUnit) (n : Nat) (hu : u.id = n) (h : ∀ v ∈ us, v.id ≠ n) :
    (insUnit u us).find? (fun u => decide (u.id = n)) = some u := by
  induction us with
  | nil => simp [insUnit, hu]
  | cons v us ih =>
    simp only [insUnit]
    split
    · simp [List.find?, hu]
    · have := h v (by simp)
      simp [List.find?, this]
      exact ih fun w hw => h w (by simp [hw])

end Sys2Proof.Machine
end

