-- ==== Sys2Proof/Laws/Memory.lean ====
section
/-! SUPPORT. Laws/Memory.lean: what a read after a write gives, and that every operation over memory keeps the canonical form (log 8). -/

namespace Sys2Proof.Machine

/-! ### Bytes -/

/-- A byte after a write: of the number written inside, as before outside. -/
theorem sget_writeBytes : ∀ (n : Nat) (m : List (Nat × Byte)) (a x i : Nat),
    sget 0 (writeBytes m a x n) i = if a ≤ i ∧ i < a + n then BitVec.ofNat 8 (x / 256 ^ (i - a)) else sget 0 m i
  | 0, m, a, x, i => by simp only [writeBytes]; rw [if_neg (by omega)]
  | n + 1, m, a, x, i => by
    rw [writeBytes, sget_writeBytes n, sget_sset]
    by_cases h : i = a
    · subst h
      rw [if_neg (by omega), if_pos rfl, if_pos (by omega), Nat.sub_self, Nat.pow_zero, Nat.div_one]
    · by_cases h1 : a + 1 ≤ i ∧ i < a + 1 + n
      · rw [if_pos h1, if_pos (by omega), Nat.div_div_eq_div_mul, ← Nat.pow_succ', show (i - (a + 1)).succ = i - a by omega]
      · rw [if_neg h1, if_neg h, if_neg (by omega)]

/-- Bytes outside the ones written read as before. -/
theorem sget_writeBytes_of_outside {m : List (Nat × Byte)} {a x n i : Nat} (h : i < a ∨ a + n ≤ i) :
    sget 0 (writeBytes m a x n) i = sget 0 m i := by
  rw [sget_writeBytes, if_neg (by omega)]

/-- A read depends on the bytes that it covers. -/
theorem readBytes_congr {m k : List (Nat × Byte)} : ∀ (n a : Nat), (∀ i, a ≤ i → i < a + n → sget 0 m i = sget 0 k i) →
    readBytes m a n = readBytes k a n
  | 0, _, _ => rfl
  | n + 1, a, h => by
    simp only [readBytes]
    rw [h a (by omega) (by omega), readBytes_congr n (a + 1) fun i _ _ => h i (by omega) (by omega)]

/-- A read of the bytes written gives the number written. -/
theorem readBytes_writeBytes : ∀ (n : Nat) (m : List (Nat × Byte)) (a x : Nat), readBytes (writeBytes m a x n) a n = x % 256 ^ n
  | 0, m, a, x => by simp [readBytes, Nat.mod_one]
  | n + 1, m, a, x => by
    rw [readBytes, sget_writeBytes, if_pos (by omega), Nat.sub_self, Nat.pow_zero, Nat.div_one]
    rw [readBytes_congr (k := writeBytes (writeBytes m a x (n + 1)) (a + 1) (x / 256) n) n (a + 1) fun i h1 h2 => ?_,
      readBytes_writeBytes n, Nat.pow_succ', Nat.mod_mul]
    · simp
    · rw [sget_writeBytes, sget_writeBytes, if_pos (by omega), if_pos (by omega), Nat.div_div_eq_div_mul, ← Nat.pow_succ',
        show (i - (a + 1)).succ = i - a by omega]

/-- A read elsewhere gives what it gave. -/
theorem readBytes_writeBytes_of_apart {m : List (Nat × Byte)} {a x n b k : Nat} (h : b + k ≤ a ∨ a + n ≤ b) :
    readBytes (writeBytes m a x n) b k = readBytes m b k :=
  readBytes_congr k b fun i _ _ => sget_writeBytes_of_outside (by omega)

/-! ### The canonical form -/

theorem scanon_writeBytes : ∀ (n : Nat) {m : List (Nat × Byte)} (a x : Nat), scanon 0 m = true → scanon 0 (writeBytes m a x n) = true
  | 0, _, _, _, h => h
  | n + 1, _, a, x, h => scanon_writeBytes n (a + 1) (x / 256) (scanon_sset a _ h)

theorem scanon_poisonAfter {m : List (Nat × Bool)} (size a n : Nat) (p : Bool) (h : scanon false m = true) :
    scanon false (poisonAfter m size a n p) = true :=
  scanon_foldl _ _ (fun m b h => by
    split
    · exact scanon_sset b _ h
    · split
      · exact scanon_sset b _ h
      · exact h) h

theorem scanon_putWindow {V : Type} [DecidableEq V] {d : V} {m : List (Nat × V)} (lo : Nat) (w : List (Nat × V)) (h : scanon d m = true) :
    scanon d (putWindow d m lo w) = true :=
  scanon_foldl _ _ (fun _ e h => scanon_sset (lo + e.1) e.2 h) h

theorem risingFrom_imageCells : ∀ (bs : List Byte) (a lo : Nat), lo ≤ a → risingFrom lo (imageCells a bs) = true
  | [], _, _, _ => rfl
  | b :: bs, a, lo, h => by
    rw [imageCells]
    split
    · exact risingFrom_imageCells bs (a + 1) lo (by omega)
    · simp only [risingFrom, Bool.and_eq_true, decide_eq_true_eq]
      exact ⟨h, risingFrom_imageCells bs (a + 1) (a + 1) (Nat.le_refl _)⟩

theorem imageCells_ne : ∀ (bs : List Byte) (a : Nat), ∀ e ∈ imageCells a bs, e.2 ≠ 0
  | [], _, _, h => absurd h (by simp [imageCells])
  | b :: bs, a, e, h => by
    rw [imageCells] at h
    split at h
    · exact imageCells_ne bs (a + 1) e h
    · rename_i hb
      rcases List.mem_cons.1 h with rfl | h
      · exact hb
      · exact imageCells_ne bs (a + 1) e h

/-- The pilot image lies in memory in the canonical form. -/
theorem scanon_imageCells (bs : List Byte) : scanon 0 (imageCells 0 bs) = true := by
  simp only [scanon, Bool.and_eq_true, List.all_eq_true, decide_eq_true_eq]
  exact ⟨risingFrom_imageCells bs 0 0 (Nat.le_refl _), imageCells_ne bs 0⟩

/-- The record of the slices' writes keeps its form. -/
theorem SpadLog.scanon_note {w : SpadLog} (h : scanon {} w.last = true) (key n : Nat) : scanon {} (w.note key n).last = true :=
  scanon_foldl _ _ (fun _ _ h => scanon_sset _ _ h) h

theorem SpadLog.scanon_notePlain {w : SpadLog} (h : scanon {} w.last = true) (key n : Nat) (u : UnitRef) :
    scanon {} (w.notePlain key n u).last = true :=
  scanon_foldl _ _ (fun _ _ h => scanon_sset _ _ h) h

theorem SpadLog.scanon_noteFull {w : SpadLog} (h : scanon {} w.last = true) (key n : Nat) (u : UnitRef) :
    scanon {} (w.noteFull key n u).last = true :=
  scanon_foldl _ _ (fun _ g h => scanon_foldl _ _ (fun m i h => by
    dsimp only
    split
    · exact scanon_sset _ _ h
    · exact h) h) h

/-- The form of each of the memories. -/
theorem Memory.wf_iff (m : Memory) : m.wf = true ↔
    scanon 0 m.dram = true ∧ scanon false m.dramPoison = true ∧ scanon 0 m.spad = true ∧ scanon false m.full = true ∧
    scanon false m.spadPoison = true ∧ scanon {} m.log.last = true ∧ scanon 0 m.host = true ∧ scanon 0 m.pilot = true := by
  simp [Memory.wf, and_assoc]

theorem Memory.wf_writeDram {m : Memory} (h : m.wf = true) (pa n x : Nat) (p : Bool) : (m.writeDram pa n x p).wf = true := by
  simp only [Memory.wf_iff, Memory.writeDram] at h ⊢
  exact ⟨scanon_writeBytes n pa x h.1, scanon_poisonAfter 32 pa n p h.2.1, h.2.2⟩

theorem Memory.wf_zeroDram {m : Memory} (h : m.wf = true) (pa n : Nat) : (m.zeroDram pa n).wf = true := by
  simp only [Memory.wf_iff, Memory.zeroDram] at h ⊢
  exact ⟨scanon_filter _ h.1, scanon_filter _ h.2.1, h.2.2⟩

theorem Memory.wf_writeHost {m : Memory} (h : m.wf = true) (a n x : Nat) : (m.writeHost a n x).wf = true := by
  simp only [Memory.wf_iff, Memory.writeHost] at h ⊢
  exact ⟨h.1, h.2.1, h.2.2.1, h.2.2.2.1, h.2.2.2.2.1, h.2.2.2.2.2.1, scanon_writeBytes n a x h.2.2.2.2.2.2.1, h.2.2.2.2.2.2.2⟩

theorem Memory.wf_writeSpad {m : Memory} (h : m.wf = true) (c o n x : Nat) (p : Bool) : (m.writeSpad c o n x p).wf = true := by
  simp only [Memory.wf_iff, Memory.writeSpad] at h ⊢
  exact ⟨h.1, h.2.1, scanon_writeBytes n _ x h.2.2.1, h.2.2.2.1, scanon_poisonAfter 16 _ n p h.2.2.2.2.1,
    SpadLog.scanon_note h.2.2.2.2.2.1 _ _, h.2.2.2.2.2.2⟩

theorem Memory.wf_writeBar {m : Memory} (h : m.wf = true) (c o x : Nat) : (m.writeBar c o x).wf = true := by
  simp only [Memory.wf_iff, Memory.writeBar] at h ⊢
  exact ⟨h.1, h.2.1, scanon_writeBytes 32 _ x h.2.2.1, h.2.2.2.1, h.2.2.2.2.1, SpadLog.scanon_note h.2.2.2.2.2.1 _ _, h.2.2.2.2.2.2⟩

theorem Memory.wf_setFull {m : Memory} (h : m.wf = true) (c o n : Nat) (b : Bool) : (m.setFull c o n b).wf = true := by
  simp only [Memory.wf_iff, Memory.setFull] at h ⊢
  exact ⟨h.1, h.2.1, h.2.2.1, scanon_foldl _ _ (fun _ g h => scanon_sset g b h) h.2.2.2.1, h.2.2.2.2⟩

theorem Memory.wf_writePhys {m : Memory} (h : m.wf = true) (p : Phys) (n x : Nat) : (m.writePhys p n x).wf = true := by
  unfold Memory.writePhys
  split
  · exact Memory.wf_writeDram h _ _ _ _
  · exact Memory.wf_writeHost h _ _ _

/-! ### What the memories read as after a write -/

@[simp] theorem Memory.readDram_writeDram (m : Memory) (pa n x : Nat) (p : Bool) : (m.writeDram pa n x p).readDram pa n = x % 256 ^ n :=
  readBytes_writeBytes n m.dram pa x
@[simp] theorem Memory.readHost_writeHost (m : Memory) (a n x : Nat) : (m.writeHost a n x).readHost a n = x % 256 ^ n :=
  readBytes_writeBytes n m.host a x
@[simp] theorem Memory.readSpad_writeSpad (m : Memory) (c o n x : Nat) (p : Bool) : (m.writeSpad c o n x p).readSpad c o n = x % 256 ^ n :=
  readBytes_writeBytes n m.spad (spadKey c o) x
@[simp] theorem Memory.readHost_writeDram (m : Memory) (pa n x a k : Nat) (p : Bool) : (m.writeDram pa n x p).readHost a k = m.readHost a k := rfl
@[simp] theorem Memory.readSpad_writeDram (m : Memory) (pa n x c o k : Nat) (p : Bool) :
    (m.writeDram pa n x p).readSpad c o k = m.readSpad c o k := rfl
@[simp] theorem Memory.readDram_writeHost (m : Memory) (a n x pa k : Nat) : (m.writeHost a n x).readDram pa k = m.readDram pa k := rfl
@[simp] theorem Memory.readSpad_writeHost (m : Memory) (a n x c o k : Nat) : (m.writeHost a n x).readSpad c o k = m.readSpad c o k := rfl
@[simp] theorem Memory.readDram_writeSpad (m : Memory) (c o n x pa k : Nat) (p : Bool) :
    (m.writeSpad c o n x p).readDram pa k = m.readDram pa k := rfl
@[simp] theorem Memory.readHost_writeSpad (m : Memory) (c o n x a k : Nat) (p : Bool) :
    (m.writeSpad c o n x p).readHost a k = m.readHost a k := rfl

/-- A granule's full bit after setting those of some bytes. -/
theorem Memory.sget_setFull (m : Memory) (c o n : Nat) (b : Bool) (g : Nat) :
    sget false (m.setFull c o n b).full g = if g ∈ blocksOf 16 (spadKey c o) n then b else sget false m.full g := by
  have key : ∀ (l : List Nat) (f : List (Nat × Bool)),
      sget false (l.foldl (fun f g => sset false f g b) f) g = if g ∈ l then b else sget false f g := by
    intro l
    induction l with
    | nil => intro f; simp
    | cons k l ih =>
      intro f
      rw [List.foldl_cons, ih, sget_sset]
      by_cases h : g ∈ l
      · simp [h]
      · by_cases hk : g = k <;> simp [h, hk]
  exact key _ _

/-! ### Operations of the machine over memory -/

theorem State.memWf_writePlace {s : State} (h : s.MemWf) (p : Place) (w x : Nat) (poison full : Bool)
    (hr : ∀ a, p = .reg a → (s.writeWindow a w x poison).MemWf) : (s.writePlace p w x poison full).MemWf := by
  cases p with
  | spad c o =>
    simp only [State.writePlace, State.MemWf]
    split
    · exact Memory.wf_setFull (Memory.wf_writeSpad h _ _ _ _ _) _ _ _ _
    · exact Memory.wf_writeSpad h _ _ _ _ _
  | dram pa => exact Memory.wf_writeDram h _ _ _ _
  | host a => exact Memory.wf_writeHost h _ _ _
  | reg a => exact hr a rfl
  | fabric d g o => exact h

theorem State.memWf_writeVirt {s : State} (h : s.MemWf) (part domain va n x : Nat) : (s.writeVirt part domain va n x).MemWf := by
  unfold State.writeVirt
  split
  · exact h
  · exact Memory.wf_writePhys h _ _ _

theorem State.memWf_drainWrite {s : State} (h : s.MemWf) (core off w x : Nat) (poison : Bool) : (s.drainWrite core off w x poison).MemWf :=
  Memory.wf_setFull (Memory.wf_writeSpad h _ _ _ _ _) _ _ _ _

theorem State.memWf_clearAlloc {s : State} (h : s.MemWf) (core base size : Nat) : (s.clearAlloc core base size).MemWf := by
  simp only [State.MemWf, Memory.wf_iff, State.clearAlloc] at h ⊢
  exact ⟨h.1, h.2.1, scanon_filter _ h.2.2.1, scanon_filter _ h.2.2.2.1, scanon_filter _ h.2.2.2.2.1, scanon_filter _ h.2.2.2.2.2.1, h.2.2.2.2.2.2⟩

theorem State.memWf_toHost {s : State} (h : s.MemWf) (a : Nat) (bs : List Byte) : (s.toHost a bs).MemWf := Memory.wf_writeHost h _ _ _

/-- Memory at reset has the canonical form. -/
theorem State.memWf_reset : State.reset.MemWf := by
  show Memory.wf {} = true
  decide

end Sys2Proof.Machine
end

