-- ==== Sys2Proof/Laws/PerInstr.lean ====
section
/-! SUPPORT. Laws/PerInstr.lean: statements made per instruction, about instructions as syntax. -/

namespace Sys2Proof.Laws

/-- The words of a well-formed instruction are as many as its size says: whole words, one to five of them (09 R178, R194). -/
def EncodeSize.Statement (i : Instr) : Prop := i.WellFormed → (encode i).length = i.size ∧ i.size % 4 = 0 ∧ 4 ≤ i.size ∧ i.size ≤ 20

/-- The bytes of a list of words. -/
theorem length_wordBytes (ws : List Nat) : ((ws.map fun w => bytesOf w 4).flatten).length = 4 * ws.length := by
  induction ws with
  | nil => rfl
  | cons w ws ih => rw [List.map_cons, List.flatten_cons, List.length_append, ih, List.length_cons]; simp only [bytesOf, List.length_cons, List.length_nil]; omega

theorem length_encodeArgs (i : Instr) (f : Form) (x : Args) : (encodeArgs i f x).length = if x.long then 2 else 1 := by
  cases hl : x.long <;> simp only [encodeArgs, hl]
  · cases f.cls <;> rfl
  · rfl

theorem length_encodeBr (op : Nat) (x : BrArgs) : (encodeBr op x).length = if x.long then 2 else 1 := by
  cases hl : x.long <;> simp only [encodeBr, hl]
  · by_cases ho : op = 3 <;> simp [ho]
  · rfl

/-- Of an instruction of one or two words. -/
theorem encodeSize_words {i : Instr} {ws : List Nat} (long : Bool) (he : encode i = (ws.map fun w => bytesOf w 4).flatten)
    (hl : ws.length = if long then 2 else 1) (hs : i.size = if long then 8 else 4) : EncodeSize.Statement i := by
  intro _
  rw [he, hs, length_wordBytes, hl]
  cases long <;> simp

/-- Of an instruction whose fields are `Args`. -/
theorem encodeSize_args {i : Instr} {f : Form} {x : Args} (he : encode i = ((encodeArgs i f x).map fun w => bytesOf w 4).flatten)
    (hs : i.size = if x.long then 8 else 4) : EncodeSize.Statement i :=
  encodeSize_words x.long he (length_encodeArgs i f x) hs

/-- Of an event, which has no word. -/
theorem encodeSize_event {i : Instr} (h : i.isWord = false) : EncodeSize.Statement i := fun w => by simp [w.1] at h

/-- Of a region head with at most 16 registers. -/
theorem encodeSize_region (regs : List Byte) : EncodeSize.Statement (.rgn regs) := by
  intro h
  have hn : regs.length ≤ 16 := by
    have e := h.2
    simp only [Instr.error] at e
    split at e
    · rename_i c; simp at c; exact c.1
    · exact absurd e (by simp)
  have hc : ceilDiv regs.length 4 ≤ 4 ∧ regs.length ≤ 4 * ceilDiv regs.length 4 := by unfold ceilDiv; omega
  simp only [encode, Instr.size, padList, bytesOf, List.map_cons, List.map_nil, List.flatten_cons, List.flatten_nil, List.length_append,
    List.length_replicate, List.length_cons, List.length_nil]
  omega

theorem EncodeSize.iadd (x : Args) : EncodeSize.Statement (.iadd x) := encodeSize_args rfl rfl
theorem EncodeSize.isub (x : Args) : EncodeSize.Statement (.isub x) := encodeSize_args rfl rfl
theorem EncodeSize.iadds (x : Args) : EncodeSize.Statement (.iadds x) := encodeSize_args rfl rfl
theorem EncodeSize.imul (x : Args) : EncodeSize.Statement (.imul x) := encodeSize_args rfl rfl
theorem EncodeSize.imulh (x : Args) : EncodeSize.Statement (.imulh x) := encodeSize_args rfl rfl
theorem EncodeSize.imad (x : Args) : EncodeSize.Statement (.imad x) := encodeSize_args rfl rfl
theorem EncodeSize.imadw (x : Args) : EncodeSize.Statement (.imadw x) := encodeSize_args rfl rfl
theorem EncodeSize.imin (x : Args) : EncodeSize.Statement (.imin x) := encodeSize_args rfl rfl
theorem EncodeSize.imax (x : Args) : EncodeSize.Statement (.imax x) := encodeSize_args rfl rfl
theorem EncodeSize.iand (x : Args) : EncodeSize.Statement (.iand x) := encodeSize_args rfl rfl
theorem EncodeSize.ior (x : Args) : EncodeSize.Statement (.ior x) := encodeSize_args rfl rfl
theorem EncodeSize.ixor (x : Args) : EncodeSize.Statement (.ixor x) := encodeSize_args rfl rfl
theorem EncodeSize.ishl (x : Args) : EncodeSize.Statement (.ishl x) := encodeSize_args rfl rfl
theorem EncodeSize.ishr (x : Args) : EncodeSize.Statement (.ishr x) := encodeSize_args rfl rfl
theorem EncodeSize.isra (x : Args) : EncodeSize.Statement (.isra x) := encodeSize_args rfl rfl
theorem EncodeSize.irot (x : Args) : EncodeSize.Statement (.irot x) := encodeSize_args rfl rfl
theorem EncodeSize.ibfe (x : Args) : EncodeSize.Statement (.ibfe x) := encodeSize_args rfl rfl
theorem EncodeSize.ibfi (x : Args) : EncodeSize.Statement (.ibfi x) := encodeSize_args rfl rfl
theorem EncodeSize.iprm (x : Args) : EncodeSize.Statement (.iprm x) := encodeSize_args rfl rfl
theorem EncodeSize.icmp (x : Args) : EncodeSize.Statement (.icmp x) := encodeSize_args rfl rfl
theorem EncodeSize.isel (x : Args) : EncodeSize.Statement (.isel x) := encodeSize_args rfl rfl
theorem EncodeSize.iabs (x : Args) : EncodeSize.Statement (.iabs x) := encodeSize_args rfl rfl
theorem EncodeSize.ineg (x : Args) : EncodeSize.Statement (.ineg x) := encodeSize_args rfl rfl
theorem EncodeSize.inot (x : Args) : EncodeSize.Statement (.inot x) := encodeSize_args rfl rfl
theorem EncodeSize.iclz (x : Args) : EncodeSize.Statement (.iclz x) := encodeSize_args rfl rfl
theorem EncodeSize.ipop (x : Args) : EncodeSize.Statement (.ipop x) := encodeSize_args rfl rfl
theorem EncodeSize.ibrev (x : Args) : EncodeSize.Statement (.ibrev x) := encodeSize_args rfl rfl
theorem EncodeSize.mov (x : Args) : EncodeSize.Statement (.mov x) := encodeSize_args rfl rfl
theorem EncodeSize.lid (x : Args) : EncodeSize.Statement (.lid x) := encodeSize_args rfl rfl
theorem EncodeSize.imovi (x : Args) : EncodeSize.Statement (.imovi x) := encodeSize_args rfl rfl
theorem EncodeSize.imovh (x : Args) : EncodeSize.Statement (.imovh x) := encodeSize_args rfl rfl
theorem EncodeSize.movx (x : Args) : EncodeSize.Statement (.movx x) := encodeSize_args rfl rfl
theorem EncodeSize.fadd (x : Args) : EncodeSize.Statement (.fadd x) := encodeSize_args rfl rfl
theorem EncodeSize.fsub (x : Args) : EncodeSize.Statement (.fsub x) := encodeSize_args rfl rfl
theorem EncodeSize.fmul (x : Args) : EncodeSize.Statement (.fmul x) := encodeSize_args rfl rfl
theorem EncodeSize.ffma (x : Args) : EncodeSize.Statement (.ffma x) := encodeSize_args rfl rfl
theorem EncodeSize.fmin (x : Args) : EncodeSize.Statement (.fmin x) := encodeSize_args rfl rfl
theorem EncodeSize.fmax (x : Args) : EncodeSize.Statement (.fmax x) := encodeSize_args rfl rfl
theorem EncodeSize.fcmp (x : Args) : EncodeSize.Statement (.fcmp x) := encodeSize_args rfl rfl
theorem EncodeSize.fdiv (x : Args) : EncodeSize.Statement (.fdiv x) := encodeSize_args rfl rfl
theorem EncodeSize.frcp (x : Args) : EncodeSize.Statement (.frcp x) := encodeSize_args rfl rfl
theorem EncodeSize.frsq (x : Args) : EncodeSize.Statement (.frsq x) := encodeSize_args rfl rfl
theorem EncodeSize.fsqrt (x : Args) : EncodeSize.Statement (.fsqrt x) := encodeSize_args rfl rfl
theorem EncodeSize.fexp2 (x : Args) : EncodeSize.Statement (.fexp2 x) := encodeSize_args rfl rfl
theorem EncodeSize.flog2 (x : Args) : EncodeSize.Statement (.flog2 x) := encodeSize_args rfl rfl
theorem EncodeSize.fsin (x : Args) : EncodeSize.Statement (.fsin x) := encodeSize_args rfl rfl
theorem EncodeSize.fcos (x : Args) : EncodeSize.Statement (.fcos x) := encodeSize_args rfl rfl
theorem EncodeSize.frnd (x : Args) : EncodeSize.Statement (.frnd x) := encodeSize_args rfl rfl
theorem EncodeSize.fcls (x : Args) : EncodeSize.Statement (.fcls x) := encodeSize_args rfl rfl
theorem EncodeSize.hadd2 (x : Args) : EncodeSize.Statement (.hadd2 x) := encodeSize_args rfl rfl
theorem EncodeSize.hmul2 (x : Args) : EncodeSize.Statement (.hmul2 x) := encodeSize_args rfl rfl
theorem EncodeSize.hfma2 (x : Args) : EncodeSize.Statement (.hfma2 x) := encodeSize_args rfl rfl
theorem EncodeSize.dadd (x : Args) : EncodeSize.Statement (.dadd x) := encodeSize_args rfl rfl
theorem EncodeSize.dmul (x : Args) : EncodeSize.Statement (.dmul x) := encodeSize_args rfl rfl
theorem EncodeSize.dfma (x : Args) : EncodeSize.Statement (.dfma x) := encodeSize_args rfl rfl
theorem EncodeSize.cvt (x : Args) : EncodeSize.Statement (.cvt x) := encodeSize_args rfl rfl
theorem EncodeSize.pack (x : Args) : EncodeSize.Statement (.pack x) := encodeSize_args rfl rfl
theorem EncodeSize.unpk (x : Args) : EncodeSize.Statement (.unpk x) := encodeSize_args rfl rfl
theorem EncodeSize.idp4 (x : Args) : EncodeSize.Statement (.idp4 x) := encodeSize_args rfl rfl
theorem EncodeSize.idp8 (x : Args) : EncodeSize.Statement (.idp8 x) := encodeSize_args rfl rfl
theorem EncodeSize.fdp4 (x : Args) : EncodeSize.Statement (.fdp4 x) := encodeSize_args rfl rfl
theorem EncodeSize.fdp2 (x : Args) : EncodeSize.Statement (.fdp2 x) := encodeSize_args rfl rfl
theorem EncodeSize.scl (x : Args) : EncodeSize.Statement (.scl x) := encodeSize_args rfl rfl
theorem EncodeSize.pand (x : Args) : EncodeSize.Statement (.pand x) := encodeSize_args rfl rfl
theorem EncodeSize.por (x : Args) : EncodeSize.Statement (.por x) := encodeSize_args rfl rfl
theorem EncodeSize.pxor (x : Args) : EncodeSize.Statement (.pxor x) := encodeSize_args rfl rfl
theorem EncodeSize.pmov (x : Args) : EncodeSize.Statement (.pmov x) := encodeSize_args rfl rfl
theorem EncodeSize.pnot (x : Args) : EncodeSize.Statement (.pnot x) := encodeSize_args rfl rfl
theorem EncodeSize.xld (x : Args) : EncodeSize.Statement (.xld x) := encodeSize_args rfl rfl
theorem EncodeSize.xshf (x : Args) : EncodeSize.Statement (.xshf x) := encodeSize_args rfl rfl
theorem EncodeSize.xbal (x : Args) : EncodeSize.Statement (.xbal x) := encodeSize_args rfl rfl
theorem EncodeSize.xany (x : Args) : EncodeSize.Statement (.xany x) := encodeSize_args rfl rfl
theorem EncodeSize.xall (x : Args) : EncodeSize.Statement (.xall x) := encodeSize_args rfl rfl
theorem EncodeSize.xred (x : Args) : EncodeSize.Statement (.xred x) := encodeSize_args rfl rfl
theorem EncodeSize.xscan (x : Args) : EncodeSize.Statement (.xscan x) := encodeSize_args rfl rfl
theorem EncodeSize.xscanEx (x : Args) : EncodeSize.Statement (.xscanEx x) := encodeSize_args rfl rfl
theorem EncodeSize.ld (x : Args) : EncodeSize.Statement (.ld x) := encodeSize_args rfl rfl
theorem EncodeSize.st (x : Args) : EncodeSize.Statement (.st x) := encodeSize_args rfl rfl
theorem EncodeSize.ldfe (x : Args) : EncodeSize.Statement (.ldfe x) := encodeSize_args rfl rfl
theorem EncodeSize.stfe (x : Args) : EncodeSize.Statement (.stfe x) := encodeSize_args rfl rfl
theorem EncodeSize.ldr (x : Args) : EncodeSize.Statement (.ldr x) := encodeSize_args rfl rfl
theorem EncodeSize.atom (x : Args) : EncodeSize.Statement (.atom x) := encodeSize_args rfl rfl
theorem EncodeSize.cas (x : Args) : EncodeSize.Statement (.cas x) := encodeSize_args rfl rfl
theorem EncodeSize.red (x : Args) : EncodeSize.Statement (.red x) := encodeSize_args rfl rfl
theorem EncodeSize.pref (x : Args) : EncodeSize.Statement (.pref x) := encodeSize_args rfl rfl
theorem EncodeSize.invl (x : Args) : EncodeSize.Statement (.invl x) := encodeSize_args rfl rfl
theorem EncodeSize.popq (x : Args) : EncodeSize.Statement (.popq x) := encodeSize_args rfl rfl
theorem EncodeSize.pushq (x : Args) : EncodeSize.Statement (.pushq x) := encodeSize_args rfl rfl
theorem EncodeSize.mloop (x : Args) : EncodeSize.Statement (.mloop x) := encodeSize_args rfl rfl
theorem EncodeSize.mloopj (x : Args) : EncodeSize.Statement (.mloopj x) := encodeSize_args rfl rfl
theorem EncodeSize.mzero (x : Args) : EncodeSize.Statement (.mzero x) := encodeSize_args rfl rfl
theorem EncodeSize.mlda (x : Args) : EncodeSize.Statement (.mlda x) := encodeSize_args rfl rfl
theorem EncodeSize.mdrn (x : Args) : EncodeSize.Statement (.mdrn x) := encodeSize_args rfl rfl
theorem EncodeSize.mrsum (x : Args) : EncodeSize.Statement (.mrsum x) := encodeSize_args rfl rfl
theorem EncodeSize.clh (h : ClhArgs) : EncodeSize.Statement (.clh h) := encodeSize_words (ws := [_]) false rfl rfl rfl
theorem EncodeSize.rep (r : RepArgs) : EncodeSize.Statement (.rep r) := encodeSize_words (ws := [_]) false rfl rfl rfl
theorem EncodeSize.bra (off : BitVec 25) : EncodeSize.Statement (.bra off) := encodeSize_words (ws := [_]) false rfl rfl rfl
theorem EncodeSize.brq (x : BrArgs) : EncodeSize.Statement (.brq x) := encodeSize_words x.long rfl (length_encodeBr 3 x) rfl
theorem EncodeSize.brd (x : BrArgs) : EncodeSize.Statement (.brd x) := encodeSize_words x.long rfl (length_encodeBr 4 x) rfl
theorem EncodeSize.call (off : BitVec 25) : EncodeSize.Statement (.call off) := encodeSize_words (ws := [_]) false rfl rfl rfl
theorem EncodeSize.nop (x : Args) : EncodeSize.Statement (.nop x) := encodeSize_args rfl rfl
theorem EncodeSize.ret (x : Args) : EncodeSize.Statement (.ret x) := encodeSize_args rfl rfl
theorem EncodeSize.exit (x : Args) : EncodeSize.Statement (.exit x) := encodeSize_args rfl rfl
theorem EncodeSize.tret (x : Args) : EncodeSize.Statement (.tret x) := encodeSize_args rfl rfl
theorem EncodeSize.gret (x : Args) : EncodeSize.Statement (.gret x) := encodeSize_args rfl rfl
theorem EncodeSize.halt (x : Args) : EncodeSize.Statement (.halt x) := encodeSize_args rfl rfl
theorem EncodeSize.sleep (x : Args) : EncodeSize.Statement (.sleep x) := encodeSize_args rfl rfl
theorem EncodeSize.brx (x : Args) : EncodeSize.Statement (.brx x) := encodeSize_args rfl rfl
theorem EncodeSize.gateRegister (x : Args) : EncodeSize.Statement (.gateRegister x) := encodeSize_args rfl rfl
theorem EncodeSize.wpt (x : Args) : EncodeSize.Statement (.wpt x) := encodeSize_args rfl rfl
theorem EncodeSize.trap (x : Args) : EncodeSize.Statement (.trap x) := encodeSize_args rfl rfl
theorem EncodeSize.gate (x : Args) : EncodeSize.Statement (.gate x) := encodeSize_args rfl rfl
theorem EncodeSize.sadd (x : Args) : EncodeSize.Statement (.sadd x) := encodeSize_args rfl rfl
theorem EncodeSize.ssub (x : Args) : EncodeSize.Statement (.ssub x) := encodeSize_args rfl rfl
theorem EncodeSize.smul (x : Args) : EncodeSize.Statement (.smul x) := encodeSize_args rfl rfl
theorem EncodeSize.smulh (x : Args) : EncodeSize.Statement (.smulh x) := encodeSize_args rfl rfl
theorem EncodeSize.smad (x : Args) : EncodeSize.Statement (.smad x) := encodeSize_args rfl rfl
theorem EncodeSize.sdiv (x : Args) : EncodeSize.Statement (.sdiv x) := encodeSize_args rfl rfl
theorem EncodeSize.srem (x : Args) : EncodeSize.Statement (.srem x) := encodeSize_args rfl rfl
theorem EncodeSize.sand (x : Args) : EncodeSize.Statement (.sand x) := encodeSize_args rfl rfl
theorem EncodeSize.sor (x : Args) : EncodeSize.Statement (.sor x) := encodeSize_args rfl rfl
theorem EncodeSize.sxor (x : Args) : EncodeSize.Statement (.sxor x) := encodeSize_args rfl rfl
theorem EncodeSize.sshl (x : Args) : EncodeSize.Statement (.sshl x) := encodeSize_args rfl rfl
theorem EncodeSize.sshr (x : Args) : EncodeSize.Statement (.sshr x) := encodeSize_args rfl rfl
theorem EncodeSize.ssra (x : Args) : EncodeSize.Statement (.ssra x) := encodeSize_args rfl rfl
theorem EncodeSize.srot (x : Args) : EncodeSize.Statement (.srot x) := encodeSize_args rfl rfl
theorem EncodeSize.smin (x : Args) : EncodeSize.Statement (.smin x) := encodeSize_args rfl rfl
theorem EncodeSize.smax (x : Args) : EncodeSize.Statement (.smax x) := encodeSize_args rfl rfl
theorem EncodeSize.sbfe (x : Args) : EncodeSize.Statement (.sbfe x) := encodeSize_args rfl rfl
theorem EncodeSize.sbfi (x : Args) : EncodeSize.Statement (.sbfi x) := encodeSize_args rfl rfl
theorem EncodeSize.scmp (x : Args) : EncodeSize.Statement (.scmp x) := encodeSize_args rfl rfl
theorem EncodeSize.ssel (x : Args) : EncodeSize.Statement (.ssel x) := encodeSize_args rfl rfl
theorem EncodeSize.qop (x : Args) : EncodeSize.Statement (.qop x) := encodeSize_args rfl rfl
theorem EncodeSize.sadd64 (x : Args) : EncodeSize.Statement (.sadd64 x) := encodeSize_args rfl rfl
theorem EncodeSize.ssub64 (x : Args) : EncodeSize.Statement (.ssub64 x) := encodeSize_args rfl rfl
theorem EncodeSize.smul64 (x : Args) : EncodeSize.Statement (.smul64 x) := encodeSize_args rfl rfl
theorem EncodeSize.sshl64 (x : Args) : EncodeSize.Statement (.sshl64 x) := encodeSize_args rfl rfl
theorem EncodeSize.snot (x : Args) : EncodeSize.Statement (.snot x) := encodeSize_args rfl rfl
theorem EncodeSize.sclz (x : Args) : EncodeSize.Statement (.sclz x) := encodeSize_args rfl rfl
theorem EncodeSize.spop (x : Args) : EncodeSize.Statement (.spop x) := encodeSize_args rfl rfl
theorem EncodeSize.smov (x : Args) : EncodeSize.Statement (.smov x) := encodeSize_args rfl rfl
theorem EncodeSize.saddi (x : Args) : EncodeSize.Statement (.saddi x) := encodeSize_args rfl rfl
theorem EncodeSize.smovi (x : Args) : EncodeSize.Statement (.smovi x) := encodeSize_args rfl rfl
theorem EncodeSize.smovh (x : Args) : EncodeSize.Statement (.smovh x) := encodeSize_args rfl rfl
theorem EncodeSize.srds (x : Args) : EncodeSize.Statement (.srds x) := encodeSize_args rfl rfl
theorem EncodeSize.swrs (x : Args) : EncodeSize.Statement (.swrs x) := encodeSize_args rfl rfl
theorem EncodeSize.lbind (x : Args) : EncodeSize.Statement (.lbind x) := encodeSize_args rfl rfl
theorem EncodeSize.lset (x : Args) : EncodeSize.Statement (.lset x) := encodeSize_args rfl rfl
theorem EncodeSize.lqry (x : Args) : EncodeSize.Statement (.lqry x) := encodeSize_args rfl rfl
theorem EncodeSize.xset (x : Args) : EncodeSize.Statement (.xset x) := encodeSize_args rfl rfl
theorem EncodeSize.rgn (regs : List (BitVec 8)) : EncodeSize.Statement (.rgn regs) := encodeSize_region regs
theorem EncodeSize.chcfg (x : Args) : EncodeSize.Statement (.chcfg x) := encodeSize_args rfl rfl
theorem EncodeSize.enq (x : Args) : EncodeSize.Statement (.enq x) := encodeSize_args rfl rfl
theorem EncodeSize.join (x : Args) : EncodeSize.Statement (.join x) := encodeSize_args rfl rfl
theorem EncodeSize.joinImmediateMask (x : Args) : EncodeSize.Statement (.joinImmediateMask x) := encodeSize_args rfl rfl
theorem EncodeSize.drain (x : Args) : EncodeSize.Statement (.drain x) := encodeSize_args rfl rfl
theorem EncodeSize.fence (x : Args) : EncodeSize.Statement (.fence x) := encodeSize_args rfl rfl
theorem EncodeSize.chstat (x : Args) : EncodeSize.Statement (.chstat x) := encodeSize_args rfl rfl
theorem EncodeSize.bari (x : Args) : EncodeSize.Statement (.bari x) := encodeSize_args rfl rfl
theorem EncodeSize.bara (x : Args) : EncodeSize.Statement (.bara x) := encodeSize_args rfl rfl
theorem EncodeSize.barw (x : Args) : EncodeSize.Statement (.barw x) := encodeSize_args rfl rfl
theorem EncodeSize.barx (x : Args) : EncodeSize.Statement (.barx x) := encodeSize_args rfl rfl
theorem EncodeSize.kick (x : Args) : EncodeSize.Statement (.kick x) := encodeSize_args rfl rfl
theorem EncodeSize.qcnt (x : Args) : EncodeSize.Statement (.qcnt x) := encodeSize_args rfl rfl
theorem EncodeSize.mopf (x : Args) : EncodeSize.Statement (.mopf x) := encodeSize_args rfl rfl
theorem EncodeSize.mwait (x : Args) : EncodeSize.Statement (.mwait x) := encodeSize_args rfl rfl
theorem EncodeSize.mqry (x : Args) : EncodeSize.Statement (.mqry x) := encodeSize_args rfl rfl
theorem EncodeSize.pipeArbitration (core pipe : Nat) : EncodeSize.Statement (.pipeArbitration core pipe) := encodeSize_event rfl
theorem EncodeSize.regionLoadComplete (u : UnitRef) : EncodeSize.Statement (.regionLoadComplete u) := encodeSize_event rfl
theorem EncodeSize.regionReload (u : UnitRef) : EncodeSize.Statement (.regionReload u) := encodeSize_event rfl
theorem EncodeSize.gateQuiesceEnd (u : UnitRef) : EncodeSize.Statement (.gateQuiesceEnd u) := encodeSize_event rfl
theorem EncodeSize.gretQuiesceEnd (u : UnitRef) : EncodeSize.Statement (.gretQuiesceEnd u) := encodeSize_event rfl
theorem EncodeSize.sleepExpiry (u : UnitRef) : EncodeSize.Statement (.sleepExpiry u) := encodeSize_event rfl
theorem EncodeSize.taskPop (g : GKey) : EncodeSize.Statement (.taskPop g) := encodeSize_event rfl
theorem EncodeSize.memDataReturn (id : Nat) : EncodeSize.Statement (.memDataReturn id) := encodeSize_event rfl
theorem EncodeSize.tableWalkComplete (u : UnitRef) : EncodeSize.Statement (.tableWalkComplete u) := encodeSize_event rfl
theorem EncodeSize.accessPerformed (id : Nat) : EncodeSize.Statement (.accessPerformed id) := encodeSize_event rfl
theorem EncodeSize.ackReceived (key : ChanKey) (ack : Nat) : EncodeSize.Statement (.ackReceived key ack) := encodeSize_event rfl
theorem EncodeSize.windowResume (u : UnitRef) : EncodeSize.Statement (.windowResume u) := encodeSize_event rfl
theorem EncodeSize.replySlotResume (u : UnitRef) : EncodeSize.Statement (.replySlotResume u) := encodeSize_event rfl
theorem EncodeSize.channelTableResume (u : UnitRef) : EncodeSize.Statement (.channelTableResume u) := encodeSize_event rfl
theorem EncodeSize.requestEntryResume (u : UnitRef) : EncodeSize.Statement (.requestEntryResume u) := encodeSize_event rfl
theorem EncodeSize.releaseIssue (u : UnitRef) : EncodeSize.Statement (.releaseIssue u) := encodeSize_event rfl
theorem EncodeSize.joinHeldRelease (id : Nat) : EncodeSize.Statement (.joinHeldRelease id) := encodeSize_event rfl
theorem EncodeSize.joinPendingResume (u : UnitRef) : EncodeSize.Statement (.joinPendingResume u) := encodeSize_event rfl
theorem EncodeSize.drainCompletion (u : UnitRef) : EncodeSize.Statement (.drainCompletion u) := encodeSize_event rfl
theorem EncodeSize.fenceCompletion (u : UnitRef) : EncodeSize.Statement (.fenceCompletion u) := encodeSize_event rfl
theorem EncodeSize.tick : EncodeSize.Statement .tick := encodeSize_event rfl
theorem EncodeSize.ldfeWake (u : UnitRef) : EncodeSize.Statement (.ldfeWake u) := encodeSize_event rfl
theorem EncodeSize.baraArrival (u : UnitRef) : EncodeSize.Statement (.baraArrival u) := encodeSize_event rfl
theorem EncodeSize.barwWake (u : UnitRef) : EncodeSize.Statement (.barwWake u) := encodeSize_event rfl
theorem EncodeSize.popqWake (u : UnitRef) : EncodeSize.Statement (.popqWake u) := encodeSize_event rfl
theorem EncodeSize.pushqWake (u : UnitRef) : EncodeSize.Statement (.pushqWake u) := encodeSize_event rfl
theorem EncodeSize.chcfgWake (u : UnitRef) : EncodeSize.Statement (.chcfgWake u) := encodeSize_event rfl
theorem EncodeSize.lbindSlotWrite (u : UnitRef) : EncodeSize.Statement (.lbindSlotWrite u) := encodeSize_event rfl
theorem EncodeSize.enqAtomicStep (u : UnitRef) : EncodeSize.Statement (.enqAtomicStep u) := encodeSize_event rfl
theorem EncodeSize.kickQueuePlace (u : UnitRef) : EncodeSize.Statement (.kickQueuePlace u) := encodeSize_event rfl
theorem EncodeSize.copyRequestStart (core id : Nat) : EncodeSize.Statement (.copyRequestStart core id) := encodeSize_event rfl
theorem EncodeSize.copySegmentMove (core id : Nat) : EncodeSize.Statement (.copySegmentMove core id) := encodeSize_event rfl
theorem EncodeSize.copySegmentPerformed (core id : Nat) : EncodeSize.Statement (.copySegmentPerformed core id) := encodeSize_event rfl
theorem EncodeSize.matrixQueuePlace (u : UnitRef) : EncodeSize.Statement (.matrixQueuePlace u) := encodeSize_event rfl
theorem EncodeSize.matrixInstructionStart (core ctx id : Nat) : EncodeSize.Statement (.matrixInstructionStart core ctx id) := encodeSize_event rfl
theorem EncodeSize.tileStep (core ctx : Nat) : EncodeSize.Statement (.tileStep core ctx) := encodeSize_event rfl
theorem EncodeSize.matrixInstructionCompletion (core ctx id : Nat) : EncodeSize.Statement (.matrixInstructionCompletion core ctx id) := encodeSize_event rfl
theorem EncodeSize.matrixTransferCompletion (core ctx id : Nat) : EncodeSize.Statement (.matrixTransferCompletion core ctx id) := encodeSize_event rfl
theorem EncodeSize.mopfComplete (u : UnitRef) : EncodeSize.Statement (.mopfComplete u) := encodeSize_event rfl
theorem EncodeSize.mwaitComplete (u : UnitRef) : EncodeSize.Statement (.mwaitComplete u) := encodeSize_event rfl
theorem EncodeSize.matrixStreamCommandStart (part bundle sub : Nat) : EncodeSize.Statement (.matrixStreamCommandStart part bundle sub) := encodeSize_event rfl
theorem EncodeSize.waitLimitTimeout (w : Waiter) : EncodeSize.Statement (.waitLimitTimeout w) := encodeSize_event rfl
theorem EncodeSize.commandClaim (core part queue : Nat) : EncodeSize.Statement (.commandClaim core part queue) := encodeSize_event rfl
theorem EncodeSize.queueTailPoll (core part queue : Nat) : EncodeSize.Statement (.queueTailPoll core part queue) := encodeSize_event rfl
theorem EncodeSize.bundle (part queue : Nat) : EncodeSize.Statement (.bundle part queue) := encodeSize_event rfl
theorem EncodeSize.pin (part queue : Nat) : EncodeSize.Statement (.pin part queue) := encodeSize_event rfl
theorem EncodeSize.unpin (part queue : Nat) : EncodeSize.Statement (.unpin part queue) := encodeSize_event rfl
theorem EncodeSize.waitCmd (part queue : Nat) : EncodeSize.Statement (.waitCmd part queue) := encodeSize_event rfl
theorem EncodeSize.waitSemaphoreReread (part queue : Nat) : EncodeSize.Statement (.waitSemaphoreReread part queue) := encodeSize_event rfl
theorem EncodeSize.signal (part queue : Nat) : EncodeSize.Statement (.signal part queue) := encodeSize_event rfl
theorem EncodeSize.notify (part queue : Nat) : EncodeSize.Statement (.notify part queue) := encodeSize_event rfl
theorem EncodeSize.bundleRetire (part bundle : Nat) : EncodeSize.Statement (.bundleRetire part bundle) := encodeSize_event rfl
theorem EncodeSize.teamDraw (core part grid count : Nat) : EncodeSize.Statement (.teamDraw core part grid count) := encodeSize_event rfl
theorem EncodeSize.scoreboardReread (core : Nat) : EncodeSize.Statement (.scoreboardReread core) := encodeSize_event rfl
theorem EncodeSize.teamRelease (part grid team : Nat) : EncodeSize.Statement (.teamRelease part grid team) := encodeSize_event rfl
theorem EncodeSize.pilotHeartbeat (core : Nat) : EncodeSize.Statement (.pilotHeartbeat core) := encodeSize_event rfl
theorem EncodeSize.preemptionStarvationTimeout (core part grid : Nat) : EncodeSize.Statement (.preemptionStarvationTimeout core part grid) := encodeSize_event rfl
theorem EncodeSize.preemptionTakesEffect (stream : Nat) : EncodeSize.Statement (.preemptionTakesEffect stream) := encodeSize_event rfl
theorem EncodeSize.saveImageComplete (stream : Nat) : EncodeSize.Statement (.saveImageComplete stream) := encodeSize_event rfl
theorem EncodeSize.teamRestore (core stream : Nat) : EncodeSize.Statement (.teamRestore core stream) := encodeSize_event rfl
theorem EncodeSize.teamRetirement (stream : Nat) : EncodeSize.Statement (.teamRetirement stream) := encodeSize_event rfl
theorem EncodeSize.doorbell (vf : Nat) (value : Word) : EncodeSize.Statement (.doorbell vf value) := encodeSize_event rfl
theorem EncodeSize.registerWrite (w : RegWrite) : EncodeSize.Statement (.registerWrite w) := encodeSize_event rfl
theorem EncodeSize.inboundMemoryWrite (r : HostReq) : EncodeSize.Statement (.inboundMemoryWrite r) := encodeSize_event rfl
theorem EncodeSize.writePartRelease (id part : Nat) : EncodeSize.Statement (.writePartRelease id part) := encodeSize_event rfl
theorem EncodeSize.writePartAcknowledge (id part : Nat) : EncodeSize.Statement (.writePartAcknowledge id part) := encodeSize_event rfl
theorem EncodeSize.inboundMemoryRead (r : HostReq) : EncodeSize.Statement (.inboundMemoryRead r) := encodeSize_event rfl
theorem EncodeSize.inboundAtomicop (r : HostReq) : EncodeSize.Statement (.inboundAtomicop r) := encodeSize_event rfl
theorem EncodeSize.outboundCompletion (id : Nat) (status : Nat) (data : List Byte) (poison : Bool) : EncodeSize.Statement (.outboundCompletion id status data poison) := encodeSize_event rfl
theorem EncodeSize.completionTimeout (id : Nat) : EncodeSize.Statement (.completionTimeout id) := encodeSize_event rfl
theorem EncodeSize.surpriseDown : EncodeSize.Statement .surpriseDown := encodeSize_event rfl
theorem EncodeSize.hotReset : EncodeSize.Statement .hotReset := encodeSize_event rfl
theorem EncodeSize.powerGood : EncodeSize.Statement .powerGood := encodeSize_event rfl
theorem EncodeSize.createPartition (desc : DWord) : EncodeSize.Statement (.createPartition desc) := encodeSize_event rfl
theorem EncodeSize.destroyPartition (desc : DWord) : EncodeSize.Statement (.destroyPartition desc) := encodeSize_event rfl
theorem EncodeSize.createQueue (desc : DWord) : EncodeSize.Statement (.createQueue desc) := encodeSize_event rfl
theorem EncodeSize.preempt (desc : DWord) : EncodeSize.Statement (.preempt desc) := encodeSize_event rfl
theorem EncodeSize.installGate (desc : DWord) : EncodeSize.Statement (.installGate desc) := encodeSize_event rfl
theorem EncodeSize.writeSegment (desc : DWord) : EncodeSize.Statement (.writeSegment desc) := encodeSize_event rfl
theorem EncodeSize.writePeer (desc : DWord) : EncodeSize.Statement (.writePeer desc) := encodeSize_event rfl
theorem EncodeSize.writeTrust (desc : DWord) : EncodeSize.Statement (.writeTrust desc) := encodeSize_event rfl
theorem EncodeSize.rekey (desc : DWord) : EncodeSize.Statement (.rekey desc) := encodeSize_event rfl
theorem EncodeSize.getReport (desc : DWord) : EncodeSize.Statement (.getReport desc) := encodeSize_event rfl
theorem EncodeSize.getCerts (desc : DWord) : EncodeSize.Statement (.getCerts desc) := encodeSize_event rfl
theorem EncodeSize.readErrors (desc : DWord) : EncodeSize.Statement (.readErrors desc) := encodeSize_event rfl
theorem EncodeSize.resetQueue (desc : DWord) : EncodeSize.Statement (.resetQueue desc) := encodeSize_event rfl
theorem EncodeSize.restartPilot (desc : DWord) : EncodeSize.Statement (.restartPilot desc) := encodeSize_event rfl
theorem EncodeSize.resetPartition (desc : DWord) : EncodeSize.Statement (.resetPartition desc) := encodeSize_event rfl
theorem EncodeSize.warmReset (desc : DWord) : EncodeSize.Statement (.warmReset desc) := encodeSize_event rfl
theorem EncodeSize.readLinks (desc : DWord) : EncodeSize.Statement (.readLinks desc) := encodeSize_event rfl
theorem EncodeSize.readHealth (desc : DWord) : EncodeSize.Statement (.readHealth desc) := encodeSize_event rfl
theorem EncodeSize.writeConfig (desc : DWord) : EncodeSize.Statement (.writeConfig desc) := encodeSize_event rfl
theorem EncodeSize.domainCopy (desc : DWord) : EncodeSize.Statement (.domainCopy desc) := encodeSize_event rfl
theorem EncodeSize.pwrLimitWrite (value : Word) : EncodeSize.Statement (.pwrLimitWrite value) := encodeSize_event rfl
theorem EncodeSize.eolThresholdWrite (value : Word) : EncodeSize.Statement (.eolThresholdWrite value) := encodeSize_event rfl
theorem EncodeSize.powerControlSample (mw : Nat) (hot : Bool) : EncodeSize.Statement (.powerControlSample mw hot) := encodeSize_event rfl
theorem EncodeSize.healthSample (readings : List MonitorReading) : EncodeSize.Statement (.healthSample readings) := encodeSize_event rfl
theorem EncodeSize.planeLost (lane : Nat) : EncodeSize.Statement (.planeLost lane) := encodeSize_event rfl
theorem EncodeSize.eccErrorDetected (e : EccEvent) : EncodeSize.Statement (.eccErrorDetected e) := encodeSize_event rfl
theorem EncodeSize.frameTransmit (dest vc : Nat) : EncodeSize.Statement (.frameTransmit dest vc) := encodeSize_event rfl
theorem EncodeSize.frameReceived (lane : Nat) (f : Frame) : EncodeSize.Statement (.frameReceived lane f) := encodeSize_event rfl
theorem EncodeSize.nackReceived (src : Nat) (p : Packet) : EncodeSize.Statement (.nackReceived src p) := encodeSize_event rfl
theorem EncodeSize.noRoomRetry (key : ChanKey) : EncodeSize.Statement (.noRoomRetry key) := encodeSize_event rfl
theorem EncodeSize.resyncTimeout (key : ChanKey) : EncodeSize.Statement (.resyncTimeout key) := encodeSize_event rfl
theorem EncodeSize.resync (src : Nat) (p : Packet) : EncodeSize.Statement (.resync src p) := encodeSize_event rfl
theorem EncodeSize.resyncReply (src : Nat) (p : Packet) : EncodeSize.Statement (.resyncReply src p) := encodeSize_event rfl
theorem EncodeSize.resyncRetry (key : ChanKey) : EncodeSize.Statement (.resyncRetry key) := encodeSize_event rfl
theorem EncodeSize.responseTimeout (id : Nat) : EncodeSize.Statement (.responseTimeout id) := encodeSize_event rfl
theorem EncodeSize.keyStateIdleDrop (key : SeqKey) : EncodeSize.Statement (.keyStateIdleDrop key) := encodeSize_event rfl
theorem EncodeSize.linkAckReceived (lane seq : Nat) : EncodeSize.Statement (.linkAckReceived lane seq) := encodeSize_event rfl
theorem EncodeSize.linkNackReceived (lane : Nat) : EncodeSize.Statement (.linkNackReceived lane) := encodeSize_event rfl
theorem EncodeSize.linkAckTimeout (lane : Nat) : EncodeSize.Statement (.linkAckTimeout lane) := encodeSize_event rfl
theorem EncodeSize.laneDownSignal (lane : Nat) : EncodeSize.Statement (.laneDownSignal lane) := encodeSize_event rfl
theorem EncodeSize.laneRetrain (lane : Nat) (ok : Bool) : EncodeSize.Statement (.laneRetrain lane ok) := encodeSize_event rfl
theorem EncodeSize.planeRejoin (lane : Nat) : EncodeSize.Statement (.planeRejoin lane) := encodeSize_event rfl
theorem EncodeSize.planeUnreachableNotice (lane dest : Nat) : EncodeSize.Statement (.planeUnreachableNotice lane dest) := encodeSize_event rfl
theorem EncodeSize.planeProbe (lane dest : Nat) (ok : Bool) : EncodeSize.Statement (.planeProbe lane dest ok) := encodeSize_event rfl
theorem EncodeSize.livenessFrame (peer : Nat) : EncodeSize.Statement (.livenessFrame peer) := encodeSize_event rfl
theorem EncodeSize.peerLossTimeout (peer : Nat) : EncodeSize.Statement (.peerLossTimeout peer) := encodeSize_event rfl
theorem EncodeSize.kx1 (peer : Nat) (m : KxMessage) : EncodeSize.Statement (.kx1 peer m) := encodeSize_event rfl
theorem EncodeSize.kx2 (peer : Nat) (m : KxMessage) : EncodeSize.Statement (.kx2 peer m) := encodeSize_event rfl
theorem EncodeSize.kx3 (peer : Nat) (m : KxMessage) : EncodeSize.Statement (.kx3 peer m) := encodeSize_event rfl
theorem EncodeSize.keyHandshakeTimeout (peer : Nat) : EncodeSize.Statement (.keyHandshakeTimeout peer) := encodeSize_event rfl
theorem EncodeSize.handshakeRetry (peer : Nat) : EncodeSize.Statement (.handshakeRetry peer) := encodeSize_event rfl
theorem EncodeSize.previousEpochExpiry (peer : Nat) : EncodeSize.Statement (.previousEpochExpiry peer) := encodeSize_event rfl
theorem EncodeSize.engineStopRecord (core engine : Nat) : EncodeSize.Statement (.engineStopRecord core engine) := encodeSize_event rfl
theorem EncodeSize.ideKm (fn : Nat) (key : BitVec 256) : EncodeSize.Statement (.ideKm fn key) := encodeSize_event rfl
theorem EncodeSize.hostLinkReturn : EncodeSize.Statement .hostLinkReturn := encodeSize_event rfl
theorem EncodeSize.creditGrant (lane vc flits : Nat) : EncodeSize.Statement (.creditGrant lane vc flits) := encodeSize_event rfl
theorem EncodeSize.powerGoodRemoval : EncodeSize.Statement .powerGoodRemoval := encodeSize_event rfl
theorem EncodeSize.bootStepComplete (ok : Bool) : EncodeSize.Statement (.bootStepComplete ok) := encodeSize_event rfl

end Sys2Proof.Laws
end

