-- ==== Sys2Proof/Tests/Slice0.lean ====
section
/-! SUPPORT. Tests/Slice0.lean: the author's own tests: ill-formed terms that the checks refuse, words of the spec that decode to what
they stand for, small steps, and for every statement with hypotheses a state and operands that meet them. -/

namespace Sys2Proof.Tests

open Sys2Proof.Machine

set_option Elab.async false

theorem test_reset_memory : Sys2Proof.Machine.State.reset.mem.wf = true := by decide

/-! ### Checks that refuse, and words that decode -/

/-! ### WellFormed: each check refuses an ill-formed term (09 R201, Table 66) -/

theorem test_illformed_long_only : (Instr.isel {}).error = some .longOnly := by decide
theorem test_illformed_guard : (Instr.iadd { long := true, gp := 48 }).error = some .guard := by decide
theorem test_illformed_guard_always_false : (Instr.sadd { long := true, gp := 63, gn := true }).error = some .guard := by decide
theorem test_illformed_guard_of_immediate : (Instr.imovi { gp := 0 }).error = some .guard := by decide
theorem test_illformed_modifier : (Instr.iand { long := true, q := 0x10 }).error = some .modifier := by decide
theorem test_illformed_mode : (Instr.imad { long := true, q := 1 }).error = some .modifier := by decide
theorem test_illformed_sub : (Instr.iadd { long := true, sub := 1 }).error = some .reserved := by decide
theorem test_illformed_immediate : (Instr.imovi { b := 8 }).error = some .immediate := by decide
theorem test_illformed_register : (Instr.sadd { long := true, d := 128 }).error = some .registerClass := by decide
theorem test_illformed_pair : (Instr.sadd64 { d := 1 }).error = some .registerClass := by decide
theorem test_illformed_qualifier : (Instr.ld { long := true, q := 0x70, c := 0xF0 }).error = some .reserved := by decide
theorem test_illformed_header : (Instr.clh { len := 25 }).error = some .header := by decide
theorem test_illformed_header_sets : (Instr.clh { seta := 3, setb := 3 }).error = some .header := by decide
theorem test_illformed_branch_predicate : (Instr.brq { pn := 16 }).error = some .registerClass := by decide
theorem test_illformed_branch_token : (Instr.brq { token := 1 }).error = some .reserved := by decide
theorem test_illformed_branch_offset : (Instr.brd { off := 0x200 }).error = some .immediate := by decide
theorem test_illformed_region : (Instr.rgn [1, 1]).error = some .region := by decide
theorem test_illformed_event : ¬ Instr.tick.WellFormed := fun h => absurd h.1 (by decide)

/-! ### Decoding: one word of every row, laid out by the formats of 09 (Tables 52 to 59) and the opcodes of the table -/

/-- Words that the spec writes out: 09 (FADD.RZ, IADD with a cross-lane source), 11 (Tables 86 and 88), 12, 13, 21, 24, 25. -/
theorem test_words_of_the_spec : ∀ p ∈ ([
    (64, 0x0308048C7E003F03, .iadd { long := true, q := 3, d := 3, a := 8, b := 4, c := 0x8C }),
    (32, 0x6400000F, .pxor {}),
    (32, 0x0410002F, .iadds { d := 4, b := 2 }),
    (32, 0x0414083F, .iadds { d := 5, a := 1, b := 3 }),
    (64, 0x05026A007F403F00, .cvt { long := true, d := 5, a := 2, b := 0x6A }),
    (32, 0x6E08088F, .xred { d := 2, a := 1, sub := 8 }),
    (32, 0x700C098F, .xscanEx { d := 3, a := 1, sub := 8 }),
    (32, 0x6A10089F, .xshf { d := 4, a := 1, b := 9 }),
    (32, 0x6E140881, .xred { gp := 1, d := 5, a := 1, sub := 8 }),
    (64, 0x060165037FC97F30, .atom { long := true, q := 0x30, d := 6, a := 1, b := 0x65, c := 3 }),
    (64, 0x030202F27FC84340, .st { long := true, gp := 3, q := 0x40, d := 3, a := 2, b := 2, c := 0xF2 }),
    (64, 0x030101F07FC83F40, .ld { long := true, q := 0x40, d := 3, a := 1, b := 1, c := 0xF0 }),
    (64, 0x280000107FD83F04, .mloop { long := true, q := 4, d := 0x28, c := 0x10 }),
    (64, 0x280000107FD83F3C, .mloop { long := true, q := 0x3C, d := 0x28, c := 0x10 }),
    (64, 0x000000187FD93F08, .mdrn { long := true, q := 8, c := 0x18 }),
    (32, 0xEE00000F, .mopf {}),
    (32, 0xEE00001F, .mwait {})] : List (Nat × Nat × Instr)), decodeTableWord p.1 p.2.1 = some p.2.2 := by decide +kernel

/-- Words that break a rule of Table 66. -/
theorem test_words_refused : ∀ p ∈ ([(32, 0x28000000), (64, 0x7E003000), (32, 0x80000000), (32, 0xFFFFFFFF), (64, 0x010000007FC83F70)] :
    List (Nat × Nat)), decodeTableWord p.1 p.2 = none := by decide +kernel

theorem test_decode_integers_1 : ∀ p ∈ ([
    (32, 0x0018104F, .iadd { d := 6, a := 2, b := 4 }),
    (32, 0x0218104F, .isub { d := 6, a := 2, b := 4 }),
    (32, 0x0418104F, .iadds { d := 6, a := 2, b := 4 }),
    (32, 0x0618104F, .imul { d := 6, a := 2, b := 4 }),
    (32, 0x0818104F, .imulh { d := 6, a := 2, b := 4 }),
    (32, 0x0A18104F, .imad { d := 6, a := 2, b := 4 }),
    (32, 0x0C18104F, .imadw { d := 6, a := 2, b := 4 }),
    (32, 0x0E18104F, .imin { d := 6, a := 2, b := 4 }),
    (32, 0x1018104F, .imax { d := 6, a := 2, b := 4 }),
    (32, 0x1218104F, .iand { d := 6, a := 2, b := 4 }),
    (32, 0x1418104F, .ior { d := 6, a := 2, b := 4 }),
    (32, 0x1618104F, .ixor { d := 6, a := 2, b := 4 }),
    (32, 0x1818104F, .ishl { d := 6, a := 2, b := 4 }),
    (32, 0x1A18104F, .ishr { d := 6, a := 2, b := 4 }),
    (32, 0x1C18104F, .isra { d := 6, a := 2, b := 4 }),
    (32, 0x1E18104F, .irot { d := 6, a := 2, b := 4 }),
    (32, 0x2018104F, .ibfe { d := 6, a := 2, b := 4 }),
    (32, 0x2218104F, .ibfi { d := 6, a := 2, b := 4 }),
    (32, 0x2418104F, .iprm { d := 6, a := 2, b := 4 }),
    (32, 0x26D8104F, .icmp { d := 6, a := 2, b := 4, sub := 3 }),
    (32, 0x2A18100F, .iabs { d := 6, a := 2 }),
    (32, 0x2A18101F, .ineg { d := 6, a := 2 }),
    (32, 0x2A18102F, .inot { d := 6, a := 2 }),
    (32, 0x2A18103F, .iclz { d := 6, a := 2 })] : List (Nat × Nat × Instr)), decodeTableWord p.1 p.2.1 = some p.2.2 := by decide +kernel

theorem test_decode_integers_2 : ∀ p ∈ ([
    (32, 0x2A18104F, .ipop { d := 6, a := 2 }),
    (32, 0x2A18105F, .ibrev { d := 6, a := 2 }),
    (32, 0x2A18106F, .mov { d := 6, a := 2 }),
    (32, 0x2A18007F, .lid { d := 6 }),
    (32, 0x2C1807FF, .imovi { d := 6, b := 7, c := 255 }),
    (32, 0x2E1807FF, .imovh { d := 6, b := 7, c := 255 }),
    (32, 0x3020104F, .movx { d := 8, a := 2, b := 4 })] : List (Nat × Nat × Instr)), decodeTableWord p.1 p.2.1 = some p.2.2 := by decide +kernel

theorem test_decode_floats_1 : ∀ p ∈ ([
    (32, 0x3218104F, .fadd { d := 6, a := 2, b := 4 }),
    (32, 0x3418104F, .fsub { d := 6, a := 2, b := 4 }),
    (32, 0x3618104F, .fmul { d := 6, a := 2, b := 4 }),
    (32, 0x3818104F, .ffma { d := 6, a := 2, b := 4 }),
    (32, 0x3A18104F, .fmin { d := 6, a := 2, b := 4 }),
    (32, 0x3C18104F, .fmax { d := 6, a := 2, b := 4 }),
    (32, 0x3ED8104F, .fcmp { d := 6, a := 2, b := 4, sub := 3 }),
    (32, 0x4018104F, .fdiv { d := 6, a := 2, b := 4 }),
    (32, 0x4218100F, .frcp { d := 6, a := 2 }),
    (32, 0x4218101F, .frsq { d := 6, a := 2 }),
    (32, 0x4218102F, .fsqrt { d := 6, a := 2 }),
    (32, 0x4218103F, .fexp2 { d := 6, a := 2 }),
    (32, 0x4218104F, .flog2 { d := 6, a := 2 }),
    (32, 0x4218105F, .fsin { d := 6, a := 2 }),
    (32, 0x4218106F, .fcos { d := 6, a := 2 }),
    (32, 0x4218107F, .frnd { d := 6, a := 2 }),
    (32, 0x4218108F, .fcls { d := 6, a := 2 }),
    (32, 0x4418104F, .hadd2 { d := 6, a := 2, b := 4 }),
    (32, 0x4618104F, .hmul2 { d := 6, a := 2, b := 4 }),
    (32, 0x4818104F, .hfma2 { d := 6, a := 2, b := 4 }),
    (32, 0x4A18104F, .dadd { d := 6, a := 2, b := 4 }),
    (32, 0x4C18104F, .dmul { d := 6, a := 2, b := 4 }),
    (32, 0x4E18104F, .dfma { d := 6, a := 2, b := 4 }),
    (32, 0x5218104F, .pack { d := 6, a := 2, b := 4 })] : List (Nat × Nat × Instr)), decodeTableWord p.1 p.2.1 = some p.2.2 := by decide +kernel

theorem test_decode_floats_2 : ∀ p ∈ ([
    (32, 0x5418104F, .unpk { d := 6, a := 2, b := 4 }),
    (32, 0x5618104F, .idp4 { d := 6, a := 2, b := 4 }),
    (32, 0x5818104F, .idp8 { d := 6, a := 2, b := 4 }),
    (32, 0x5A18104F, .fdp4 { d := 6, a := 2, b := 4 }),
    (32, 0x5C18104F, .fdp2 { d := 6, a := 2, b := 4 }),
    (32, 0x5E18104F, .scl { d := 6, a := 2, b := 4 })] : List (Nat × Nat × Instr)), decodeTableWord p.1 p.2.1 = some p.2.2 := by decide +kernel

theorem test_decode_predicates_and_cross_lane : ∀ p ∈ ([
    (32, 0x6018104F, .pand { d := 6, a := 2, b := 4 }),
    (32, 0x6218104F, .por { d := 6, a := 2, b := 4 }),
    (32, 0x6418104F, .pxor { d := 6, a := 2, b := 4 }),
    (32, 0x6618100F, .pmov { d := 6, a := 2 }),
    (32, 0x6618101F, .pnot { d := 6, a := 2 }),
    (32, 0x6818104F, .xld { d := 6, a := 2, b := 4 }),
    (32, 0x6A18104F, .xshf { d := 6, a := 2, b := 4 }),
    (32, 0x6C18100F, .xbal { d := 6, a := 2 }),
    (32, 0x6C18101F, .xany { d := 6, a := 2 }),
    (32, 0x6C18102F, .xall { d := 6, a := 2 }),
    (32, 0x6E18108F, .xred { d := 6, a := 2, sub := 8 }),
    (32, 0x7018108F, .xscan { d := 6, a := 2, sub := 8 }),
    (32, 0x7018118F, .xscanEx { d := 6, a := 2, sub := 8 })] : List (Nat × Nat × Instr)), decodeTableWord p.1 p.2.1 = some p.2.2 := by decide +kernel

theorem test_decode_control : ∀ p ∈ ([
    (32, 0x8C00000F, .nop {}),
    (32, 0x8C00101F, .ret { a := 2 }),
    (32, 0x8C00002F, .exit {}),
    (32, 0x8C00003F, .tret {}),
    (32, 0x8C00004F, .gret {}),
    (32, 0x8C00005F, .halt {}),
    (32, 0x8C00106F, .sleep { a := 2 }),
    (32, 0x8C00107F, .brx { a := 2 }),
    (32, 0x8C00108F, .gateRegister { a := 2 }),
    (32, 0x8E000005, .wpt { c := 5 }),
    (32, 0x90000005, .trap { c := 5 }),
    (32, 0x92000005, .gate { c := 5 })] : List (Nat × Nat × Instr)), decodeTableWord p.1 p.2.1 = some p.2.2 := by decide +kernel

theorem test_decode_uniform_1 : ∀ p ∈ ([
    (32, 0x9418104F, .sadd { d := 6, a := 2, b := 4 }),
    (32, 0x9618104F, .ssub { d := 6, a := 2, b := 4 }),
    (32, 0x9818104F, .smul { d := 6, a := 2, b := 4 }),
    (32, 0x9A18104F, .smulh { d := 6, a := 2, b := 4 }),
    (32, 0x9C18104F, .smad { d := 6, a := 2, b := 4 }),
    (32, 0x9E18104F, .sdiv { d := 6, a := 2, b := 4 }),
    (32, 0xA018104F, .srem { d := 6, a := 2, b := 4 }),
    (32, 0xA218104F, .sand { d := 6, a := 2, b := 4 }),
    (32, 0xA418104F, .sor { d := 6, a := 2, b := 4 }),
    (32, 0xA618104F, .sxor { d := 6, a := 2, b := 4 }),
    (32, 0xA818104F, .sshl { d := 6, a := 2, b := 4 }),
    (32, 0xAA18104F, .sshr { d := 6, a := 2, b := 4 }),
    (32, 0xAC18104F, .ssra { d := 6, a := 2, b := 4 }),
    (32, 0xAE18104F, .srot { d := 6, a := 2, b := 4 }),
    (32, 0xB018104F, .smin { d := 6, a := 2, b := 4 }),
    (32, 0xB218104F, .smax { d := 6, a := 2, b := 4 }),
    (32, 0xB418104F, .sbfe { d := 6, a := 2, b := 4 }),
    (32, 0xB618104F, .sbfi { d := 6, a := 2, b := 4 }),
    (32, 0xB8D8104F, .scmp { d := 6, a := 2, b := 4, sub := 3 }),
    (32, 0xBCD8104F, .qop { d := 6, a := 2, b := 4, sub := 3 }),
    (32, 0xBE18104F, .sadd64 { d := 6, a := 2, b := 4 }),
    (32, 0xC018104F, .ssub64 { d := 6, a := 2, b := 4 }),
    (32, 0xC218104F, .smul64 { d := 6, a := 2, b := 4 }),
    (32, 0xC418104F, .sshl64 { d := 6, a := 2, b := 4 })] : List (Nat × Nat × Instr)), decodeTableWord p.1 p.2.1 = some p.2.2 := by decide +kernel

theorem test_decode_uniform_2 : ∀ p ∈ ([
    (32, 0xC618100F, .snot { d := 6, a := 2 }),
    (32, 0xC618101F, .sclz { d := 6, a := 2 }),
    (32, 0xC618102F, .spop { d := 6, a := 2 }),
    (32, 0xC618103F, .smov { d := 6, a := 2 }),
    (32, 0xC81817FF, .saddi { d := 6, a := 2, b := 7, c := 255 }),
    (32, 0xCA1807FF, .smovi { d := 6, b := 7, c := 255 }),
    (32, 0xCC1807FF, .smovh { d := 6, b := 7, c := 255 }),
    (32, 0xCE18001F, .srds { d := 6, c := 31 }),
    (32, 0xD0001017, .swrs { a := 2, c := 23 }),
    (32, 0xD818100F, .xset { d := 6, a := 2 })] : List (Nat × Nat × Instr)), decodeTableWord p.1 p.2.1 = some p.2.2 := by decide +kernel

theorem test_decode_system : ∀ p ∈ ([
    (32, 0xD218100F, .lbind { d := 6, a := 2 }),
    (32, 0xD418104F, .lset { d := 6, a := 2, b := 4 }),
    (32, 0xD618104F, .lqry { d := 6, a := 2, b := 4 }),
    (32, 0xDC18100F, .chcfg { d := 6, a := 2 }),
    (32, 0xDE18104F, .enq { d := 6, a := 2, b := 4 }),
    (32, 0xE018100F, .join { d := 6, a := 2 }),
    (32, 0xE218004F, .drain { d := 6, b := 4 }),
    (32, 0xE400084F, .fence { a := 1, b := 4 }),
    (32, 0xE618101F, .chstat { d := 6, a := 2, b := 1 }),
    (32, 0xE800100F, .bari { a := 2 }),
    (32, 0xE818101F, .bara { d := 6, a := 2 }),
    (32, 0xE800102F, .barw { a := 2 }),
    (32, 0xE800103F, .barx { a := 2 }),
    (32, 0xEA18100F, .kick { d := 6, a := 2 }),
    (32, 0xEC18100F, .qcnt { d := 6, a := 2 }),
    (32, 0xEE00000F, .mopf {}),
    (32, 0xEE00001F, .mwait {}),
    (32, 0xEE18102F, .mqry { d := 6, a := 2 }),
    (64, 0x0F008001FF803F01, .joinImmediateMask { long := true, q := 0x1, d := 15, a := 0, b := 128, c := 1 })] : List (Nat × Nat × Instr)), decodeTableWord p.1 p.2.1 = some p.2.2 := by decide +kernel

theorem test_decode_own_layouts : ∀ p ∈ ([
    (32, 0x81003678, .clh { wait := 0x801, seta := 11, setb := 3, len := 24 }),
    (32, 0x83FF2000, .rep { cnt := 63, sd := 3, sa := 2, sb := 1 }),
    (32, 0x85FFFFFF, .bra 0x1FFFFFF),
    (32, 0x8B000000, .call 0x1000000),
    (32, 0x873E0001, .brq { sense := true, pn := 15, off := 0x20001 }),
    (32, 0x89BFFE01, .brd { sense := true, pn := 47, token := 255, off := 0x3FE01 }),
    (64, 0x802FFFFFFE200580, .brd { long := true, gp := 5, gn := true, sense := true, pn := 0, token := 0x2F, off := 0x3FFFF }),
    (64, 0x00FF0201DA300000, .rgn [1, 2, 255])] : List (Nat × Nat × Instr)), decodeTableWord p.1 p.2.1 = some p.2.2 := by decide +kernel

theorem test_decode_long : ∀ p ∈ ([
    (64, 0xC802042F7EA03F00, .isel { long := true, d := 200, a := 2, b := 4, c := 47 }),
    (64, 0x060238007F403F60, .cvt { long := true, q := 0x60, d := 6, a := 2, b := 56, c := 0 }),
    (64, 0x7F02040FFEE83F00, .ssel { long := true, d := 127, a := 2, b := 4, c := 15 }),
    (64, 0xFA0204FB7EE03F5C, .ffma { long := true, q := 0x5C, d := 250, a := 2, b := 4, c := 251 }),
    (64, 0x2FFF04077E99FF01, .icmp { long := true, sub := 7, q := 0x1, d := 47, a := 255, b := 4, c := 7 })] : List (Nat × Nat × Instr)), decodeTableWord p.1 p.2.1 = some p.2.2 := by decide +kernel

theorem test_decode_memory : ∀ p ∈ ([
    (64, 0x0602BFF07FC83F14, .ld { long := true, q := 0x14, d := 6, a := 2, b := 191, c := 240 }),
    (64, 0x06021FB37FC86FD0, .st { long := true, gp := 47, gn := true, q := 0x50, d := 6, a := 2, b := 31, c := 179 }),
    (64, 0x06021FB07FC8BF51, .ldfe { long := true, q := 0x51, d := 6, a := 2, b := 31, c := 176 }),
    (64, 0x08021FF37FC8FF60, .stfe { long := true, q := 0x60, d := 8, a := 2, b := 31, c := 243 }),
    (64, 0x06021FF37FC93F40, .ldr { long := true, q := 0x40, d := 6, a := 2, b := 31, c := 243 }),
    (64, 0x0602A1F37FC97F79, .atom { long := true, q := 0x79, d := 6, a := 2, b := 161, c := 243 }),
    (64, 0x060281F37FC9BF44, .cas { long := true, q := 0x44, d := 6, a := 2, b := 129, c := 243 }),
    (64, 0x060261F37FC9FF28, .red { long := true, q := 0x28, d := 6, a := 2, b := 97, c := 243 }),
    (64, 0x00021F007FCA3F00, .pref { long := true, d := 0, a := 2, b := 31, c := 0 }),
    (64, 0x00021F007FCA7F00, .invl { long := true, d := 0, a := 2, b := 31, c := 0 })] : List (Nat × Nat × Instr)), decodeTableWord p.1 p.2.1 = some p.2.2 := by decide +kernel

theorem test_decode_queues_and_matrix : ∀ p ∈ ([
    (64, 0x0600072F7FD03F01, .popq { long := true, q := 0x1, d := 6, a := 0, b := 7, c := 47 }),
    (64, 0x0602FF007FD07F02, .pushq { long := true, q := 0x2, d := 6, a := 2, b := 255, c := 0 }),
    (64, 0x060200787FD83F3F, .mloop { long := true, q := 0x3F, d := 6, a := 2, b := 0, c := 120 }),
    (64, 0x06005F087FD87F3C, .mloopj { long := true, q := 0x3C, d := 6, a := 0, b := 95, c := 8 }),
    (64, 0x0000007F7FD8BF2C, .mzero { long := true, q := 0x2C, d := 0, a := 0, b := 0, c := 127 }),
    (64, 0x0000007C7FD8FF3C, .mlda { long := true, q := 0x3C, d := 0, a := 0, b := 0, c := 124 }),
    (64, 0x0000007C7FD93F3C, .mdrn { long := true, q := 0x3C, d := 0, a := 0, b := 0, c := 124 }),
    (64, 0x060000087FD97F3D, .mrsum { long := true, q := 0x3D, d := 6, a := 0, b := 0, c := 8 })] : List (Nat × Nat × Instr)), decodeTableWord p.1 p.2.1 = some p.2.2 := by decide +kernel

/-! ### States and operands that meet the premises of the statements -/

/-- Bytes at places: address, length, value. -/
def put (ws : List (Nat × Nat × Nat)) : List (Nat × Byte) := ws.foldl (fun m w => writeBytes m w.1 w.2.2 w.2.1) []
/-- Tables from 0x1000 that map the first GiB to device DRAM at the same address and the second GiB to host memory at 0, all writable. -/
def tablesA : List (Nat × Nat × Nat) := [(0x1000, 8, 2 ^ 63 + 0x2000), (0x2000, 8, 2 ^ 63 + 0x3000), (0x3000, 8, 0xF2 * 2 ^ 56), (0x3008, 8, 0xF4 * 2 ^ 56)]
def domA : BitVec 512 := BitVec.ofNat 512 (1 + 0xFFFF * 2 ^ 48 + 256 * 2 ^ 64 + 0x1000 * 2 ^ 128 + 1 * 2 ^ 257)
def partA : Partition := { created := true, cores := 1, domains := [(0, domA)] }
def layoutA : BitVec 512 := BitVec.ofNat 512 (1 * 2 ^ 64 + 2 * 2 ^ 70 + 64 * 2 ^ 128 + 4 * 2 ^ 288)
def teamA : Team := { stream := 5, size := 65536, hqs := 0xFF, ceiling := 1024, slots := [(0, layoutA)] }
def groupA : Group := { key := ⟨5, 0⟩, lanes := 32, budget := 64 }
def unitA : MUnit := { mask := 1, st := .issuing, run := { left := 3 } }
def stateA : State := { grp := groupA, team := teamA, cur := unitA, parts := [(0, partA)], cores := [(0, { pilot := true })], mem := { dram := put tablesA } }
def withS (s : State) (l : List (Nat × Word)) : State := { s with grp := { s.grp with r := { s.grp.r with s := l.map fun p => (p.1, ⟨p.2, false⟩) } } }
def parkedA (s : State) (p : Parked) : State := { s with cur := { s.cur with st := .parked p } }
def parkedOf (s : State) : List Parked := (s.cur :: s.grp.units).filterMap fun u => match u.st with | .parked p => some p | _ => none
def u0 : UnitRef := ⟨⟨5,0⟩,0⟩
def fl (ch ser : Nat) : Flight := { id := ser, kind := .store, who := u0, chan := some ch, key := some ⟨5,ch,0⟩, seq := some 0, serial := ser, place := .dram 0x9000, part := 0, data := 5 }
def lyv (space base oob : Nat) : BitVec 512 := BitVec.ofNat 512 (base + 1 * 2 ^ 64 + space * 2^67 + 2 * 2 ^ 70 + oob * 2^73 + 8 * 2 ^ 128 + 16 * 2 ^ 288)
theorem cleanS_of {s : State} {regs : List Nat} (h : (regs.all fun r => !(s.sreg r).poison) = true) : s.CleanS regs :=
  fun r hr => by simpa using List.all_eq_true.1 h r hr
theorem clean_of {s : State} {ls regs : List Nat} (h : (regs.all fun r => ls.all fun l => !(s.vreg l r).poison) = true) : s.Clean ls regs :=
  fun r hr l hl => by simpa using List.all_eq_true.1 (List.all_eq_true.1 h r hr) l hl
theorem free_of {s : State} {regs : List Nat} (h : (regs.all fun r => decide (r < s.budget)) = true) (hi : s.waitsV regs = false) : s.Free regs :=
  ⟨fun r hr => by simpa using List.all_eq_true.1 h r hr, hi⟩
/-- The state in which a unit is in issue, and what it is parked on. -/
def selOf (s : State) (u : UnitRef) : State := (s.select u).getD s
def parkOf (s : State) : Parked := match s.cur.st with | .parked p => p | _ => { why := .walk, instr := .tick, serial := 0 }
theorem issues_of {s : State} {o : MemOp} {x : Args} (h1 : s.slot x.slot ≠ 0) (h2 : s.lanesFor x ≠ [])
    (h3 : ((memRegs o x (s.slot x.slot)).all fun r => decide (r < s.budget)) = true) (h4 : s.waitsV (memRegs o x (s.slot x.slot)) = false)
    (h5 : s.memPoison o x (s.slot x.slot) (s.lanesFor x) = none) (h6 : s.memChecks o x (s.slot x.slot) (s.lanesFor x) false = none)
    (h7 : ((s.lanesFor x).all fun l => match s.lands o x l with | .ok (.found p _ _) => !s.heldBySame p o.w (s.serial + 1) | _ => true) = true) : Issues s o x :=
  ⟨h1, h2, free_of h3 h4, h5, h6, fun l hl p wr l1 h => by simpa [h] using List.all_eq_true.1 h7 l hl⟩
theorem mready_of {s : State} {x : Args} {n v u : List Nat} (h1 : s.inGate = false) (h2 : s.lanesFor x ≠ [])
    (h3 : (n.all fun r => decide (r < s.budget)) = true) (h4 : s.waitsV v = false)
    (h5 : (v.all fun r => (s.lanesFor x).all fun l => !(s.vreg l r).poison) = true) (h6 : (u.all fun r => !(s.sreg r).poison) = true) :
    MatrixReady s x n v u :=
  ⟨h1, h2, fun r hr => by simpa using List.all_eq_true.1 h3 r hr, h4, clean_of h5, cleanS_of h6⟩
theorem runs_of {s : State} {code : Nat} {desc : DWord} {named : List (Nat × Nat)} {d : Nat} (h1 : s.plat.pending = some (code, desc)) (h2 : s.port.up = true)
    (h3 : s.linkOpen 8 = true) (h5 : d = s.mem.readHost desc.toNat 64)
    (h4 : ((List.range 448).all fun b => decide (b < 64) || (named.any fun r => decide (r.1 ≤ b ∧ b < r.1 + r.2)) || !d.testBit b) = true) :
    s.Runs code desc named d := by
  refine ⟨h1, h2, h3, h5, fun b h64 hb hn => ?_⟩
  have h := List.all_eq_true.1 h4 b (List.mem_range.2 hb)
  have hn' : (named.any fun r => decide (r.1 ≤ b ∧ b < r.1 + r.2)) = false := by
    simp only [List.any_eq_false, decide_eq_true_eq]
    intro r hr
    have := hn r hr
    omega
  beta_reduce at h
  rw [hn', decide_eq_false (by omega : ¬ b < 64)] at h
  simpa using h
theorem legal_of {s : State} {y : BitVec 512} (h1 : (y.extractLsb' 448 64 = 0 ∧ y.extractLsb' 96 32 = 0 ∧ y.extractLsb' 47 17 = 0))
    (h2 : s.chanAllowed (y.extractLsb' 42 4).toNat = true)
    (h3 : sget 0 s.team.slots (y.extractLsb' 32 5).toNat ≠ 0 ∧ sget 0 s.team.slots (y.extractLsb' 37 5).toNat ≠ 0)
    (h4 : lyEsize (sget 0 s.team.slots (y.extractLsb' 32 5).toNat) = lyEsize (sget 0 s.team.slots (y.extractLsb' 37 5).toNat) ∧
      (y.extractLsb' 0 32).toNat % 2 ^ lyEsize (sget 0 s.team.slots (y.extractLsb' 32 5).toNat) = 0)
    (h5 : (match s.barPlace (y.extractLsb' 64 32).toNat with | .ok _ => true | .error _ => !y.getLsbD 46) = true) : s.CopyLegal y := by
  refine ⟨h1, h2, h3, h4, fun h => ?_⟩
  split at h5
  · exact ⟨_, by assumption⟩
  · simp only [h, Bool.not_true, Bool.false_eq_true] at h5
theorem onCore_of {s : State} {o : MemOp} {x : Args} {core : Nat}
    (h : ((s.lanesFor x).all fun l => match s.lands o x l with | .ok (.found q _ _) => q.onCore core | _ => false) = true) :
    ∀ l ∈ s.lanesFor x, ∃ q wr l1, s.lands o x l = .ok (.found q wr l1) ∧ q.onCore core = true := fun l hl => by
  have h' := List.all_eq_true.1 h l hl
  split at h'
  · exact ⟨_, _, _, by assumption, h'⟩
  · simp at h'
theorem checked_of {s : State} {x : Args} {kind : MKind} {am : Nat} {f : Word} {d : List Word} {v : SpadEnv}
    (h : ({ kind := kind, amode := am, fmt := f, desc := d, aslot := s.slot ((d.getD 1 0).toNat % 32),
            bslot := s.slot (if kind.steps then (d.getD 1 0).toNat / 256 % 32 else (d.getD 1 0).toNat / 2 ^ 16 % 32),
            ca := ((d.getD 2 0).toNat, (d.getD 3 0).toNat), cb := ((d.getD 4 0).toNat, (d.getD 5 0).toNat) } : MEntry).operandCheck v = none) :
    ∀ e, IsEntry s x kind am f d e → e.operandCheck v = none := fun e he => by
  simpa only [MEntry.operandCheck, he.what.1, he.what.2.1, he.what.2.2.1, he.what.2.2.2, he.slots.1, he.slots.2, he.coords.1, he.coords.2] using h
theorem differ_of {s : State} {r l m : Nat} (h : l < s.grp.lanes ∧ m < s.grp.lanes ∧ s.cur.mask.getLsbD l = true ∧ s.cur.mask.getLsbD m = true ∧
    (s.vreg l r).val ≠ (s.vreg m r).val) : ∃ l m, l < s.grp.lanes ∧ m < s.grp.lanes ∧ s.cur.mask.getLsbD l = true ∧ s.cur.mask.getLsbD m = true ∧
    (s.vreg l r).val ≠ (s.vreg m r).val := ⟨l, m, h⟩
theorem cells_of {cells : List MCell} {P : MCell → Nat → Prop} [∀ c o, Decidable (P c o)] (h : (cells.all fun c => c.off.all fun o => decide (P c o)) = true) :
    ∀ c ∈ cells, ∀ o, c.off = some o → P c o := fun c hc o ho => by
  have h' := List.all_eq_true.1 h c hc
  rw [ho] at h'; simpa using h'
theorem cells2_of {cells : List MCell} {P : MCell → MCell → Nat → Nat → Prop} [∀ c d o p, Decidable (P c d o p)]
    (h : (cells.all fun c => c.off.all fun o => cells.all fun d => d.off.all fun p => decide (P c d o p)) = true) :
    ∀ c ∈ cells, ∀ d ∈ cells, ∀ o p, c.off = some o → d.off = some p → P c d o p := fun c hc d hd o p ho hp => by
  have h' := List.all_eq_true.1 h c hc
  rw [ho] at h'
  have h2 := List.all_eq_true.1 (by simpa using h') d hd
  rw [hp] at h2; simpa using h2
theorem released_of {ws : List InWrite} {r n : Nat}
    (h : (ws.all fun e => e.parts.all fun x => !decide (x.route = r) || x.acked || x.released.all fun m => decide (n ≤ m)) = true) :
    ∀ e ∈ ws, ∀ x ∈ e.parts, ∀ m, x.route = r → x.acked = false → x.released = some m → n ≤ m := fun e he x hx m hr ha hm => by
  simpa [hr, ha, hm] using List.all_eq_true.1 (List.all_eq_true.1 h e he) x hx
theorem current_of {s : State} {e : MEntry} {b : Bool} {core : Nat} {os : List Nat}
    (h : (os.all fun o => !s.mem.spadBad core o 1 &&
      (b || (decide ((sget {} s.mem.log.last (spadKey core o)).stamp ≤ e.issued) &&
        e.parts.all fun p => p.stale.all fun r => decide (spadKey core o < r.1) || decide (r.1 + r.2 ≤ spadKey core o))) &&
      e.parts.all fun p => (!decide ((sget {} s.mem.log.last (spadKey core o)).plain = some p.who) || decide ((sget {} s.mem.log.last (spadKey core o)).stamp ≤ p.wat)) &&
        !s.storing p.who (spadKey core o)) = true) :
    ∀ o ∈ os, s.mem.spadBad core o 1 = false ∧ s.Current e b (spadKey core o) := fun o ho => by
  have h' := List.all_eq_true.1 h o ho
  simp only [Bool.and_eq_true, Bool.or_eq_true, Bool.not_eq_true', List.all_eq_true, decide_eq_true_eq, decide_eq_false_iff_not] at h'
  obtain ⟨⟨h1, h2⟩, h3⟩ := h'
  refine ⟨h1, fun hb => ?_, fun p hp => ⟨fun hw => ?_, (h3 p hp).2⟩⟩
  · rcases h2 with h2 | h2
    · rw [h2] at hb; cases hb
    · exact ⟨h2.1, fun p hp r hr => h2.2 p hp r hr⟩
  · exact (h3 p hp).1.resolve_left fun hn => hn hw
theorem between_of {a b : Nat} {P : Nat → Prop} (h : ∀ i, i < b - a → P (a + i)) : ∀ k, a ≤ k → k < b → P k := fun k ha hb => by
  have := h (k - a) (by omega)
  rwa [Nat.add_sub_cancel' ha] at this
theorem cells3_of {cells : List MCell} (h : (cells.all fun c => c.off.all fun o => cells.all fun d => !decide (d.off = some o) || decide (c = d)) = true) :
    ∀ c ∈ cells, ∀ d ∈ cells, ∀ o, c.off = some o → d.off = some o → c = d := fun c hc d hd o ho hp => by
  have h1 := List.all_eq_true.1 h c hc
  rw [ho] at h1
  have h2 : ∀ x ∈ cells, ¬ x.off = some o ∨ c = x := by simpa using h1
  exact (h2 d hd).resolve_left fun hn => hn hp
theorem somes_of {ps : List (Option Nat)} {P : Nat → Prop} (h : ∀ z ∈ ps, ∀ o ∈ z.toList, P o) : ∀ o, some o ∈ ps → P o :=
  fun o ho => h _ ho o (by simp)

/-! ### One step, against the worked examples of the spec -/

/-- Lane 0 of the group in issue, with v-registers set. -/
def withLane (s : State) (l : List (Nat × Word)) : State := { s with grp := { s.grp with r := { s.grp.r with v := l.map fun p => (p.1, ⟨p.2, false⟩) } } }
/-- What the word `w` leaves, as a view of the state after it. -/
def after {α : Type} (w nbits : Nat) (s : State) (view : State → α) : Option α :=
  match decodeTableWord nbits w with
  | none => none
  | some i => match exec i s with | .next t => some (view t) | _ => none
/-- The sums of the worked example of R236 (11), by the words it writes. -/
theorem test_iadds_carries_out : after 0x0410002F 32 (withLane stateA [(0, 0xFFFFFFF0), (2, 0x20)]) (fun t => ((t.vreg 0 4).val, t.p 0 0)) = some (0x10, true) := by decide +kernel
theorem test_iadds_carries_in : after 0x0414083F 32 { withLane stateA [(1, 1)] with grp := { (withLane stateA [(1, 1)]).grp with r := { (withLane stateA [(1, 1)]).grp.r with p := [(0, 1)] } } }
    (fun t => ((t.vreg 0 5).val, t.p 0 0)) = some (2, false) := by decide +kernel
/-- The examples below Table 76 (11): IMULH of −2 by 0x4000_0000, and IABS of the least number. -/
theorem test_imulh_rounds_down : (match exec (.imulh { d := 3, a := 1, b := 2 }) (withLane stateA [(1, 0xFFFFFFFE), (2, 0x40000000)]) with
    | .next t => some (t.vreg 0 3).val | _ => none) = some 0xFFFFFFFF := by decide +kernel
theorem test_iabs_of_the_least : (match exec (.iabs { d := 3, a := 1 }) (withLane stateA [(1, 0x80000000)]) with
    | .next t => some (t.vreg 0 3).val | _ => none) = some 0x80000000 := by decide +kernel
/-- Table 70 (10): a shift by 32 gives 0; R218: overlapping pairs are read before they are written. -/
theorem test_sshr_by_the_width : (match exec (.sshr { d := 3, a := 1, b := 2 }) (withS stateA [(1, 0xFFFFFFFF), (2, 32), (3, 7)]) with
    | .next t => some (t.sreg 3).val | _ => none) = some 0 := by decide +kernel
theorem test_sadd64_overlaps : (match exec (.sadd64 { d := 4, a := 4, b := 4 }) (withS stateA [(4, 0x80000001), (5, 3)]) with
    | .next t => some ((t.sreg 4).val, (t.sreg 5).val) | _ => none) = some (2, 7) := by decide +kernel
/-- The lanes of the worked example of R247 (11): CVT.E4M3.FF32 v5, v2, and the same with .NS. -/
theorem test_cvt_e4m3 : ([(0x43960000, 0x79, 0x79), (0x43EB0000, 0x7E, 0x7F), (0xFF800000, 0xFE, 0xFF)] : List (Word × Word × Word)).all (fun r =>
    after (0x7F403F00 + 0x05026A00 * 2 ^ 32) 64 (withLane stateA [(2, r.1)]) (fun t => (t.vreg 0 5).val) == some r.2.1 &&
    after (0x7F407F00 + 0x05026A00 * 2 ^ 32) 64 (withLane stateA [(2, r.1)]) (fun t => (t.vreg 0 5).val) == some r.2.2) = true := by decide +kernel

/-! ### Witnesses of the statements about encodings, the uniform set and the lane set -/

theorem wit_StepKeepsMemory : ∃ s t : State, s.MemWf ∧ step s = .next t :=
  ⟨{ agenda := [.event .tick] }, _, show Memory.wf {} = true by decide, rfl⟩

theorem wit_DecodeEncode : ∃ i : Instr, i.WellFormed := ⟨.iadd {}, by decide, by decide⟩

theorem wit_EncodeDecode : ∃ bs i, decode bs = .ok i := ⟨[0x0F, 0, 0, 0], .iadd {}, by decide +kernel⟩

theorem wit_UniformResults : ∃ (x : Args) (s : State), s.guardU x.gp x.gn = true ∧
    s.CleanS [x.a.toNat, x.b.toNat, if x.long then x.c.toNat else x.d.toNat] :=
  ⟨{}, stateA, rfl, cleanS_of (by decide +kernel)⟩

theorem wit_UniformMovesAndPairs : (∃ (x : Args) (s : State), s.guardU x.gp x.gn = true ∧ (Instr.sadd64 x).WellFormed ∧
    s.CleanS [x.d.toNat, x.a.toNat, x.a.toNat + 1, x.b.toNat, x.b.toNat + 1]) ∧ (∃ x : Args, (Instr.smovi x).WellFormed) ∧
    ∃ x : Args, (Instr.smovh x).WellFormed :=
  ⟨⟨{ d := 126, a := 126, b := 126 }, stateA, rfl, ⟨by decide, by decide⟩, cleanS_of (by decide +kernel)⟩,
   ⟨{}, by decide, by decide⟩, ⟨{}, by decide, by decide⟩⟩

theorem wit_UniformPredicates : (∃ (x : Args) (s : State), s.guardU x.gp x.gn = true ∧ s.CleanS [x.a.toNat, x.b.toNat] ∧ x.d.toNat < 16) ∧
    (∃ x : Args, (Instr.qop x).WellFormed ∧ 5 ≤ x.sub.toNat % 8) ∧ ∃ x : Args, (Instr.ssel x).WellFormed :=
  ⟨⟨{ d := 15 }, stateA, rfl, cleanS_of (by decide +kernel), by decide⟩, ⟨{ sub := 6, d := 15, a := 15 }, ⟨by decide, by decide⟩, by decide⟩,
   ⟨{ long := true }, by decide, by decide⟩⟩

theorem wit_SystemValues : (∀ n, n ≤ 31 → ∃ x : Args, x.imm = n ∧ stateA.guardU x.gp x.gn = true) ∧ ∃ x : Args, stateA.CleanS [x.a.toNat] := by
  refine ⟨fun n h => ⟨{ c := BitVec.ofNat 8 n }, ?_, rfl⟩, ⟨{}, cleanS_of (by decide +kernel)⟩⟩
  simp [Args.imm]; omega

/-- In each operand mode, and with every mark of a lane row: registers in budget, none in flight, clean sources, one executing lane. -/
theorem lane_modes : ∀ m, m < 4 → ∃ (x : Args) (s : State), x.xmode = m ∧ ModeListed x [.A, .B, .L] ∧ s.Free ([x.d.toNat] ++ s.regsA x ++ s.regsB x) ∧
    s.LaneNumberClean x ∧ s.lanesFor x = [0] ∧ (s.srcA x 0).poison = false ∧ (s.srcB x 0).poison = false := by
  intro m hm
  refine ⟨{ long := true, q := BitVec.ofNat 7 m }, stateA, ?_, ⟨fun _ => by decide, fun _ => by decide, fun _ => by decide⟩, ?_, ?_, ?_, ?_, ?_⟩ <;>
    rcases m with _ | _ | _ | _ | m <;> first | omega | exact fun _ _ => by decide +kernel | exact free_of (by decide +kernel) (by decide +kernel) | decide +kernel

theorem wit_OperandForms : (∀ m, m < 4 → ∃ x : Args, x.xmode = m) ∧
    ∃ (x : Args) (s : State), x.xmode ≠ 2 ∧ s.Free ([x.d.toNat] ++ s.regsA x) ∧ s.LaneNumberClean x :=
  ⟨fun m hm => (lane_modes m hm).imp fun _ ⟨_, h⟩ => h.1,
   ⟨{}, stateA, by decide, free_of (by decide +kernel) (by decide +kernel), fun _ _ => by decide +kernel⟩⟩

/-- Every row names at most the destination, the two sources in their mode, and a third register. -/
theorem wit_LaneIntegers : (∀ m, m < 4 → ∃ (x : Args) (s : State), x.xmode = m ∧ ModeListed x [.sat, .A, .B, .L] ∧
      s.Free ([x.d.toNat] ++ s.regsA x ++ s.regsB x) ∧ s.LaneNumberClean x ∧ ∀ l ∈ s.lanesFor x, (s.srcA x l).poison = false ∧ (s.srcB x l).poison = false) ∧
    ∃ (x : Args) (s : State), ModeListed x [.sat] ∧ s.Free [x.d.toNat, x.a.toNat, x.b.toNat, if x.long then x.c.toNat else x.d.toNat] ∧
      s.LaneNumberClean x ∧ ∀ l ∈ s.lanesFor x, (s.vreg l x.a.toNat).poison = false ∧ (s.vreg l x.b.toNat).poison = false ∧ (s.vreg l x.d.toNat).poison = false := by
  refine ⟨fun m hm => ?_, ⟨{}, stateA, ⟨fun h => absurd h (by decide), fun h => absurd h (by decide), fun h => absurd h (by decide)⟩, free_of (by decide +kernel) (by decide +kernel),
    fun _ _ => by decide +kernel, by decide +kernel⟩⟩
  obtain ⟨x, s, h1, -, h3, h4, h5, h6, h7⟩ := lane_modes m hm
  refine ⟨x, s, h1, ⟨fun _ => by simp, fun _ => by simp, fun _ => by simp⟩, h3, h4, fun l hl => ?_⟩
  simp only [h5, List.mem_singleton] at hl
  subst hl
  exact ⟨h6, h7⟩

theorem wit_LaneWide : ∃ (x : Args) (s : State), x.xmode = 0 ∧ x.c.toNat % 64 < 48 ∧
    s.Free [x.d.toNat, x.d.toNat + 1, x.a.toNat, x.b.toNat, x.c.toNat, x.c.toNat + 1] ∧
    s.Clean (s.lanesFor x) [x.a.toNat, x.b.toNat, x.c.toNat, x.c.toNat + 1] :=
  ⟨{ c := 47 }, stateA, rfl, by decide, free_of (by decide +kernel) (by decide +kernel), clean_of (by decide +kernel)⟩

theorem wit_LaneSelects : ∃ (x : Args) (s : State), x.d.toNat < 48 ∧ s.Free (s.regsA x ++ s.regsB x) ∧ s.LaneNumberClean x ∧
    (∀ l ∈ s.lanesFor x, (s.srcA x l).poison = false ∧ (s.srcB x l).poison = false) ∧
    s.Free [x.d.toNat, x.a.toNat, x.b.toNat, s.xr x.b.toNat + x.d.toNat] ∧ s.Clean (s.lanesFor x) [x.d.toNat, x.a.toNat, x.b.toNat] :=
  ⟨{ d := 47 }, stateA, by decide, free_of (by decide +kernel) (by decide +kernel), fun _ _ => by decide +kernel, by decide +kernel,
    free_of (by decide +kernel) (by decide +kernel), clean_of (by decide +kernel)⟩

theorem wit_LanePredicates : ∃ x : Args, (Instr.pand x).WellFormed ∧ x.d.toNat < 48 := ⟨{ d := 47 }, ⟨by decide, by decide⟩, by decide⟩

theorem wit_LaneFloats : (∀ m, m < 4 → ∃ (x : Args) (s : State), x.xmode = m ∧ s.Free ([x.d.toNat] ++ s.regsA x ++ s.regsB x) ∧ s.LaneNumberClean x ∧
      ∀ l ∈ s.lanesFor x, (s.srcA x l).poison = false ∧ (s.srcB x l).poison = false) ∧
    ∃ (x : Args) (s : State), x.d.toNat < 48 ∧ s.Free (s.regsA x ++ s.regsB x) ∧ s.LaneNumberClean x ∧
      ∀ l ∈ s.lanesFor x, (s.srcA x l).poison = false ∧ (s.srcB x l).poison = false := by
  refine ⟨fun m hm => ?_, ⟨{ d := 47 }, stateA, by decide, free_of (by decide +kernel) (by decide +kernel), fun _ _ => by decide +kernel, by decide +kernel⟩⟩
  obtain ⟨x, s, h1, h2, h3, h4, h5⟩ := wit_LaneIntegers.1 m hm
  exact ⟨x, s, h1, h3, h4, h5⟩

theorem wit_Functions : ∃ (x : Args) (s : State), x.xmode ≠ 2 ∧ s.Free ([x.d.toNat] ++ s.regsA x) ∧ s.LaneNumberClean x ∧
    ∀ l ∈ s.lanesFor x, (s.srcA x l).poison = false :=
  ⟨{ d := 47 }, stateA, by decide, free_of (by decide +kernel) (by decide +kernel), fun _ _ => by decide +kernel, by decide +kernel⟩

theorem wit_PackedAndPairs : (∃ (x : Args) (s : State), s.Free ([x.d.toNat] ++ s.regsA x ++ s.regsB x) ∧ s.LaneNumberClean x ∧
      ∀ l ∈ s.lanesFor x, (s.srcA x l).poison = false ∧ (s.srcB x l).poison = false) ∧
    ∃ (x : Args) (s : State), s.Free [x.d.toNat, x.d.toNat + 1, x.a.toNat, x.a.toNat + 1, x.b.toNat, x.b.toNat + 1, x.c.toNat, x.c.toNat + 1] ∧
      s.Clean (s.lanesFor x) [x.a.toNat, x.a.toNat + 1, x.b.toNat, x.b.toNat + 1, x.c.toNat, x.c.toNat + 1] := by
  obtain ⟨x, s, _, h3, h4, h5⟩ := wit_LaneFloats.1 2 (by decide)
  exact ⟨⟨x, s, h3, h4, h5⟩, ⟨{ d := 2, long := true }, stateA, free_of (by decide +kernel) (by decide +kernel), clean_of (by decide +kernel)⟩⟩

/-- A conversion from and to binary64 in pairs, one from a 32-bit source, a pack of two narrow elements; and numbers of both kinds. -/
theorem wit_Conversions : (∃ (x : Args) (s : State), x.xmode = 0 ∧ x.b.toNat % 16 = 11 ∧ x.b.toNat / 16 = 11 ∧
      s.Free [x.d.toNat, x.d.toNat + 1, x.a.toNat, x.a.toNat + 1] ∧ s.LaneNumberClean x ∧ s.Clean (s.lanesFor x) [x.a.toNat, x.a.toNat + 1]) ∧
    (∃ (x : Args) (s : State), x.xmode = 3 ∧ x.b.toNat % 16 = 10 ∧ s.Free ([x.d.toNat] ++ s.regsA x ++ s.regsB x) ∧ s.LaneNumberClean x ∧
      ∀ l ∈ s.lanesFor x, (s.srcA x l).poison = false ∧ (s.srcB x l).poison = false) ∧
    (∃ (x : Args) (s : State), s.Free [x.d.toNat, x.a.toNat, x.b.toNat] ∧ s.Clean (s.lanesFor x) [x.a.toNat, x.b.toNat, x.d.toNat]) ∧
    fF64 ∈ [fE4M3, fE5M2, fF16, fBF16, fF32, fF64] ∧ fF64.hasInf = true ∧ isNan fF32 0x7FC00001 = true :=
  ⟨⟨{ b := 0xBB }, stateA, rfl, by decide, by decide, free_of (by decide +kernel) (by decide +kernel), fun _ _ => by decide +kernel,
      clean_of (by decide +kernel)⟩,
   ⟨{ long := true, q := 3, b := 10 }, stateA, by decide, by decide, free_of (by decide +kernel) (by decide +kernel), fun _ _ => by decide +kernel, by decide +kernel⟩,
   ⟨{}, stateA, free_of (by decide +kernel) (by decide +kernel), clean_of (by decide +kernel)⟩, by simp, rfl, by decide +kernel⟩

theorem wit_DotProducts : ∃ (x : Args) (s : State), x.xmode = 0 ∧ s.Free [x.d.toNat, x.a.toNat, x.b.toNat, if x.long then x.c.toNat else x.d.toNat] ∧
    s.Clean (s.lanesFor x) [x.a.toNat, x.b.toNat, if x.long then x.c.toNat else x.d.toNat] :=
  ⟨{}, stateA, rfl, free_of (by decide +kernel) (by decide +kernel), clean_of (by decide +kernel)⟩

/-- Lane 3 of a group: the pattern of s1 is an upward shift by 1, so that lanes 0 and 3 name none and lane 2. -/
theorem wit_CrossLaneReads : (∃ (x : Args) (s : State), x.d.toNat < 48 ∧ s.Free [x.d.toNat, x.a.toNat, x.b.toNat] ∧ s.Clean (s.lanesFor x) [x.b.toNat] ∧
      s.CleanS [x.b.toNat] ∧ ∀ l m, (s.vreg l m).poison = false) ∧ ∃ K W : Nat, K ≤ 3 % W ∧ ¬ K ≤ 0 % W :=
  ⟨⟨{ d := 47 }, stateA, by decide, free_of (by decide +kernel) (by decide +kernel), clean_of (by decide +kernel), cleanS_of (by decide +kernel), fun _ _ => rfl⟩,
   ⟨1, 4, by decide, by decide⟩⟩

/-- Executing lanes, a least one and a rest; .FADD and another operation. -/
theorem wit_Reductions : ∀ op ∈ ([0, 8, 10] : List (BitVec 5)), ∃ (x : Args) (s : State) (rest : List Nat), x.sub = op ∧ s.Free [x.d.toNat, x.a.toNat] ∧
    s.Clean (s.lanesFor x) [x.a.toNat] ∧ s.lanesFor x = 0 :: rest ∧ rest ≠ [] := by
  intro op h
  simp only [List.mem_cons, List.not_mem_nil, or_false] at h
  rcases h with rfl | rfl | rfl <;>
    exact ⟨{ sub := _ }, { stateA with cur := { unitA with mask := 7 } }, [1, 2], rfl, free_of (by decide +kernel) (by decide +kernel),
      clean_of (by decide +kernel), by decide +kernel, by decide⟩

namespace WStepRunsDecoded
def wds (is : List Instr) : List Byte := is.flatMap encode
def prog (pc : Nat) (is : List Instr) : State → State := fun s => { s with mem := { s.mem with dram := (wds is).zipIdx.foldl (fun m e => writeBytes m (pc + e.2) e.1.toNat 1) s.mem.dram }, cur := { s.cur with pc := BitVec.ofNat 64 pc } }
def ag (s : State) : State := { s with agenda := [.issue u0, .event .tick] }
def hd : Instr := .clh { len := 4, wait := 1 }
def ad : Instr := .sadd { d := 3, a := 3, b := 4 }
def adl : Instr := .sadd { long := true, d := 200, a := 3, b := 4 }
def rp (n : Nat) : Instr := .rep { cnt := BitVec.ofNat _ n, sd := 1 }
def run (l : Nat) (s : State) : State := { s with cur := { s.cur with run := { s.cur.run with left := l } } }
def inrep (k : Nat) (s : State) : State := { s with cur := { s.cur with run := { s.cur.run with rep := some ⟨{ cnt := 3, sd := 1 }, k⟩ } } }
def sts : List State := [ag (run 0 (prog 0x8000 [hd] stateA)), ag (run 2 (prog 0x8000 [ad] stateA)), ag (run 2 (prog 0x8000 [adl] stateA)), ag (run 2 (prog 0x8000 [rp 3, ad] stateA)), ag (run 2 (prog 0x8000 [rp 3, adl] stateA)), ag (run 2 (prog 0x8000 [.bra 7] stateA)), ag (run 1 (prog 0x8000 [.bra 7] stateA)), ag (inrep 1 (run 2 (prog 0x8000 [ad] stateA))), ag (inrep 3 (run 1 (prog 0x8000 [adl] stateA))), ag (run 2 (prog 0x8000 [hd] stateA)),
  { stateA with agenda := [.event .tick] }]
def state10 : State := ((sts)[10]?.getD default)
def i0_0 := (match state10.agenda with | .event i :: _ => i | _ => default)
def rest0_1 := (match state10.agenda with | .event _ :: rest => rest | _ => default)
def state0 : State := ((sts)[0]?.getD default)
def u1_2 := (match state0.agenda with | .issue u :: _ => u | _ => default)
def rest1_3 := (match state0.agenda with | .issue _ :: rest => rest | _ => default)
def t1_4 := ((State.select { state0 with agenda := rest1_3 } u1_2).getD default)
def w1_5 := (match t1_4.fetchWord (t1_4.cur.pc.toNat) with | .ok (w, false) => w | _ => default)
def i1_6 := (match decode (bytesOf w1_5 4) with | .ok i => i | _ => default)
def state7 : State := ((sts)[7]?.getD default)
def u2_7 := (match state7.agenda with | .issue u :: _ => u | _ => default)
def rest2_8 := (match state7.agenda with | .issue _ :: rest => rest | _ => default)
def t2_9 := ((State.select { state7 with agenda := rest2_8 } u2_7).getD default)
def w2_10 := (match t2_9.fetchWord (t2_9.cur.pc.toNat) with | .ok (w, false) => w | _ => default)
def bs2_11 := (match t2_9.fetchWords (t2_9.cur.pc.toNat) (wordsOf w2_10) with | .ok (bs, none) => bs | _ => default)
def i2_12 := (match decode bs2_11 with | .ok i => i | _ => default)
def state1 : State := ((sts)[1]?.getD default)
def u3_13 := (match state1.agenda with | .issue u :: _ => u | _ => default)
def rest3_14 := (match state1.agenda with | .issue _ :: rest => rest | _ => default)
def t3_15 := ((State.select { state1 with agenda := rest3_14 } u3_13).getD default)
def w3_16 := (match t3_15.fetchWord (t3_15.cur.pc.toNat) with | .ok (w, false) => w | _ => default)
def bs3_17 := (match t3_15.fetchWords (t3_15.cur.pc.toNat) (wordsOf w3_16) with | .ok (bs, none) => bs | _ => default)
def i3_18 := (match decode bs3_17 with | .ok i => i | _ => default)
def state3 : State := ((sts)[3]?.getD default)
def u4_19 := (match state3.agenda with | .issue u :: _ => u | _ => default)
def rest4_20 := (match state3.agenda with | .issue _ :: rest => rest | _ => default)
def t4_21 := ((State.select { state3 with agenda := rest4_20 } u4_19).getD default)
def w4_22 := (match t4_21.fetchWord (t4_21.cur.pc.toNat) with | .ok (w, false) => w | _ => default)
def bs4_23 := (match t4_21.fetchWords (t4_21.cur.pc.toNat) (wordsOf w4_22) with | .ok (bs, none) => bs | _ => default)
def i4_24 := (match decode bs4_23 with | .ok i => i | _ => default)
def r4_25 := (match i4_24 with | .rep r => r | _ => default)
def v4_26 := (match t4_21.fetchWord ((t4_21.cur.pc.toNat) + 4) with | .ok (v, false) => v | _ => default)
def cs4_27 := (match t4_21.fetchWords ((t4_21.cur.pc.toNat) + 4) (wordsOf v4_26) with | .ok (cs, none) => cs | _ => default)
def j4_28 := (match decode cs4_27 with | .ok j => j | _ => default)

theorem wit_StepRunsDecoded :
    (∃ i : Instr, ∃ s : State, ∃ rest : List Move, s.agenda = .event i :: rest ∧ i.isWord = false) ∧
    (∃ u : UnitRef, ∃ s : State, ∃ t : State, ∃ rest : List Move, s.agenda = .issue u :: rest ∧ State.select { s with agenda := rest } u = some t ∧
      t.mayIssue = true ∧ let pc := t.cur.pc.toNat; ∃ w, t.fetchWord pc = .ok (w, false) ∧ ∃ i, (t.cur.st = .ready ∨ t.cur.st = .issuing) ∧
      t.cur.run.left = 0 ∧ isHeaderWord w = true ∧ decode (bytesOf w 4) = .ok i) ∧
    (∃ u : UnitRef, ∃ s : State, ∃ t : State, ∃ rest : List Move, s.agenda = .issue u :: rest ∧ State.select { s with agenda := rest } u = some t ∧
      t.mayIssue = true ∧ let pc := t.cur.pc.toNat; ∃ w, t.fetchWord pc = .ok (w, false) ∧ ∃ bs, ∃ i, t.cur.st = .issuing ∧ t.cur.run.left ≠ 0 ∧
      t.fetchWords pc (wordsOf w) = .ok (bs, none) ∧ decode bs = .ok i ∧ ∃ r, t.cur.run.rep = some r) ∧
    (∃ u : UnitRef, ∃ s : State, ∃ t : State, ∃ rest : List Move, s.agenda = .issue u :: rest ∧ State.select { s with agenda := rest } u = some t ∧
      t.mayIssue = true ∧ let pc := t.cur.pc.toNat; ∃ w, t.fetchWord pc = .ok (w, false) ∧ ∃ bs, ∃ i, t.cur.st = .issuing ∧ t.cur.run.left ≠ 0 ∧
      t.fetchWords pc (wordsOf w) = .ok (bs, none) ∧ decode bs = .ok i ∧ t.cur.run.rep = none ∧ (∀ h, i ≠ .clh h) ∧ (∀ r, i ≠ .rep r) ∧
      (i.endsRun = true → t.cur.run.left = 1)) ∧
    (∃ u : UnitRef, ∃ s : State, ∃ t : State, ∃ rest : List Move, s.agenda = .issue u :: rest ∧ State.select { s with agenda := rest } u = some t ∧
      t.mayIssue = true ∧ let pc := t.cur.pc.toNat; ∃ w, t.fetchWord pc = .ok (w, false) ∧ ∃ bs, ∃ i, t.cur.st = .issuing ∧ t.cur.run.left ≠ 0 ∧
      t.fetchWords pc (wordsOf w) = .ok (bs, none) ∧ decode bs = .ok i ∧ t.cur.run.rep = none ∧ ∃ r, ∃ v, ∃ cs, ∃ j, i = .rep r ∧
      t.fetchWord (pc + 4) = .ok (v, false) ∧ t.fetchWords (pc + 4) (wordsOf v) = .ok (cs, none) ∧ decode cs = .ok j ∧ repAllowed r j = true) :=
  ⟨⟨i0_0, state10, rest0_1, by decide +kernel, by decide +kernel⟩,
   ⟨u1_2, state0, t1_4, rest1_3, by decide +kernel, by decide +kernel, by decide +kernel, w1_5, by decide +kernel, i1_6, by decide +kernel,
      by decide +kernel, by decide +kernel, by decide +kernel⟩,
   ⟨u2_7, state7, t2_9, rest2_8, by decide +kernel, by decide +kernel, by decide +kernel, w2_10, by decide +kernel, bs2_11, i2_12, by decide +kernel,
      by decide +kernel, by decide +kernel, by decide +kernel, ((t2_9.cur.run.rep).getD default), by decide +kernel⟩,
   ⟨u3_13, state1, t3_15, rest3_14, by decide +kernel, by decide +kernel, by decide +kernel, w3_16, by decide +kernel, bs3_17, i3_18, by decide +kernel,
      by decide +kernel, by decide +kernel, by decide +kernel, by decide +kernel,
      fun _ e => (by decide +kernel : (i3_18).ctorIdx ≠ 94) (congrArg Instr.ctorIdx e),
      fun _ e => (by decide +kernel : (i3_18).ctorIdx ≠ 95) (congrArg Instr.ctorIdx e), by decide +kernel⟩,
   ⟨u4_19, state3, t4_21, rest4_20, by decide +kernel, by decide +kernel, by decide +kernel, w4_22, by decide +kernel, bs4_23, i4_24, by decide +kernel,
      by decide +kernel, by decide +kernel, by decide +kernel, by decide +kernel, r4_25, v4_26, cs4_27, j4_28, by decide +kernel, by decide +kernel,
      by decide +kernel, by decide +kernel, by decide +kernel⟩⟩
end WStepRunsDecoded

namespace WUniformGuardOff
def args0 : Args := { gp := 0, d := 3, a := 2, b := 5, c := 9, q := 0 }
def state0 : State := { stateA with grp := { groupA with r := { q := 2 }}}
def brArgs0 : BrArgs := { gp := 0, off := 8 }

theorem wit_UniformGuardOff :
    (∃ x : Args, ∃ s : State, s.guardU x.gp x.gn = false ∧ ∃ y : BrArgs, s.guardU y.gp y.gn = false) :=
  ⟨args0, state0, by decide +kernel, brArgs0, by decide +kernel⟩
end WUniformGuardOff

namespace WTransfers
def domA : BitVec 512 := BitVec.ofNat 512 (1 + 0xFFFF * 2 ^ 48)
def stateA : State := { grp := groupA, team := teamA, cur := unitA, parts := [(0, partA)], cores := [(0, { pilot := true })] }
def s1 : State := { stateA with grp := { groupA with r := { s := [(2, ⟨0x100,false⟩),(4,⟨0x101,false⟩)], q := 1 } } }
def state2 : State := { s1 with grp := { s1.grp with r := { s1.grp.r with fcnt := [(1, 2)] } } }
def clhArgs1 : ClhArgs := {wait := 3, len := 4}
def state3 : State := { s1 with cur := { unitA with st := .ready } }
def state4 : State := { s1 with team := {teamA with part := 0}, cur := { unitA with pc := 0x1000 }, parts := [(0, { partA with domains := [(0, domA ||| (0x1000 <<< 128))] })], mem := { dram := writeBytes (writeBytes (writeBytes [] 0x1000 (2^63+0x2000) 8) 0x2000 (2^63+0x3000) 8) 0x3000 (0xF2 * 2^56) 8 } }
def c3_0 := ((stateA.runFault ({ stateA.cur with pc := pcCut (stateA.cur.pc + 4), run := ⟨stateA.cur.pc, ({} : ClhArgs).wait, ({} : ClhArgs).seta, ({} : ClhArgs).setb, ({} : ClhArgs).len.toNat, none⟩ }).pc.toNat ({} : ClhArgs).len.toNat).getD default)
def brArgs2 : BrArgs := {sense := true}
def mUnit1 : MUnit := { unitA with run := { left := 1, rep := some { k := 1 } } }

theorem wit_Transfers :
    (∃ s : State, ∃ h : ClhArgs, ∃ n, n < 12 ∧ h.wait.getLsbD n = true ∧ sget 0 s.grp.r.fcnt n ≠ 0) ∧
    (∃ s : State, ∃ h : ClhArgs, (∀ n, n < 12 → h.wait.getLsbD n = true → sget 0 s.grp.r.fcnt n = 0) ∧ s.cur.st ≠ .issuing) ∧
    (∃ s : State, ∃ h : ClhArgs, let u : MUnit := { s.cur with pc := pcCut (s.cur.pc + 4), run := ⟨s.cur.pc, h.wait, h.seta, h.setb, h.len.toNat, none⟩ };
      (∀ n, n < 12 → h.wait.getLsbD n = true → sget 0 s.grp.r.fcnt n = 0) ∧ s.cur.st = .issuing ∧ s.runFault u.pc.toNat h.len.toNat = none) ∧
    (∃ s : State, ∃ h : ClhArgs, let u : MUnit := { s.cur with pc := pcCut (s.cur.pc + 4), run := ⟨s.cur.pc, h.wait, h.seta, h.setb, h.len.toNat, none⟩ };
      (∀ n, n < 12 → h.wait.getLsbD n = true → sget 0 s.grp.r.fcnt n = 0) ∧ s.cur.st = .issuing ∧ ∃ c, s.runFault u.pc.toNat h.len.toNat = some c) ∧
    (∃ s : State, ∃ x : BrArgs, s.guardU x.gp x.gn = true ∧ s.q x.pn.toNat ≠ x.sense) ∧
    (∃ s : State, ∃ x : BrArgs, (s.guardU x.gp x.gn = false ∨ s.q x.pn.toNat = x.sense)) ∧
    (∃ s : State, ∃ x : Args, s.guardU x.gp x.gn = true ∧ s.CleanS [x.a.toNat, x.a.toNat + 1] ∧ let T := s.pairS x.a.toNat; ∃ i ∈ ([.ret x,
      .brx x] : List Instr), T.toNat < 2 ^ 57 ∧ T.toNat % 4 = 0) ∧
    (∃ s : State, ∃ x : Args, s.guardU x.gp x.gn = true ∧ s.CleanS [x.a.toNat, x.a.toNat + 1] ∧ let T := s.pairS x.a.toNat; ∃ i ∈ ([.ret x,
      .brx x] : List Instr), ¬ (T.toNat < 2 ^ 57 ∧ T.toNat % 4 = 0)) ∧
    (∃ s : State, ∃ u : MUnit, ∃ size : Nat, u.run.rep = none) ∧
    (∃ s : State, ∃ u : MUnit, ∃ size : Nat, ∃ r : RepRun, u.run.rep = some r) :=
  ⟨⟨state2, clhArgs1, 1, by decide +kernel, by decide +kernel, by decide +kernel⟩,
   ⟨state3, {}, by decide +kernel, by decide +kernel⟩,
   ⟨state4, {}, by decide +kernel, by decide +kernel, by decide +kernel⟩,
   ⟨stateA, {}, by decide +kernel, by decide +kernel, c3_0, by decide +kernel⟩,
   ⟨stateA, brArgs2, by decide +kernel, by decide +kernel⟩,
   ⟨stateA, {}, by decide +kernel⟩,
   ⟨stateA, {a:=2}, by decide +kernel, cleanS_of (by decide +kernel), .ret ({a:=2} : Args), by decide +kernel, by decide +kernel⟩,
   ⟨s1, {a:=4}, by decide +kernel, cleanS_of (by decide +kernel), .ret ({a:=4} : Args), by decide +kernel, by decide +kernel⟩,
   ⟨stateA, unitA, 0, by decide +kernel⟩,
   ⟨stateA, mUnit1, 0, ((mUnit1.run.rep).getD default), by decide +kernel⟩⟩
end WTransfers

namespace WDivergence
def pl (m : List Nat) : List (Nat × BitVec 48) := m.map fun l => (l, 1)
def reg1 : Region := { slot := 0, regs := [3,7], lanes := 15, dirty := [3] }
def base (m : Mask) (ps : List Nat) : State := { stateA with grp := { groupA with r := { p := pl ps }, units := [{ id := 2, mask := 0xF00, pc := 0x700 }] }, cur := { unitA with mask := m, pc := 0x100, region := some reg1 } }
def pend (s : State) : State := { s with flights := [{ id := 9, serial := 9, kind := .load, who := u0, dst := some 3, nregs := 1 }] }
def ent (tok : Nat) (m : Mask) (out own : Nat) (rpc : Option DWord) : StackEntry := { kind := .token, token := BitVec.ofNat 8 tok, mask := m, outstanding := out, owner := own, rpc := rpc, link := some 4 }
def ons (s : State) (e : StackEntry) (us : List MUnit) : State := { s with grp := { s.grp with stack := [(3, e),(4, ent 9 0 2 7 none)], units := us }, cur := { s.cur with top := some 3 } }
def tw (n : Nat) : MUnit := { id := n, mask := 0xF0, st := .tokenWait, top := some 3 }
def full (s : State) : State := { s with grp := { s.grp with stack := (List.range 16).map fun i => (i, ent 5 0 2 (i+1) none) } }
def twelve (s : State) (n : Nat) : State := { s with grp := { s.grp with units := (List.range n).map fun i => { id := i + 1, mask := 1, pc := 4 } } }
def b := base 0xF [0]
def sts : List State := [b, base 0xF [0,1], base 0xF [0,1,2], base 0xF [], base 0xF [0,1,2,3], base (0xF + 2^40) [0], pend b, full b, twelve b 11, twelve b 12, { twelve b 10 with grp := { (twelve b 10).grp with stack := (List.range 6).map fun i => (i+4, ent 5 0 2 (i+11) none) } },
  ons b (ent 5 0x30 2 0 none) [tw 6, { id := 7, mask := 3, pc := 8 }], ons b (ent 5 0x30 1 0 (some 0x500)) [tw 6, { id := 7, mask := 3, pc := 8 }], ons b (ent 5 0x30 1 6 (some 0x500)) [tw 6, { id := 7, mask := 3, pc := 8 }],
  ons b (ent 5 0x30 1 6 none) [{ id := 7, mask := 3, pc := 8 }, tw 9], ons b (ent 5 0x30 3 6 none) [tw 6], ons b (ent 5 0x30 2 0 none) [], pend (ons b (ent 5 0x30 2 0 none) [tw 6]),
  { b with grp := { b.grp with units := [] } }, { b with grp := { b.grp with stack := [(3, { kind := .gate })], frames := [{}] }, cur := { b.cur with top := some 3 } }, ons b {ent 5 0x30 2 0 none with kind := .trap} [tw 6]]
def state6 : State := ((sts)[6]?.getD default)
def state0 : State := ((sts)[0]?.getD default)
def brArgs2 : BrArgs := { pn := 1, off := 8 }
def state3 : State := ((sts)[3]?.getD default)
def brArgs1 : BrArgs := { sense := true, token := 5 }
def state7 : State := ((sts)[7]?.getD default)
def state8 : State := ((sts)[8]?.getD default)
def e6_0 := ((freeIndex state8.grp.stack).getD default)
def state10 : State := ((sts)[10]?.getD default)
def e7_1 := ((freeIndex state10.grp.stack).getD default)
def e8_2 := ((freeIndex state0.grp.stack).getD default)
def state11 : State := ((sts)[11]?.getD default)
def state12 : State := ((sts)[12]?.getD default)
def state19 : State := ((sts)[19]?.getD default)

theorem wit_Divergence_1 :
    (∃ s : State, (∀ u ∈ s.grp.units, u.id ≠ s.cur.id) ∧ s.waitsRelease = true ∧ ∃ x : BrArgs, s.guardU x.gp x.gn = true ∧
      let taken := s.takenLanes x.pn.toNat x.sense; taken ≠ 0 ∧ s.cur.mask &&& ~~~ taken ≠ 0) ∧
    (∃ s : State, (∀ u ∈ s.grp.units, u.id ≠ s.cur.id) ∧ s.waitsRelease = true ∧ ∃ x : Args, s.guardU x.gp x.gn = true) ∧
    (∃ s : State, (∀ u ∈ s.grp.units, u.id ≠ s.cur.id) ∧ s.waitsRelease = false ∧ ∃ x : BrArgs, s.guardU x.gp x.gn = true ∧ ∃ l, l < 1024) ∧
    (∃ s : State, (∀ u ∈ s.grp.units, u.id ≠ s.cur.id) ∧ s.waitsRelease = false ∧ ∃ x : BrArgs, s.guardU x.gp x.gn = true ∧
      let taken := s.takenLanes x.pn.toNat x.sense; taken = 0) ∧
    (∃ s : State, (∀ u ∈ s.grp.units, u.id ≠ s.cur.id) ∧ s.waitsRelease = false ∧ ∃ x : BrArgs, s.guardU x.gp x.gn = true ∧
      let taken := s.takenLanes x.pn.toNat x.sense; let fall := s.cur.mask &&& ~~~ taken; taken ≠ 0 ∧ fall = 0) ∧
    (∃ s : State, (∀ u ∈ s.grp.units, u.id ≠ s.cur.id) ∧ s.waitsRelease = false ∧ ∃ x : BrArgs, s.guardU x.gp x.gn = true ∧
      let taken := s.takenLanes x.pn.toNat x.sense; let fall := s.cur.mask &&& ~~~ taken; taken ≠ 0 ∧ fall ≠ 0 ∧ freeIndex s.grp.stack = none) ∧
    (∃ s : State, (∀ u ∈ s.grp.units, u.id ≠ s.cur.id) ∧ s.waitsRelease = false ∧ ∃ x : BrArgs, s.guardU x.gp x.gn = true ∧
      let taken := s.takenLanes x.pn.toNat x.sense; let fall := s.cur.mask &&& ~~~ taken; taken ≠ 0 ∧ fall ≠ 0 ∧ ∃ e, freeIndex s.grp.stack = some e ∧
      12 ≤ s.units.length) ∧
    (∃ s : State, (∀ u ∈ s.grp.units, u.id ≠ s.cur.id) ∧ s.waitsRelease = false ∧ ∃ x : BrArgs, s.guardU x.gp x.gn = true ∧
      let taken := s.takenLanes x.pn.toNat x.sense; let fall := s.cur.mask &&& ~~~ taken; taken ≠ 0 ∧ fall ≠ 0 ∧ ∃ e, freeIndex s.grp.stack = some e ∧
      s.units.length < 12 ∧ s.freeRecord = none) ∧
    (∃ s : State, (∀ u ∈ s.grp.units, u.id ≠ s.cur.id) ∧ s.waitsRelease = false ∧ ∃ x : BrArgs, s.guardU x.gp x.gn = true ∧
      let taken := s.takenLanes x.pn.toNat x.sense; let fall := s.cur.mask &&& ~~~ taken; taken ≠ 0 ∧ fall ≠ 0 ∧ ∃ e, freeIndex s.grp.stack = some e ∧ ∃ n,
      s.units.length < 12 ∧ s.freeRecord = some n) ∧
    (∃ s : State, (∀ u ∈ s.grp.units, u.id ≠ s.cur.id) ∧ s.waitsRelease = false ∧ ∃ x : Args, s.guardU x.gp x.gn = true ∧ (∀ i,
      s.cur.top = some i → ¬ ((s.entry i).kind = .token ∧ (s.entry i).token.toNat = x.imm))) ∧
    (∃ s : State, (∀ u ∈ s.grp.units, u.id ≠ s.cur.id) ∧ s.waitsRelease = false ∧ ∃ x : Args, s.guardU x.gp x.gn = true ∧ ∃ i, s.cur.top = some i ∧
      (s.entry i).kind = .token ∧ (s.entry i).token.toNat = x.imm ∧ 2 ≤ (s.entry i).outstanding) ∧
    (∃ s : State, (∀ u ∈ s.grp.units, u.id ≠ s.cur.id) ∧ s.waitsRelease = false ∧ ∃ x : Args, s.guardU x.gp x.gn = true ∧ ∃ i, s.cur.top = some i ∧
      (s.entry i).kind = .token ∧ (s.entry i).token.toNat = x.imm ∧ (s.entry i).outstanding = 1 ∧ (s.entry i).mask ||| s.cur.mask ≠ 0) :=
  ⟨⟨state6, by decide +kernel, by decide +kernel, {}, by decide +kernel, by decide +kernel, by decide +kernel⟩,
   ⟨state6, by decide +kernel, by decide +kernel, { c := 5 }, by decide +kernel⟩,
   ⟨state0, by decide +kernel, by decide +kernel, {}, by decide +kernel, 0, by decide +kernel⟩,
   ⟨state0, by decide +kernel, by decide +kernel, brArgs2, by decide +kernel, by decide +kernel⟩,
   ⟨state3, by decide +kernel, by decide +kernel, brArgs1, by decide +kernel, by decide +kernel, by decide +kernel⟩,
   ⟨state7, by decide +kernel, by decide +kernel, {}, by decide +kernel, by decide +kernel, by decide +kernel, by decide +kernel⟩,
   ⟨state8, by decide +kernel, by decide +kernel, {}, by decide +kernel, by decide +kernel, by decide +kernel, e6_0, by decide +kernel,
      by decide +kernel⟩,
   ⟨state10, by decide +kernel, by decide +kernel, {}, by decide +kernel, by decide +kernel, by decide +kernel, e7_1, by decide +kernel,
      by decide +kernel, by decide +kernel⟩,
   ⟨state0, by decide +kernel, by decide +kernel, {}, by decide +kernel, by decide +kernel, by decide +kernel, e8_2, by decide +kernel,
      ((state0.freeRecord).getD default), by decide +kernel, by decide +kernel⟩,
   ⟨state0, by decide +kernel, by decide +kernel, { c := 5 }, by decide +kernel, by decide +kernel⟩,
   ⟨state11, by decide +kernel, by decide +kernel, { c := 5 }, by decide +kernel, ((state11.cur.top).getD default), by decide +kernel, by decide +kernel,
      by decide +kernel, by decide +kernel⟩,
   ⟨state12, by decide +kernel, by decide +kernel, { c := 5 }, by decide +kernel, ((state12.cur.top).getD default), by decide +kernel, by decide +kernel,
      by decide +kernel, by decide +kernel, by decide +kernel⟩⟩
theorem wit_Divergence_2 :
    (∃ s : State, (∀ u ∈ s.grp.units, u.id ≠ s.cur.id) ∧ s.waitsRelease = false ∧ ∃ x : Args, s.guardU x.gp x.gn = true ∧ s.inGate = false ∧ ∃ i,
      s.cur.top = some i ∧ (s.entry i).kind = .token ∧ 2 ≤ (s.entry i).outstanding ∧ s.grp.units ≠ []) ∧
    (∃ s : State, (∀ u ∈ s.grp.units, u.id ≠ s.cur.id) ∧ s.waitsRelease = false ∧ ∃ x : Args, s.guardU x.gp x.gn = true ∧ s.inGate = false ∧
      s.cur.top = none) ∧
    (∃ s : State, (∀ u ∈ s.grp.units, u.id ≠ s.cur.id) ∧ s.waitsRelease = false ∧ ∃ x : Args, s.guardU x.gp x.gn = true ∧ s.inGate = true) :=
  ⟨⟨state11, by decide +kernel, by decide +kernel, { c := 5 }, by decide +kernel, by decide +kernel, ((state11.cur.top).getD default), by decide +kernel,
      by decide +kernel, by decide +kernel, by decide +kernel⟩,
   ⟨state0, by decide +kernel, by decide +kernel, { c := 5 }, by decide +kernel, by decide +kernel, by decide +kernel⟩,
   ⟨state19, by decide +kernel, by decide +kernel, { c := 5 }, by decide +kernel, by decide +kernel⟩⟩
end WDivergence

namespace WTraps
def reg1 : Region := { slot := 0, regs := [3,7], lanes := 15, dirty := [3] }
def tb (v : Nat) : State := { stateA with grp := { groupA with sys := { trapVec := BitVec.ofNat 64 v } }, cur := { unitA with mask := 15, pc := 0x100, region := some reg1 }, mem := (stateA.mem.writeDram 0x8000 4 0x80000000 false).writeDram 0x9000 32 0x80000000 true }
def pend (s : State) : State := { s with flights := [{ id := 9, serial := 9, kind := .load, who := u0, dst := some 3, nregs := 1 }] }
def full (s : State) : State := { s with grp := { s.grp with stack := (List.range 16).map fun i => (i, { kind := .token }) } }
def te (s : State) (k : EKind) : State := { s with grp := { s.grp with stack := [(3, { kind := k, rpc := some 0x501, mask := 3, owner := 0, link := some 4 })] }, cur := { s.cur with top := some 3, mask := 1 } }
def gt (s : State) : State := { s with grp := { s.grp with stack := [(3, { kind := .gate })], frames := [{}] }, cur := { s.cur with top := some 3 } }
def sts : List State := [tb 0x8000, tb 0x8004, tb 0x8002, tb (2^57 + 0x8000), tb 0, tb 0x4000000000, tb 0x9000, pend (tb 0x8000), full (tb 0x8000), te (tb 0x8000) .trap, pend (te (tb 0x8000) .trap), te (tb 0x8000) .token, gt (tb 0x8000), { tb 0x8000 with grp := { groupA with slot := 16 } }, { tb 0x8000 with grp := { groupA with slot := 16, units := [{id := 1}] } }]
def state12 : State := ((sts)[12]?.getD default)
def state7 : State := ((sts)[7]?.getD default)
def state8 : State := ((sts)[8]?.getD default)
def state2 : State := ((sts)[2]?.getD default)
def i3_0 := ((freeIndex state2.grp.stack).getD default)
def state5 : State := ((sts)[5]?.getD default)
def i4_1 := ((freeIndex state5.grp.stack).getD default)
def c4_2 := (match state5.fetchWord (state5.grp.sys.trapVec).toNat with | .error c => c | _ => default)
def state6 : State := ((sts)[6]?.getD default)
def i5_3 := ((freeIndex state6.grp.stack).getD default)
def w5_4 := (match state6.fetchWord (state6.grp.sys.trapVec).toNat with | .ok (w, true) => w | _ => default)
def state1 : State := ((sts)[1]?.getD default)
def i6_5 := ((freeIndex state1.grp.stack).getD default)
def w6_6 := (match state1.fetchWord (state1.grp.sys.trapVec).toNat with | .ok (w, false) => w | _ => default)
def state0 : State := ((sts)[0]?.getD default)
def i7_7 := ((freeIndex state0.grp.stack).getD default)
def w7_8 := (match state0.fetchWord (state0.grp.sys.trapVec).toNat with | .ok (w, false) => w | _ => default)
def state10 : State := ((sts)[10]?.getD default)
def state9 : State := ((sts)[9]?.getD default)
def state11 : State := ((sts)[11]?.getD default)
def state13 : State := ((sts)[13]?.getD default)

theorem wit_Traps_1 :
    (∃ x : Args, ∃ s : State, s.guardU x.gp x.gn = true ∧ s.inGate = true) ∧
    (∃ x : Args, ∃ s : State, s.guardU x.gp x.gn = true ∧ s.inGate = false ∧ s.waitsRelease = true) ∧
    (∃ x : Args, ∃ s : State, s.guardU x.gp x.gn = true ∧ s.inGate = false ∧ s.waitsRelease = false ∧ freeIndex s.grp.stack = none) ∧
    (∃ x : Args, ∃ s : State, s.guardU x.gp x.gn = true ∧ let vec := s.grp.sys.trapVec; let named := vec ≠ 0 ∧ vec.toNat < 2 ^ 57 ∧ vec.toNat % 4 = 0;
      s.inGate = false ∧ s.waitsRelease = false ∧ ∃ i, freeIndex s.grp.stack = some i ∧ ¬ named) ∧
    (∃ x : Args, ∃ s : State, s.guardU x.gp x.gn = true ∧ let vec := s.grp.sys.trapVec; let named := vec ≠ 0 ∧ vec.toNat < 2 ^ 57 ∧ vec.toNat % 4 = 0;
      s.inGate = false ∧ s.waitsRelease = false ∧ ∃ i, freeIndex s.grp.stack = some i ∧ named ∧ ∃ c, s.fetchWord vec.toNat = .error c) ∧
    (∃ x : Args, ∃ s : State, s.guardU x.gp x.gn = true ∧ let vec := s.grp.sys.trapVec; let named := vec ≠ 0 ∧ vec.toNat < 2 ^ 57 ∧ vec.toNat % 4 = 0;
      s.inGate = false ∧ s.waitsRelease = false ∧ ∃ i, freeIndex s.grp.stack = some i ∧ named ∧ ∃ w, s.fetchWord vec.toNat = .ok (w, true)) ∧
    (∃ x : Args, ∃ s : State, s.guardU x.gp x.gn = true ∧ let vec := s.grp.sys.trapVec; let named := vec ≠ 0 ∧ vec.toNat < 2 ^ 57 ∧ vec.toNat % 4 = 0;
      s.inGate = false ∧ s.waitsRelease = false ∧ ∃ i, freeIndex s.grp.stack = some i ∧ named ∧ ∃ w, s.fetchWord vec.toNat = .ok (w, false) ∧
      w / 2 ^ 25 % 2 ^ 7 ≠ 0x40) ∧
    (∃ x : Args, ∃ s : State, s.guardU x.gp x.gn = true ∧ let vec := s.grp.sys.trapVec; let named := vec ≠ 0 ∧ vec.toNat < 2 ^ 57 ∧ vec.toNat % 4 = 0;
      s.inGate = false ∧ s.waitsRelease = false ∧ ∃ i, freeIndex s.grp.stack = some i ∧ named ∧ ∃ w, s.fetchWord vec.toNat = .ok (w, false) ∧
      w / 2 ^ 25 % 2 ^ 7 = 0x40) ∧
    (∃ x : Args, ∃ s : State, s.guardU x.gp x.gn = true ∧ ∃ i, s.cur.top = some i ∧ (s.entry i).kind = .trap ∧ s.waitsRelease = true) ∧
    (∃ x : Args, ∃ s : State, s.guardU x.gp x.gn = true ∧ ∃ i, s.cur.top = some i ∧ (s.entry i).kind = .trap ∧ s.waitsRelease = false) ∧
    (∃ x : Args, ∃ s : State, s.guardU x.gp x.gn = true ∧ s.cur.top = none) ∧
    (∃ x : Args, ∃ s : State, s.guardU x.gp x.gn = true ∧ s.waitsRelease = false ∧ ∃ i, s.cur.top = some i ∧ (s.entry i).kind ≠ .trap) :=
  ⟨⟨{ c := 5 }, state12, by decide +kernel, by decide +kernel⟩,
   ⟨{ c := 5 }, state7, by decide +kernel, by decide +kernel, by decide +kernel⟩,
   ⟨{ c := 5 }, state8, by decide +kernel, by decide +kernel, by decide +kernel, by decide +kernel⟩,
   ⟨{ c := 5 }, state2, by decide +kernel, by decide +kernel, by decide +kernel, i3_0, by decide +kernel, by decide +kernel⟩,
   ⟨{ c := 5 }, state5, by decide +kernel, by decide +kernel, by decide +kernel, i4_1, by decide +kernel, by decide +kernel, c4_2, by decide +kernel⟩,
   ⟨{ c := 5 }, state6, by decide +kernel, by decide +kernel, by decide +kernel, i5_3, by decide +kernel, by decide +kernel, w5_4, by decide +kernel⟩,
   ⟨{ c := 5 }, state1, by decide +kernel, by decide +kernel, by decide +kernel, i6_5, by decide +kernel, by decide +kernel, w6_6, by decide +kernel,
      by decide +kernel⟩,
   ⟨{ c := 5 }, state0, by decide +kernel, by decide +kernel, by decide +kernel, i7_7, by decide +kernel, by decide +kernel, w7_8, by decide +kernel,
      by decide +kernel⟩,
   ⟨{ c := 5 }, state10, by decide +kernel, ((state10.cur.top).getD default), by decide +kernel, by decide +kernel, by decide +kernel⟩,
   ⟨{ c := 5 }, state9, by decide +kernel, ((state9.cur.top).getD default), by decide +kernel, by decide +kernel, by decide +kernel⟩,
   ⟨{ c := 5 }, state0, by decide +kernel, by decide +kernel⟩,
   ⟨{ c := 5 }, state11, by decide +kernel, by decide +kernel, ((state11.cur.top).getD default), by decide +kernel, by decide +kernel⟩⟩
theorem wit_Traps_2 :
    (∃ x : Args, ∃ s : State, s.guardU x.gp x.gn = true ∧ s.grp.slot ≠ 16) ∧
    (∃ x : Args, ∃ s : State, s.guardU x.gp x.gn = true ∧ s.grp.slot = 16) :=
  ⟨⟨{ c := 5 }, state0, by decide +kernel, by decide +kernel⟩,
   ⟨{ c := 5 }, state13, by decide +kernel, by decide +kernel⟩⟩
end WTraps

namespace WGateCalls
def ge (pc va vr sa sr cb dom : Nat) (nest : Bool) : BitVec 128 := BitVec.ofNat 128 (pc + va * 2^62 + vr * 2^70 + sa * 2^78 + sr * 2^86 + 0 * 2^94 + 1 * 2^102 + (cb/8 - 1) * 2^111 + dom * 2^116 + (if nest then 2^125 else 0) + 2^127)
def domB : BitVec 512 := domA ||| BitVec.ofNat 512 (0x20000 * 2^192 + (2^256 - 1) * 2^256)
def partG : Partition := { partA with domains := [(0, domA ||| BitVec.ofNat 512 ((2^256-1) * 2^256)), (1, domB)], gates := [(5, ge 0x8000 2 1 3 2 16 1 true), (6, ge 0x8000 8 8 128 128 64 1 false), (7, ge 0x8001 2 1 3 2 72 1 true), (8, 0), (9, ge 0x8000 20 1 3 2 16 1 true), (10, ge 0x8000 2 1 129 2 16 1 true), (11, ge 0x8000 2 1 3 2 16 3 true)] }
def vs : List (Nat × PWord) := (List.range 3).flatMap fun l => (List.range 70).map fun k => (l*256 + k, ⟨BitVec.ofNat 32 (l*1000+k+1), k == 5⟩)
def gp (n : Nat) : Parked := { why := .gate, instr := .gate { c := BitVec.ofNat 8 n }, serial := 40, aux := n }
def gb : State := { stateA with team := { teamA with size := 2^20 }, parts := [(0, partG)], grp := { groupA with r := { s := [(0,⟨7,false⟩),(2,⟨8,true⟩),(3,⟨9,false⟩),(127,⟨3,false⟩)], q := 5, v := vs, p := [(0, 7)], fbits := 3, x := [(2, 9)] }, units := [{ id := 3, mask := 6, st := .ready, pc := 0x77 }, { id := 4, mask := 8, st := .tokenWait }, { id := 5, mask := 16, st := .loading }, { id := 6, mask := 32, st := .parked (gp 5) }] }, cur := { unitA with pc := 0x100, mask := 5, run := { left := 0 } }, mem := stateA.mem.writeDram 0x20000 64 layoutA.toNat false }
def atp (n : Nat) (s : State) : State := parkedA s (gp n)
def fr : GateFrame := { entry := ge 0x8000 2 1 3 2 16 1 false, num := 5, domain := 0, budget := 64, s := [(2,⟨44,false⟩),(50,⟨45,true⟩)], q := 0x8009, x := [(1, 4)], fbits := 5 }
def frn : GateFrame := { fr with entry := ge 0x8000 2 1 3 2 16 1 true }
def gr : Parked := { why := .gret, instr := .gret {}, serial := 40 }
def inn (f : GateFrame) (s : State) : State := { s with grp := { s.grp with frames := [f], sys := { domain := 1 }, stack := [(2, { kind := .gate, rpc := some 0x105, mask := 7, owner := 0, link := none })] }, cur := { s.cur with top := some 2 } }
def bud (n : Nat) (s : State) : State := { s with grp := { s.grp with budget := n } }
def sts : List State := [gb, withS gb [(2, 255)], withS gb [(2,256)], withS (inn fr gb) [(2, 3)], atp 5 gb, atp 6 gb, atp 7 gb, atp 8 gb, atp 9 gb, atp 10 gb, atp 11 gb, atp 5 (inn fr gb), atp 5 (inn frn gb), { atp 5 (inn frn gb) with cur := { (atp 5 (inn frn gb)).cur with top := none } },
  parkedA (inn fr gb) gr, parkedA (inn { fr with entry := ge 0x8000 2 16 3 128 16 1 false } gb) gr, bud 256 (atp 5 gb), bud 256 (parkedA (inn fr gb) gr), bud 72 (atp 7 gb), atp 5 { gb with team := {teamA with size := 16384} }, atp 5 { gb with team := {teamA with size := 16383} }]
def args0 : Args := { c := 5, a := 2 }
def state1 : State := ((sts)[1]?.getD default)
def state2 : State := ((sts)[2]?.getD default)
def state3 : State := ((sts)[3]?.getD default)
def state0 : State := ((sts)[0]?.getD default)
def state13 : State := ((sts)[13]?.getD default)
def state6 : State := ((sts)[6]?.getD default)
def c5_0 := (((selOf state6 u0).gateChecks (parkOf (selOf state6 u0)).aux (sget (0 : BitVec 128) (selOf state6 u0).myPart.gates (parkOf (selOf state6 u0)).aux)).getD default)
def state4 : State := ((sts)[4]?.getD default)
def ei6_1 := ((freeIndex (selOf state4 u0).grp.stack).getD default)
def state14 : State := ((sts)[14]?.getD default)
def gi7_2 := (((selOf state14 u0).cur.top).getD default)
def f7_3 := (match (selOf state14 u0).grp.frames with | f :: _ => f | _ => default)
def rest7_4 := (match (selOf state14 u0).grp.frames with | _ :: rest => rest | _ => default)

theorem wit_GateCalls :
    (∃ x : Args, ∃ s : State, s.guardU x.gp x.gn = true ∧ s.CleanS [x.a.toNat] ∧ s.sr x.a.toNat < 256) ∧
    (∃ x : Args, ∃ s : State, s.guardU x.gp x.gn = true ∧ s.CleanS [x.a.toNat] ∧ 256 ≤ s.sr x.a.toNat) ∧
    (∃ x : Args, ∃ s : State, s.guardU x.gp x.gn = true ∧ s.topKind = .gate) ∧
    (∃ x : Args, ∃ s : State, s.guardU x.gp x.gn = true ∧ s.topKind ≠ .gate) ∧
    (∃ u : UnitRef, ∃ s : State, ∃ t : State, ∃ p : Parked, WaitsOn s u .gate t p ∧ t.quiesced p.serial = true ∧ t.cur.region = none ∧ t.grp.budget ≤ 256 ∧
      t.grp.holds t.cur = true) ∧
    (∃ u : UnitRef, ∃ s : State, ∃ t : State, ∃ p : Parked, WaitsOn s u .gate t p ∧ t.quiesced p.serial = true ∧ t.cur.region = none ∧ t.grp.budget ≤ 256 ∧
      t.grp.holds t.cur = false ∧ let e := sget (0 : BitVec 128) t.myPart.gates p.aux; ∃ c, t.gateChecks p.aux e = some c) ∧
    (∃ u : UnitRef, ∃ s : State, ∃ t : State, ∃ p : Parked, WaitsOn s u .gate t p ∧ t.quiesced p.serial = true ∧ t.cur.region = none ∧ t.grp.budget ≤ 256 ∧
      t.grp.holds t.cur = false ∧ let e := sget (0 : BitVec 128) t.myPart.gates p.aux; let b := t.budget; let cb := geCb e; ∃ ei,
      freeIndex t.grp.stack = some ei ∧ geValid e = true ∧ domValid (t.myPart.domain (geDomain e)) = true ∧ domGate t.myDomain p.aux = true ∧
      t.gateDepth < 4 ∧ (∀ f, t.frame? = some f → geNest f.entry = true) ∧ cb ≤ b ∧ b ≤ t.grp.budget ∧ geVargs e ≤ cb ∧ geVret e ≤ cb ∧ geSargs e ≤ 128 ∧
      geSret e ≤ 128 ∧ geSpBase e + geSpSize e ≤ t.team.size / 16384) ∧
    (∃ u : UnitRef, ∃ s : State, ∃ t : State, ∃ p : Parked, ∃ gi : Nat, ∃ f : GateFrame, ∃ rest : List GateFrame, WaitsOn s u .gret t p ∧
      t.quiesced p.serial = true ∧ t.cur.region = none ∧ t.cur.top = some gi ∧ t.grp.frames = f :: rest ∧ t.grp.budget ≤ 256 ∧ f.budget ≤ t.grp.budget ∧
      geCb f.entry ≤ f.budget ∧ geVret f.entry ≤ geCb f.entry) :=
  ⟨⟨args0, state1, by decide +kernel, cleanS_of (by decide +kernel), by decide +kernel⟩,
   ⟨args0, state2, by decide +kernel, cleanS_of (by decide +kernel), by decide +kernel⟩,
   ⟨args0, state3, by decide +kernel, by decide +kernel⟩,
   ⟨args0, state0, by decide +kernel, by decide +kernel⟩,
   ⟨u0, state13, (selOf state13 u0), (parkOf (selOf state13 u0)), ⟨by decide +kernel, by decide +kernel, by decide +kernel, by decide +kernel⟩,
      by decide +kernel, by decide +kernel, by decide +kernel, by decide +kernel⟩,
   ⟨u0, state6, (selOf state6 u0), (parkOf (selOf state6 u0)), ⟨by decide +kernel, by decide +kernel, by decide +kernel, by decide +kernel⟩,
      by decide +kernel, by decide +kernel, by decide +kernel, by decide +kernel, c5_0, by decide +kernel⟩,
   ⟨u0, state4, (selOf state4 u0), (parkOf (selOf state4 u0)), ⟨by decide +kernel, by decide +kernel, by decide +kernel, by decide +kernel⟩,
      by decide +kernel, by decide +kernel, by decide +kernel, by decide +kernel, ei6_1, by decide +kernel, by decide +kernel, by decide +kernel,
      by decide +kernel, by decide +kernel, by decide +kernel, by decide +kernel, by decide +kernel, by decide +kernel, by decide +kernel,
      by decide +kernel, by decide +kernel, by decide +kernel⟩,
   ⟨u0, state14, (selOf state14 u0), (parkOf (selOf state14 u0)), gi7_2, f7_3, rest7_4, ⟨by decide +kernel, by decide +kernel, by decide +kernel,
      by decide +kernel⟩, by decide +kernel, by decide +kernel, by decide +kernel, by decide +kernel, by decide +kernel, by decide +kernel,
      by decide +kernel, by decide +kernel⟩⟩
end WGateCalls

namespace WLayouts
def lay2 := stateA.mem.writeDram 0x5000 64 layoutA.toNat false
def sl (v : Word) : State := withS stateA [(2, v)]
def px : Parked := { why := .lbind, instr := .lbind {d := 3, a := 2}, serial := 4, aux := 0x5000 }
def pb : Parked := { why := .lbind, instr := .lbind {d := 3, a := 2}, serial := 4, aux := 0x6000 }
def pc : Parked := { why := .lbind, instr := .lbind {d := 3, a := 2}, serial := 4, aux := 2^40 }
def mb : Memory := lay2.writeDram 0x6000 64 0x700000 false
def sts : List State := [{ sl 3 with team := { (sl 3).team with slots := [(0, BitVec.ofNat 512 (7*2^64 + 6*2^70))] } }, sl 1, sl 3, sl 0, sl 64, sl (-1), sl 8, sl 0x2000, sl 0x2004,
  parkedA {stateA with mem := mb} px, parkedA {stateA with mem := mb} pb, parkedA {stateA with mem := mb} pc, { sl 3 with grp := {(sl 3).grp with frames := [{}], stack := [(0, {kind:= .gate})]}, cur := {unitA with top := some 0} }]
def allArgs : List Args := ((List.range 41).map fun b => ({d := 0, a := 2, b := BitVec.ofNat 8 b}:Args)) ++ ((List.range 41).map fun b => ({d := 0, a := 0, b := BitVec.ofNat 8 b}:Args)) ++ [{a:=2,d:=3}, {a:=0,d:=3}, {a:=0,b:=40}]
def args0 : Args := ((allArgs)[0]?.getD default)
def state3 : State := ((sts)[3]?.getD default)
def args2 : Args := ((allArgs)[2]?.getD default)
def state4 : State := ((sts)[4]?.getD default)
def state0 : State := ((sts)[0]?.getD default)
def args41 : Args := ((allArgs)[41]?.getD default)
def args32 : Args := ((allArgs)[32]?.getD default)
def state1 : State := ((sts)[1]?.getD default)
def args73 : Args := ((allArgs)[73]?.getD default)
def args24 : Args := ((allArgs)[24]?.getD default)
def args65 : Args := ((allArgs)[65]?.getD default)
def args81 : Args := ((allArgs)[81]?.getD default)
def state12 : State := ((sts)[12]?.getD default)
def state11 : State := ((sts)[11]?.getD default)
def x15_0 := (match (parkOf (selOf state11 (⟨⟨5,0⟩,0⟩ : UnitRef))).instr with | .lbind x => x | _ => default)
def c15_1 := (match (selOf state11 (⟨⟨5,0⟩,0⟩ : UnitRef)).translate (selOf state11 (⟨⟨5,0⟩,0⟩ : UnitRef)).team.part (selOf state11 (⟨⟨5,0⟩,0⟩ : UnitRef)).dom (parkOf (selOf state11 (⟨⟨5,0⟩,0⟩ : UnitRef))).aux with | .error c => c | _ => default)
def state9 : State := ((sts)[9]?.getD default)
def x16_2 := (match (parkOf (selOf state9 (⟨⟨5,0⟩,0⟩ : UnitRef))).instr with | .lbind x => x | _ => default)
def ph16_3 := (match (selOf state9 (⟨⟨5,0⟩,0⟩ : UnitRef)).translate (selOf state9 (⟨⟨5,0⟩,0⟩ : UnitRef)).team.part (selOf state9 (⟨⟨5,0⟩,0⟩ : UnitRef)).dom (parkOf (selOf state9 (⟨⟨5,0⟩,0⟩ : UnitRef))).aux with | .ok ph => ph | _ => default)
def state10 : State := ((sts)[10]?.getD default)
def x17_4 := (match (parkOf (selOf state10 (⟨⟨5,0⟩,0⟩ : UnitRef))).instr with | .lbind x => x | _ => default)
def ph17_5 := (match (selOf state10 (⟨⟨5,0⟩,0⟩ : UnitRef)).translate (selOf state10 (⟨⟨5,0⟩,0⟩ : UnitRef)).team.part (selOf state10 (⟨⟨5,0⟩,0⟩ : UnitRef)).dom (parkOf (selOf state10 (⟨⟨5,0⟩,0⟩ : UnitRef))).aux with | .ok ph => ph | _ => default)

theorem wit_Layouts_1 :
    (∃ x : Args, ∃ s : State, s.guardU x.gp x.gn = true ∧ (s.inGate = true → s.frame? ≠ none) ∧ let d := x.d.toNat; let code := x.b.toNat;
      let A : PWord := s.sreg x.a.toNat; let y := s.slot d; ∃ f ∈ ([(0, 0, 32), (1, 32, 32), (2, 64, 3), (3, 67, 3), (4, 70, 3), (5, 73, 1), (6, 74, 1), (7,
      75, 2), (8, 77, 3), (9, 80, 10), (10, 90, 6), (16, 128, 32), (17, 160, 32), (18, 192, 32), (19, 224, 32), (20, 256, 32)] : List (Nat × Nat × Nat)),
      code = f.1 ∧ let z : BitVec 512 := (y &&& ~~~ (BitVec.ofNat 512 (2 ^ f.2.2 - 1) <<< f.2.1)) ||| (A.val.zeroExtend 512 <<< f.2.1); A.poison = false ∧
      y ≠ 0 ∧ A.val.toNat < 2 ^ f.2.2 ∧ lyWellFormed z = true) ∧
    (∃ x : Args, ∃ s : State, s.guardU x.gp x.gn = true ∧ (s.inGate = true → s.frame? ≠ none) ∧ let d := x.d.toNat; let code := x.b.toNat;
      let A : PWord := s.sreg x.a.toNat; let y := s.slot d; ∃ f ∈ ([(0, 0, 32), (1, 32, 32), (2, 64, 3), (3, 67, 3), (4, 70, 3), (5, 73, 1), (6, 74, 1), (7,
      75, 2), (8, 77, 3), (9, 80, 10), (10, 90, 6), (16, 128, 32), (17, 160, 32), (18, 192, 32), (19, 224, 32), (20, 256, 32)] : List (Nat × Nat × Nat)),
      code = f.1 ∧ A.poison = false ∧ y ≠ 0 ∧ 2 ^ f.2.2 ≤ A.val.toNat) ∧
    (∃ x : Args, ∃ s : State, s.guardU x.gp x.gn = true ∧ (s.inGate = true → s.frame? ≠ none) ∧ let d := x.d.toNat; let code := x.b.toNat;
      let A : PWord := s.sreg x.a.toNat; let y := s.slot d; ∃ f ∈ ([(0, 0, 32), (1, 32, 32), (2, 64, 3), (3, 67, 3), (4, 70, 3), (5, 73, 1), (6, 74, 1), (7,
      75, 2), (8, 77, 3), (9, 80, 10), (10, 90, 6), (16, 128, 32), (17, 160, 32), (18, 192, 32), (19, 224, 32), (20, 256, 32)] : List (Nat × Nat × Nat)),
      code = f.1 ∧ let z : BitVec 512 := (y &&& ~~~ (BitVec.ofNat 512 (2 ^ f.2.2 - 1) <<< f.2.1)) ||| (A.val.zeroExtend 512 <<< f.2.1); A.poison = false ∧
      y ≠ 0 ∧ A.val.toNat < 2 ^ f.2.2 ∧ lyWellFormed z = false) ∧
    (∃ x : Args, ∃ s : State, s.guardU x.gp x.gn = true ∧ (s.inGate = true → s.frame? ≠ none) ∧ let code := x.b.toNat; let q := s.slot x.a.toNat;
      ∃ f ∈ ([(0, 0, 32), (1, 32, 32), (2, 64, 3), (3, 67, 3), (4, 70, 3), (5, 73, 1), (6, 74, 1), (7, 75, 2), (8, 77, 3), (9, 80, 10), (10, 90, 6), (16,
      128, 32), (17, 160, 32), (18, 192, 32), (19, 224, 32), (20, 256, 32)] : List (Nat × Nat × Nat)), code = f.1 ∧ q ≠ 0) ∧
    (∃ x : Args, ∃ s : State, s.guardU x.gp x.gn = true ∧ (s.inGate = true → s.frame? ≠ none) ∧ let d := x.d.toNat; let code := x.b.toNat;
      let A : PWord := s.sreg x.a.toNat; let y := s.slot d; ∃ f ∈ ([(32, 320), (33, 360), (34, 400), (35, 440), (36, 480)] : List (Nat × Nat)), code = f.1 ∧
      let z : BitVec 512 := (y &&& ~~~ ((255 : BitVec 512) <<< f.2)) ||| ((A.val &&& 255).zeroExtend 512 <<< f.2); A.poison = false ∧ y ≠ 0 ∧
      lyWellFormed z = true) ∧
    (∃ x : Args, ∃ s : State, s.guardU x.gp x.gn = true ∧ (s.inGate = true → s.frame? ≠ none) ∧ let d := x.d.toNat; let code := x.b.toNat;
      let A : PWord := s.sreg x.a.toNat; let y := s.slot d; ∃ f ∈ ([(32, 320), (33, 360), (34, 400), (35, 440), (36, 480)] : List (Nat × Nat)), code = f.1 ∧
      let z : BitVec 512 := (y &&& ~~~ ((255 : BitVec 512) <<< f.2)) ||| ((A.val &&& 255).zeroExtend 512 <<< f.2); A.poison = false ∧ y ≠ 0 ∧
      lyWellFormed z = false) ∧
    (∃ x : Args, ∃ s : State, s.guardU x.gp x.gn = true ∧ (s.inGate = true → s.frame? ≠ none) ∧ let code := x.b.toNat; let q := s.slot x.a.toNat;
      ∃ f ∈ ([(32, 320), (33, 360), (34, 400), (35, 440), (36, 480)] : List (Nat × Nat)), code = f.1 ∧ q ≠ 0) ∧
    (∃ x : Args, ∃ s : State, s.guardU x.gp x.gn = true ∧ (s.inGate = true → s.frame? ≠ none) ∧ let d := x.d.toNat; let code := x.b.toNat;
      let A : PWord := s.sreg x.a.toNat; let y := s.slot d; ∃ i, i < 5 ∧ code = 24 + i ∧
      let z : BitVec 512 := (y &&& ~~~ (BitVec.ofNat 512 (2 ^ 40 - 1) <<< (288 + 40 * i))) ||| ((A.val.signExtend 40).zeroExtend 512 <<< (288 + 40 * i));
      A.poison = false ∧ y ≠ 0 ∧ lyWellFormed z = true) ∧
    (∃ x : Args, ∃ s : State, s.guardU x.gp x.gn = true ∧ (s.inGate = true → s.frame? ≠ none) ∧ let d := x.d.toNat; let code := x.b.toNat;
      let A : PWord := s.sreg x.a.toNat; let y := s.slot d; ∃ i, i < 5 ∧ code = 24 + i ∧
      let z : BitVec 512 := (y &&& ~~~ (BitVec.ofNat 512 (2 ^ 40 - 1) <<< (288 + 40 * i))) ||| ((A.val.signExtend 40).zeroExtend 512 <<< (288 + 40 * i));
      A.poison = false ∧ y ≠ 0 ∧ lyWellFormed z = false) ∧
    (∃ x : Args, ∃ s : State, s.guardU x.gp x.gn = true ∧ (s.inGate = true → s.frame? ≠ none) ∧ let code := x.b.toNat; let q := s.slot x.a.toNat; ∃ i,
      i < 5 ∧ code = 24 + i ∧ q ≠ 0) ∧
    (∃ x : Args, ∃ s : State, s.guardU x.gp x.gn = true ∧ (s.inGate = true → s.frame? ≠ none) ∧ let code := x.b.toNat; let q := s.slot x.a.toNat;
      code = 40 ∧ q ≠ 0) ∧
    (∃ x : Args, ∃ s : State, s.guardU x.gp x.gn = true ∧ (s.inGate = true → s.frame? ≠ none) ∧ let d := x.d.toNat; let A : PWord := s.sreg x.a.toNat;
      let y := s.slot d; A.poison = false ∧ y = 0) :=
  ⟨⟨args0, state3, by decide +kernel, by decide +kernel, ((0, 0, 32) : Nat × Nat × Nat), by decide +kernel, by decide +kernel, by decide +kernel,
      by decide +kernel, by decide +kernel, by decide +kernel⟩,
   ⟨args2, state4, by decide +kernel, by decide +kernel, ((2, 64, 3) : Nat × Nat × Nat), by decide +kernel, by decide +kernel, by decide +kernel,
      by decide +kernel, by decide +kernel⟩,
   ⟨args0, state0, by decide +kernel, by decide +kernel, ((0, 0, 32) : Nat × Nat × Nat), by decide +kernel, by decide +kernel, by decide +kernel,
      by decide +kernel, by decide +kernel, by decide +kernel⟩,
   ⟨args41, state0, by decide +kernel, by decide +kernel, ((0, 0, 32) : Nat × Nat × Nat), by decide +kernel, by decide +kernel, by decide +kernel⟩,
   ⟨args32, state1, by decide +kernel, by decide +kernel, ((32, 320) : Nat × Nat), by decide +kernel, by decide +kernel, by decide +kernel,
      by decide +kernel, by decide +kernel⟩,
   ⟨args32, state0, by decide +kernel, by decide +kernel, ((32, 320) : Nat × Nat), by decide +kernel, by decide +kernel, by decide +kernel,
      by decide +kernel, by decide +kernel⟩,
   ⟨args73, state0, by decide +kernel, by decide +kernel, ((32, 320) : Nat × Nat), by decide +kernel, by decide +kernel, by decide +kernel⟩,
   ⟨args24, state1, by decide +kernel, by decide +kernel, 0, by decide +kernel, by decide +kernel, by decide +kernel, by decide +kernel,
      by decide +kernel⟩,
   ⟨args24, state0, by decide +kernel, by decide +kernel, 0, by decide +kernel, by decide +kernel, by decide +kernel, by decide +kernel,
      by decide +kernel⟩,
   ⟨args65, state0, by decide +kernel, by decide +kernel, 0, by decide +kernel, by decide +kernel, by decide +kernel⟩,
   ⟨args81, state0, by decide +kernel, by decide +kernel, by decide +kernel, by decide +kernel⟩,
   ⟨args0, state12, by decide +kernel, by decide +kernel, by decide +kernel, by decide +kernel⟩⟩
theorem wit_Layouts_2 :
    (∃ x : Args, ∃ s : State, s.guardU x.gp x.gn = true ∧ (s.inGate = true → s.frame? ≠ none) ∧ let q := s.slot x.a.toNat; q = 0) ∧
    (∃ x : Args, ∃ s : State, s.guardU x.gp x.gn = true ∧ s.CleanS [x.a.toNat, x.a.toNat + 1] ∧ let va := (s.pairS x.a.toNat).toNat; va % 64 = 0) ∧
    (∃ x : Args, ∃ s : State, s.guardU x.gp x.gn = true ∧ s.CleanS [x.a.toNat, x.a.toNat + 1] ∧ let va := (s.pairS x.a.toNat).toNat; va % 64 ≠ 0) ∧
    (∃ u : UnitRef, ∃ s : State, ∃ t : State, ∃ p : Parked, ∃ x : Args, WaitsOn s u .lbind t p ∧ p.instr = .lbind x ∧ (t.inGate = true → t.frame? ≠ none) ∧
      ∃ c, t.translate t.team.part t.dom p.aux = .error c) ∧
    (∃ u : UnitRef, ∃ s : State, ∃ t : State, ∃ p : Parked, ∃ x : Args, WaitsOn s u .lbind t p ∧ p.instr = .lbind x ∧ (t.inGate = true → t.frame? ≠ none) ∧
      ∃ ph, t.translate t.team.part t.dom p.aux = .ok ph ∧ t.heldWrite ph.place 64 p.serial = false ∧ t.mem.physBad ph 64 = false ∧
      let y := BitVec.ofNat 512 (t.mem.readPhys ph 64); lyWellFormed y = true) ∧
    (∃ u : UnitRef, ∃ s : State, ∃ t : State, ∃ p : Parked, ∃ x : Args, WaitsOn s u .lbind t p ∧ p.instr = .lbind x ∧ (t.inGate = true → t.frame? ≠ none) ∧
      ∃ ph, t.translate t.team.part t.dom p.aux = .ok ph ∧ t.heldWrite ph.place 64 p.serial = false ∧ t.mem.physBad ph 64 = false ∧
      let y := BitVec.ofNat 512 (t.mem.readPhys ph 64); lyWellFormed y = false) :=
  ⟨⟨args0, state0, by decide +kernel, by decide +kernel, by decide +kernel⟩,
   ⟨args0, state3, by decide +kernel, cleanS_of (by decide +kernel), by decide +kernel⟩,
   ⟨args0, state0, by decide +kernel, cleanS_of (by decide +kernel), by decide +kernel⟩,
   ⟨⟨⟨5,0⟩,0⟩, state11, (selOf state11 (⟨⟨5,0⟩,0⟩ : UnitRef)), (parkOf (selOf state11 (⟨⟨5,0⟩,0⟩ : UnitRef))), x15_0, ⟨by decide +kernel,
      by decide +kernel, by decide +kernel, by decide +kernel⟩, by decide +kernel, by decide +kernel, c15_1, by decide +kernel⟩,
   ⟨⟨⟨5,0⟩,0⟩, state9, (selOf state9 (⟨⟨5,0⟩,0⟩ : UnitRef)), (parkOf (selOf state9 (⟨⟨5,0⟩,0⟩ : UnitRef))), x16_2, ⟨by decide +kernel, by decide +kernel,
      by decide +kernel, by decide +kernel⟩, by decide +kernel, by decide +kernel, ph16_3, by decide +kernel, by decide +kernel, by decide +kernel,
      by decide +kernel⟩,
   ⟨⟨⟨5,0⟩,0⟩, state10, (selOf state10 (⟨⟨5,0⟩,0⟩ : UnitRef)), (parkOf (selOf state10 (⟨⟨5,0⟩,0⟩ : UnitRef))), x17_4, ⟨by decide +kernel,
      by decide +kernel, by decide +kernel, by decide +kernel⟩, by decide +kernel, by decide +kernel, ph17_5, by decide +kernel, by decide +kernel,
      by decide +kernel, by decide +kernel⟩⟩
end WLayouts

namespace WRegions
def g1 : Region := { slot := 1, regs := [3,5], lanes := 1, dirty := [5], main := [(3, none), (5, some ⟨7,false⟩)] }
def g2 : Region := { slot := 1, regs := [3,5], lanes := 1, resident := false, loading := true }
def fl (ch ser : Nat) : Flight := { id := ser, kind := .store, who := ⟨⟨5,0⟩,0⟩, chan := some ch, key := some ⟨5,ch,0⟩, seq := some 0, serial := ser, place := .dram 0x9000, part := 0, data := 5 }
def sts : List State := [{ stateA with flights := [{ (fl 2 1 : Flight) with kind := .load, dst := some 3, nregs := 1 }] }, { stateA with flights := [{ (fl 2 1 : Flight) with kind := .load, dst := some 3, nregs := 1 }], cur := { unitA with region := some g1 } }, stateA, { stateA with cur := { unitA with mask := 0x80000001 }, grp := {groupA with r := {v := [(5,⟨9,false⟩),(7,⟨1,true⟩)]}, units := [{id:=1, mask := 2}]} },
  { stateA with cur := { unitA with region := some g1 }, grp := {groupA with r := {v := [(3,⟨2,false⟩),(5,⟨9,false⟩)]}} },
  { stateA with cur := { unitA with region := some g2, st := .loading } },
  { stateA with cur := { unitA with region := some { g1 with main := [(5, some ⟨7,false⟩)] } }, grp := {groupA with r := {v := [(3,⟨2,false⟩),(5,⟨9,false⟩)]}} }]
def state0 : State := ((sts)[0]?.getD default)
def state2 : State := ((sts)[2]?.getD default)
def state1 : State := ((sts)[1]?.getD default)
def state5 : State := ((sts)[5]?.getD default)
def t5_0 := ((state5.select (⟨⟨5,0⟩,0⟩ : UnitRef)).getD default)
def n5_1 := ((freeRegionSlot (t5_0.regionHolders t5_0.grp.core t5_0.grp.pipe)).getD default)
def state6 : State := ((sts)[6]?.getD default)

theorem wit_Regions :
    (∃ regs : List (BitVec 8), ∃ s : State, s.cur.st ≠ .ended ∧ (∀ u ∈ s.grp.units, u.id ≠ s.cur.id) ∧
      let waits := s.waitsRelease = true ∨ s.pendingV (regs.map fun r => r.toNat) = true ∨ (regs ≠ [] ∧ ∃ v, s.evicts = some v ∧ s.releaseWaits v.1.group v.2 = true);
      waits) ∧
    (∃ regs : List (BitVec 8), ∃ s : State, s.cur.st ≠ .ended ∧ (∀ u ∈ s.grp.units, u.id ≠ s.cur.id) ∧
      let waits := s.waitsRelease = true ∨ s.pendingV (regs.map fun r => r.toNat) = true ∨ (regs ≠ [] ∧ ∃ v, s.evicts = some v ∧ s.releaseWaits v.1.group v.2 = true);
      ¬ waits ∧ (∃ r ∈ regs, s.budget ≤ r.toNat)) ∧
    (∃ regs : List (BitVec 8), ∃ s : State, s.cur.st ≠ .ended ∧ (∀ u ∈ s.grp.units, u.id ≠ s.cur.id) ∧
      let waits := s.waitsRelease = true ∨ s.pendingV (regs.map fun r => r.toNat) = true ∨ (regs ≠ [] ∧ ∃ v, s.evicts = some v ∧ s.releaseWaits v.1.group v.2 = true);
      ¬ waits ∧ regs = []) ∧
    (∃ regs : List (BitVec 8), ∃ s : State, s.cur.st ≠ .ended ∧ (∀ u ∈ s.grp.units, u.id ≠ s.cur.id) ∧
      let waits := s.waitsRelease = true ∨ s.pendingV (regs.map fun r => r.toNat) = true ∨ (regs ≠ [] ∧ ∃ v, s.evicts = some v ∧ s.releaseWaits v.1.group v.2 = true);
      ¬ waits ∧ regs ≠ [] ∧ (∀ r ∈ regs, r.toNat < s.budget)) ∧
    (∃ u : UnitRef, ∃ s : State, ∃ g : Region, s.unitRef = u ∧ s.cur.region = some g ∧ g.resident = true) ∧
    (∃ u : UnitRef, ∃ s : State, ∃ t : State, ∃ g : Region, ∃ n : Nat, s.select u = some t ∧ t.cur.region = some g ∧ g.resident = false ∧
      freeRegionSlot (t.regionHolders t.grp.core t.grp.pipe) = some n ∧ t.cur.st = .loading) ∧
    (∃ s : State, ∃ g : Region, s.cur.region = some g ∧ g.resident = true ∧ scanon (none : Option PWord) g.main = true) :=
  ⟨⟨[3], state0, by decide +kernel, by decide +kernel, by decide +kernel⟩,
   ⟨[64], state0, by decide +kernel, by decide +kernel, by decide +kernel, by decide +kernel⟩,
   ⟨[], state0, by decide +kernel, by decide +kernel, by decide +kernel, by decide +kernel⟩,
   ⟨[3], state2, by decide +kernel, by decide +kernel, by decide +kernel, by decide +kernel, by decide +kernel⟩,
   ⟨(state1.unitRef), state1, ((state1.cur.region).getD default), by decide +kernel, by decide +kernel, by decide +kernel⟩,
   ⟨⟨⟨5,0⟩,0⟩, state5, t5_0, ((t5_0.cur.region).getD default), n5_1, by decide +kernel, by decide +kernel, by decide +kernel, by decide +kernel,
      by decide +kernel⟩,
   ⟨state6, ((state6.cur.region).getD default), by decide +kernel, by decide +kernel, by decide +kernel⟩⟩
end WRegions

namespace WChannelSetup
def pk : Parked := { why := .chcfg, instr := .chcfg {d := 3, a := 2}, serial := 4, aux := 10 }
def pk2 : Parked := { pk with aux := 2 }
def sts : List State := [withS stateA [(2, 5)], withS stateA [(2, 1024)], withS stateA [(2, 1025)], 
  withS {stateA with team := {teamA with reserved := [(1, 7)]}} [(2, 1020)],
  withS {stateA with team := {teamA with reserved := [(1, 7),(3,9)]}, flights := [{ id := 1, kind := .load, who := ⟨⟨5,0⟩,0⟩, chan := some 3, request := some 4 }] } [(2, 0)],
  { withS stateA [(2,3)] with grp := {(withS stateA [(2,3)]).grp with frames := [{}], stack := [(0, {kind:= .gate})]}, cur := {unitA with top := some 0} },
  parkedA stateA pk, parkedA {stateA with team := {teamA with cfgSerial := [(3,99)]}} pk, parkedA {stateA with team := {teamA with ceiling := 4}, flights := (List.range 3).map fun i => { id := i, kind := .load, who := ⟨⟨5,0⟩,0⟩, chan := some 1, request := some i, key := some ⟨5,1,0⟩, returned := false }} pk2, withS {stateA with team := {teamA with ceiling := 4}, flights := (List.range 3).map fun i => { id := i, kind := .load, who := ⟨⟨5,0⟩,0⟩, chan := some 1, request := some i, key := some ⟨5,1,0⟩, returned := false }} [(2, 2)], { withS stateA [(2, 5)] with grp := { (withS stateA [(2, 5)]).grp with sys := { domain := 1 } }, parts := [(0, { partA with domains := [(1, BitVec.ofNat 512 (1 + 0xFFF7 * 2^48))] })] }, parkedA {stateA with team := {teamA with reserved := [(1,1020)]}} pk]
def args0 : Args := {a := 2, d := 3}
def state5 : State := ((sts)[5]?.getD default)
def state2 : State := ((sts)[2]?.getD default)
def state0 : State := ((sts)[0]?.getD default)
def state9 : State := ((sts)[9]?.getD default)
def state10 : State := ((sts)[10]?.getD default)
def state11 : State := ((sts)[11]?.getD default)
def x5_0 := (match (parkOf (selOf state11 (⟨⟨5,0⟩,0⟩ : UnitRef))).instr with | .chcfg x => x | _ => default)
def state8 : State := ((sts)[8]?.getD default)
def x6_1 := (match (parkOf (selOf state8 (⟨⟨5,0⟩,0⟩ : UnitRef))).instr with | .chcfg x => x | _ => default)
def state6 : State := ((sts)[6]?.getD default)
def x7_2 := (match (parkOf (selOf state6 (⟨⟨5,0⟩,0⟩ : UnitRef))).instr with | .chcfg x => x | _ => default)
def state7 : State := ((sts)[7]?.getD default)
def x8_3 := (match (parkOf (selOf state7 (⟨⟨5,0⟩,0⟩ : UnitRef))).instr with | .chcfg x => x | _ => default)

theorem wit_ChannelSetup :
    (∃ x : Args, ∃ s : State, s.guardU x.gp x.gn = true ∧ s.inGate = true) ∧
    (∃ x : Args, ∃ s : State, s.guardU x.gp x.gn = true ∧ let d := x.d.toNat; let a := s.sr x.a.toNat;
      let others := (((List.range 16).filter fun c => c ≠ d).map fun c => sget 0 s.team.reserved c).sum; s.inGate = false ∧ s.CleanS [x.a.toNat] ∧
      ¬ (a ≤ 1024 ∧ a + others ≤ s.team.ceiling)) ∧
    (∃ x : Args, ∃ s : State, s.guardU x.gp x.gn = true ∧ let d := x.d.toNat; let a := s.sr x.a.toNat;
      let others := (((List.range 16).filter fun c => c ≠ d).map fun c => sget 0 s.team.reserved c).sum; s.inGate = false ∧ s.CleanS [x.a.toNat] ∧
      a ≤ 1024 ∧ a + others ≤ s.team.ceiling ∧ d < 16 ∧ s.chanAllowed d = true ∧ s.slotsFit d a = true) ∧
    (∃ x : Args, ∃ s : State, s.guardU x.gp x.gn = true ∧ let d := x.d.toNat; let a := s.sr x.a.toNat;
      let others := (((List.range 16).filter fun c => c ≠ d).map fun c => sget 0 s.team.reserved c).sum; s.inGate = false ∧ s.CleanS [x.a.toNat] ∧
      a ≤ 1024 ∧ a + others ≤ s.team.ceiling ∧ d < 16 ∧ s.chanAllowed d = true ∧ s.slotsFit d a = false) ∧
    (∃ x : Args, ∃ s : State, s.guardU x.gp x.gn = true ∧ let d := x.d.toNat; let a := s.sr x.a.toNat;
      let others := (((List.range 16).filter fun c => c ≠ d).map fun c => sget 0 s.team.reserved c).sum; s.inGate = false ∧ s.CleanS [x.a.toNat] ∧
      a ≤ 1024 ∧ a + others ≤ s.team.ceiling ∧ d < 16 ∧ s.chanAllowed d = false) ∧
    (∃ u : UnitRef, ∃ s : State, ∃ t : State, ∃ p : Parked, ∃ x : Args, WaitsOn s u .chcfg t p ∧ p.instr = .chcfg x ∧
      let others := (((List.range 16).filter fun c => c ≠ x.d.toNat).map fun c => sget 0 t.team.reserved c).sum; ¬ (p.aux ≤ 1024 ∧
      p.aux + others ≤ t.team.ceiling)) ∧
    (∃ u : UnitRef, ∃ s : State, ∃ t : State, ∃ p : Parked, ∃ x : Args, WaitsOn s u .chcfg t p ∧ p.instr = .chcfg x ∧
      let others := (((List.range 16).filter fun c => c ≠ x.d.toNat).map fun c => sget 0 t.team.reserved c).sum; p.aux ≤ 1024 ∧
      p.aux + others ≤ t.team.ceiling ∧ t.slotsFit x.d.toNat p.aux = false) ∧
    (∃ u : UnitRef, ∃ s : State, ∃ t : State, ∃ p : Parked, ∃ x : Args, WaitsOn s u .chcfg t p ∧ p.instr = .chcfg x ∧ p.aux ≤ 1024 ∧
      t.slotsFit x.d.toNat p.aux = true ∧ sget 0 t.team.cfgSerial x.d.toNat ≤ p.serial) ∧
    (∃ u : UnitRef, ∃ s : State, ∃ t : State, ∃ p : Parked, ∃ x : Args, WaitsOn s u .chcfg t p ∧ p.instr = .chcfg x ∧ p.aux ≤ 1024 ∧
      t.slotsFit x.d.toNat p.aux = true ∧ p.serial < sget 0 t.team.cfgSerial x.d.toNat) :=
  ⟨⟨args0, state5, by decide +kernel, by decide +kernel⟩,
   ⟨args0, state2, by decide +kernel, by decide +kernel, cleanS_of (by decide +kernel), by decide +kernel⟩,
   ⟨args0, state0, by decide +kernel, by decide +kernel, cleanS_of (by decide +kernel), by decide +kernel, by decide +kernel, by decide +kernel,
      by decide +kernel, by decide +kernel⟩,
   ⟨args0, state9, by decide +kernel, by decide +kernel, cleanS_of (by decide +kernel), by decide +kernel, by decide +kernel, by decide +kernel,
      by decide +kernel, by decide +kernel⟩,
   ⟨args0, state10, by decide +kernel, by decide +kernel, cleanS_of (by decide +kernel), by decide +kernel, by decide +kernel, by decide +kernel,
      by decide +kernel⟩,
   ⟨⟨⟨5,0⟩,0⟩, state11, (selOf state11 (⟨⟨5,0⟩,0⟩ : UnitRef)), (parkOf (selOf state11 (⟨⟨5,0⟩,0⟩ : UnitRef))), x5_0, ⟨by decide +kernel,
      by decide +kernel, by decide +kernel, by decide +kernel⟩, by decide +kernel, by decide +kernel⟩,
   ⟨⟨⟨5,0⟩,0⟩, state8, (selOf state8 (⟨⟨5,0⟩,0⟩ : UnitRef)), (parkOf (selOf state8 (⟨⟨5,0⟩,0⟩ : UnitRef))), x6_1, ⟨by decide +kernel, by decide +kernel,
      by decide +kernel, by decide +kernel⟩, by decide +kernel, by decide +kernel, by decide +kernel, by decide +kernel⟩,
   ⟨⟨⟨5,0⟩,0⟩, state6, (selOf state6 (⟨⟨5,0⟩,0⟩ : UnitRef)), (parkOf (selOf state6 (⟨⟨5,0⟩,0⟩ : UnitRef))), x7_2, ⟨by decide +kernel, by decide +kernel,
      by decide +kernel, by decide +kernel⟩, by decide +kernel, by decide +kernel, by decide +kernel, by decide +kernel⟩,
   ⟨⟨⟨5,0⟩,0⟩, state7, (selOf state7 (⟨⟨5,0⟩,0⟩ : UnitRef)), (parkOf (selOf state7 (⟨⟨5,0⟩,0⟩ : UnitRef))), x8_3, ⟨by decide +kernel, by decide +kernel,
      by decide +kernel, by decide +kernel⟩, by decide +kernel, by decide +kernel, by decide +kernel, by decide +kernel⟩⟩
end WChannelSetup

namespace WJoinsAndFences
def pj : Parked := { why := .joinPending, instr := .join {d := 3, a := 2}, serial := 40, aux := 10 }
def pj2 : Parked := { why := .joinPending, instr := .joinImmediateMask {d := 3, c := 2}, serial := 40, aux := 2 }
def pd : Parked := { why := .drain, instr := .drain {d := 3, b := 2}, serial := 40, aux := 0 }
def pf : Parked := { why := .fence, instr := .fence {b := 3}, serial := 40, aux := 0 }
def pf1 : Parked := { why := .fence, instr := .fence {a := 1, b := 3}, serial := 40, aux := 0 }
def pf2 : Parked := { why := .fence, instr := .fence {a := 1, b := 3}, serial := 40, aux := 1 }
def pj9 : Parked := { pj2 with rec_ := 11 }
def pj0 : Parked := { pj2 with rec_ := 9 }
def b2 := withS stateA [(2, 5)]
def busy : State := { b2 with serial := 30, flights := [fl 3 5, fl 0 6], team := {teamA with joins := (List.range 3).map fun i => ⟨3, 1, 10+i⟩ } }
def full : State := { b2 with serial := 30, flights := [fl 3 5, fl 0 6], team := {teamA with joins := (List.range 4).map fun i => ⟨3, 1, 10+i⟩ } }
def tick (s : State) : State := { s with parts := [(0, {partA with tick := true})], cycle := 1000 }
def sts : List State := [b2, busy, full, withS stateA [(2,0)], { b2 with team := {teamA with uncertain := 8} }, tick b2, 
  parkedA b2 pj, parkedA full pj9, parkedA full pj0, parkedA busy pj0, parkedA b2 pj2, parkedA b2 pd, parkedA b2 pf, tick (parkedA b2 pf), tick (parkedA b2 pf1), tick (parkedA b2 pf2)]
def args0 : Args := {a := 2, d := 3}
def state0 : State := ((sts)[0]?.getD default)
def state2 : State := ((sts)[2]?.getD default)
def state1 : State := ((sts)[1]?.getD default)
def state7 : State := ((sts)[7]?.getD default)
def args1 : Args := {d := 3, c := 2}
def state8 : State := ((sts)[8]?.getD default)
def state6 : State := ((sts)[6]?.getD default)
def state11 : State := ((sts)[11]?.getD default)
def x10_0 := (match (parkOf (selOf state11 (⟨⟨5,0⟩,0⟩ : UnitRef))).instr with | .drain x => x | _ => default)
def state12 : State := ((sts)[12]?.getD default)
def x11_1 := (match (parkOf (selOf state12 (⟨⟨5,0⟩,0⟩ : UnitRef))).instr with | .fence x => x | _ => default)
def state14 : State := ((sts)[14]?.getD default)
def x12_2 := (match (parkOf (selOf state14 (⟨⟨5,0⟩,0⟩ : UnitRef))).instr with | .fence x => x | _ => default)

theorem wit_JoinsAndFences_1 :
    (∃ x : Args, ∃ s : State, s.guardU x.gp x.gn = true ∧ let d := x.d.toNat; ∃ p ∈ ([(.join x, [x.a.toNat], s.sr x.a.toNat % 2 ^ 16),
      (.joinImmediateMask x, [], x.imm)] : List (Instr × List Nat × Nat)), s.CleanS p.2.1 ∧ s.channelCheck (Nat.lor p.2.2 (2 ^ d)) = none ∧ p.2.2 = 0) ∧
    (∃ x : Args, ∃ s : State, s.guardU x.gp x.gn = true ∧ let d := x.d.toNat; ∃ p ∈ ([(.join x, [x.a.toNat], s.sr x.a.toNat % 2 ^ 16),
      (.joinImmediateMask x, [], x.imm)] : List (Instr × List Nat × Nat)), s.CleanS p.2.1 ∧ s.channelCheck (Nat.lor p.2.2 (2 ^ d)) = none ∧ p.2.2 ≠ 0 ∧
      (s.pendingJoins s.team.stream d).length < 4) ∧
    (∃ x : Args, ∃ s : State, s.guardU x.gp x.gn = true ∧ let d := x.d.toNat; ∃ p ∈ ([(.join x, [x.a.toNat], s.sr x.a.toNat % 2 ^ 16),
      (.joinImmediateMask x, [], x.imm)] : List (Instr × List Nat × Nat)), s.CleanS p.2.1 ∧ s.channelCheck (Nat.lor p.2.2 (2 ^ d)) = none ∧ p.2.2 ≠ 0 ∧
      4 ≤ (s.pendingJoins s.team.stream d).length) ∧
    (∃ x : Args, ∃ s : State, s.guardU x.gp x.gn = true ∧ let d := x.d.toNat; let st1 := s.serial + 1; s.channelCheck (2 ^ d) = none ∧
      s.drained d x.b.toNat st1 = true) ∧
    (∃ x : Args, ∃ s : State, s.guardU x.gp x.gn = true ∧ let d := x.d.toNat; let st1 := s.serial + 1; s.channelCheck (2 ^ d) = none ∧
      s.drained d x.b.toNat st1 = false) ∧
    (∃ x : Args, ∃ s : State, s.guardU x.gp x.gn = true ∧ let st1 := s.serial + 1; s.fenceMet x.b.toNat st1 = true ∧ s.tickFence x = false) ∧
    (∃ x : Args, ∃ s : State, s.guardU x.gp x.gn = true ∧ let st1 := s.serial + 1; (s.fenceMet x.b.toNat st1 = false ∨ s.tickFence x = true)) ∧
    (∃ u : UnitRef, ∃ s : State, ∃ t : State, ∃ p : Parked, ∃ x : Args, WaitsOn s u .joinPending t p ∧
      (p.instr = .join x ∨ p.instr = .joinImmediateMask x) ∧ let pending := t.pendingJoins t.team.stream x.d.toNat; (∃ j ∈ pending, j.serial ≤ p.rec_.toNat)) ∧
    (∃ u : UnitRef, ∃ s : State, ∃ t : State, ∃ p : Parked, ∃ x : Args, WaitsOn s u .joinPending t p ∧
      (p.instr = .join x ∨ p.instr = .joinImmediateMask x) ∧ let pending := t.pendingJoins t.team.stream x.d.toNat; (∀ j ∈ pending,
      p.rec_.toNat < j.serial) ∧ 4 ≤ pending.length) ∧
    (∃ u : UnitRef, ∃ s : State, ∃ t : State, ∃ p : Parked, ∃ x : Args, WaitsOn s u .joinPending t p ∧
      (p.instr = .join x ∨ p.instr = .joinImmediateMask x) ∧ let pending := t.pendingJoins t.team.stream x.d.toNat; (∀ j ∈ pending,
      p.rec_.toNat < j.serial) ∧ pending.length < 4) ∧
    (∃ u : UnitRef, ∃ s : State, ∃ t : State, ∃ p : Parked, ∃ x : Args, WaitsOn s u .drain t p ∧ p.instr = .drain x ∧
      t.drained x.d.toNat x.b.toNat p.serial = true) ∧
    (∃ u : UnitRef, ∃ s : State, ∃ t : State, ∃ p : Parked, ∃ x : Args, WaitsOn s u .fence t p ∧ p.instr = .fence x ∧
      t.fenceMet x.b.toNat p.serial = true ∧ (t.tickFence x = false ∨ p.aux ≠ 0 ∧ p.aux ≤ t.tick)) :=
  ⟨⟨args0, state0, by decide +kernel, ((.joinImmediateMask args0, [], args0.imm) : Instr × List Nat × Nat), by decide +kernel,
      cleanS_of (by decide +kernel), by decide +kernel, by decide +kernel⟩,
   ⟨args0, state0, by decide +kernel, ((.join args0, [args0.a.toNat], state0.sr args0.a.toNat % 2 ^ 16) : Instr × List Nat × Nat), by decide +kernel,
      cleanS_of (by decide +kernel), by decide +kernel, by decide +kernel, by decide +kernel⟩,
   ⟨args0, state2, by decide +kernel, ((.join args0, [args0.a.toNat], state2.sr args0.a.toNat % 2 ^ 16) : Instr × List Nat × Nat), by decide +kernel,
      cleanS_of (by decide +kernel), by decide +kernel, by decide +kernel, by decide +kernel⟩,
   ⟨args0, state0, by decide +kernel, by decide +kernel, by decide +kernel⟩,
   ⟨args0, state1, by decide +kernel, by decide +kernel, by decide +kernel⟩,
   ⟨args0, state0, by decide +kernel, by decide +kernel, by decide +kernel⟩,
   ⟨args0, state1, by decide +kernel, by decide +kernel⟩,
   ⟨⟨⟨5,0⟩,0⟩, state7, (selOf state7 (⟨⟨5,0⟩,0⟩ : UnitRef)), (parkOf (selOf state7 (⟨⟨5,0⟩,0⟩ : UnitRef))), args1, ⟨by decide +kernel, by decide +kernel,
      by decide +kernel, by decide +kernel⟩, by decide +kernel, by decide +kernel⟩,
   ⟨⟨⟨5,0⟩,0⟩, state8, (selOf state8 (⟨⟨5,0⟩,0⟩ : UnitRef)), (parkOf (selOf state8 (⟨⟨5,0⟩,0⟩ : UnitRef))), args1, ⟨by decide +kernel, by decide +kernel,
      by decide +kernel, by decide +kernel⟩, by decide +kernel, by decide +kernel, by decide +kernel⟩,
   ⟨⟨⟨5,0⟩,0⟩, state6, (selOf state6 (⟨⟨5,0⟩,0⟩ : UnitRef)), (parkOf (selOf state6 (⟨⟨5,0⟩,0⟩ : UnitRef))), args0, ⟨by decide +kernel, by decide +kernel,
      by decide +kernel, by decide +kernel⟩, by decide +kernel, by decide +kernel, by decide +kernel⟩,
   ⟨⟨⟨5,0⟩,0⟩, state11, (selOf state11 (⟨⟨5,0⟩,0⟩ : UnitRef)), (parkOf (selOf state11 (⟨⟨5,0⟩,0⟩ : UnitRef))), x10_0, ⟨by decide +kernel,
      by decide +kernel, by decide +kernel, by decide +kernel⟩, by decide +kernel, by decide +kernel⟩,
   ⟨⟨⟨5,0⟩,0⟩, state12, (selOf state12 (⟨⟨5,0⟩,0⟩ : UnitRef)), (parkOf (selOf state12 (⟨⟨5,0⟩,0⟩ : UnitRef))), x11_1, ⟨by decide +kernel,
      by decide +kernel, by decide +kernel, by decide +kernel⟩, by decide +kernel, by decide +kernel, by decide +kernel⟩⟩
theorem wit_JoinsAndFences_2 :
    (∃ u : UnitRef, ∃ s : State, ∃ t : State, ∃ p : Parked, ∃ x : Args, WaitsOn s u .fence t p ∧ p.instr = .fence x ∧
      t.fenceMet x.b.toNat p.serial = true ∧ t.tickFence x = true ∧ p.aux = 0) :=
  ⟨⟨⟨5,0⟩,0⟩, state14, (selOf state14 (⟨⟨5,0⟩,0⟩ : UnitRef)), (parkOf (selOf state14 (⟨⟨5,0⟩,0⟩ : UnitRef))), x12_2, ⟨by decide +kernel,
      by decide +kernel, by decide +kernel, by decide +kernel⟩, by decide +kernel, by decide +kernel, by decide +kernel, by decide +kernel⟩
end WJoinsAndFences

namespace WBarriers
def stp (pend exp arr ph : Nat) : State → State := fun s => { s with mem := s.mem.writeSpad 0 64 32 (pend % 2^64 + exp*2^64 + arr * 2^96 + ph*2^128) false }
def pba : Parked := { why := .bara, instr := .bara {d := 7, a := 2}, serial := 40, aux := spadKey 0 64, rec_ := 3 }
def pbw : Parked := { why := .barw, instr := .barw {a := 2}, serial := 40, aux := spadKey 0 64, lanes := 1 }
def b2 (v w : Word) := withS stateA [(2, v), (3, w)]
def sts : List State := [stp 0 2 1 0 (b2 64 5), stp 0 2 1 1 (b2 64 (-1)), stp 0 2 0 1 (b2 64 (-2)), stp 5 2 1 1 (b2 64 0), stp 0 2 1 0 (b2 64 0),stp 0 1 0 0 (b2 64 0x7FFFFFFF),
  stp 0 0xFFFFFFFF 0 0 (b2 64 0x7FFFFFFF),
  parkedA (stp 0 2 1 0 (b2 64 5)) pba, parkedA (stp (2^64-3) 2 1 0 (b2 64 5)) pba, parkedA (stp 0 2 2 0 (b2 64 5)) pba, parkedA (stp 0 2 1 0 (b2 64 5)) pbw]
def state0 : State := ((sts)[0]?.getD default)
def core0_0 := (match state0.barPlace (state0.sr ({a := 2} : Args).a.toNat) with | .ok (core, _) => core | _ => default)
def off0_1 := (match state0.barPlace (state0.sr ({a := 2} : Args).a.toNat) with | .ok (_, off) => off | _ => default)
def state3 : State := ((sts)[3]?.getD default)
def core1_2 := (match state3.barPlace (state3.sr ({a := 2} : Args).a.toNat) with | .ok (core, _) => core | _ => default)
def off1_3 := (match state3.barPlace (state3.sr ({a := 2} : Args).a.toNat) with | .ok (_, off) => off | _ => default)
def state2 : State := ((sts)[2]?.getD default)
def core3_4 := (match state2.barPlace (state2.sr ({a := 2} : Args).a.toNat) with | .ok (core, _) => core | _ => default)
def off3_5 := (match state2.barPlace (state2.sr ({a := 2} : Args).a.toNat) with | .ok (_, off) => off | _ => default)
def state1 : State := ((sts)[1]?.getD default)
def core5_6 := (match state1.barPlace (state1.sr ({a := 2} : Args).a.toNat) with | .ok (core, _) => core | _ => default)
def off5_7 := (match state1.barPlace (state1.sr ({a := 2} : Args).a.toNat) with | .ok (_, off) => off | _ => default)
def state7 : State := ((sts)[7]?.getD default)
def x6_8 := (match (parkOf (selOf state7 (⟨⟨5,0⟩,0⟩ : UnitRef))).instr with | .bara x => x | _ => default)
def state9 : State := ((sts)[9]?.getD default)
def x7_9 := (match (parkOf (selOf state9 (⟨⟨5,0⟩,0⟩ : UnitRef))).instr with | .bara x => x | _ => default)
def state10 : State := ((sts)[10]?.getD default)

theorem wit_Barriers :
    (∃ x : Args, ∃ s : State, ∃ core : Nat, ∃ off : Nat, s.guardU x.gp x.gn = true ∧ s.CleanS [x.a.toNat, x.a.toNat + 1] ∧
      s.barPlace (s.sr x.a.toNat) = .ok (core, off) ∧ s.quietCore = true ∧ s.mem.spadBad core off 32 = false ∧
      let op : Word := (s.sreg (x.a.toNat + 1)).val; op ≠ 0) ∧
    (∃ x : Args, ∃ s : State, ∃ core : Nat, ∃ off : Nat, s.guardU x.gp x.gn = true ∧ s.CleanS [x.a.toNat, x.a.toNat + 1] ∧
      s.barPlace (s.sr x.a.toNat) = .ok (core, off) ∧ s.quietCore = true ∧ s.mem.spadBad core off 32 = false ∧
      let op : Word := (s.sreg (x.a.toNat + 1)).val; op = 0) ∧
    (∃ x : Args, ∃ s : State, ∃ core : Nat, ∃ off : Nat, s.guardU x.gp x.gn = true ∧ s.CleanS [x.a.toNat, x.a.toNat + 1] ∧
      s.barPlace (s.sr x.a.toNat) = .ok (core, off) ∧ s.quietCore = true ∧ s.mem.spadBad core off 32 = false ∧
      let op : Word := (s.sreg (x.a.toNat + 1)).val; let b := s.barObj core off; 1 ≤ b.expected + op.toInt ∧ b.expected + op.toInt < 2 ^ 32) ∧
    (∃ x : Args, ∃ s : State, ∃ core : Nat, ∃ off : Nat, s.guardU x.gp x.gn = true ∧ s.CleanS [x.a.toNat, x.a.toNat + 1] ∧
      s.barPlace (s.sr x.a.toNat) = .ok (core, off) ∧ s.quietCore = true ∧ s.mem.spadBad core off 32 = false ∧
      let op : Word := (s.sreg (x.a.toNat + 1)).val; let b := s.barObj core off; ¬ (1 ≤ b.expected + op.toInt ∧ b.expected + op.toInt < 2 ^ 32)) ∧
    (∃ x : Args, ∃ s : State, ∃ core : Nat, ∃ off : Nat, s.guardU x.gp x.gn = true ∧ s.CleanS [x.a.toNat, x.a.toNat + 1] ∧
      s.barPlace (s.sr x.a.toNat) = .ok (core, off) ∧ s.quietCore = true ∧ s.mem.spadBad core off 32 = false ∧
      let op : Word := (s.sreg (x.a.toNat + 1)).val; let b := s.barObj core off; b.phase ≠ op.getLsbD 0) ∧
    (∃ x : Args, ∃ s : State, ∃ core : Nat, ∃ off : Nat, s.guardU x.gp x.gn = true ∧ s.CleanS [x.a.toNat, x.a.toNat + 1] ∧
      s.barPlace (s.sr x.a.toNat) = .ok (core, off) ∧ s.quietCore = true ∧ s.mem.spadBad core off 32 = false ∧
      let op : Word := (s.sreg (x.a.toNat + 1)).val; let b := s.barObj core off; b.phase = op.getLsbD 0) ∧
    (∃ u : UnitRef, ∃ s : State, ∃ t : State, ∃ p : Parked, ∃ x : Args, ∃ core : Nat, ∃ off : Nat, WaitsOn s u .bara t p ∧ p.instr = .bara x ∧
      p.aux = spadKey core off ∧ off < 2 ^ 22 ∧ t.fenceMet 2 p.serial = true ∧ t.mem.spadBad core off 32 = false ∧ let b := t.barObj core off;
      b.arrived < b.expected ∧ b.expected < 2 ^ 32) ∧
    (∃ u : UnitRef, ∃ s : State, ∃ t : State, ∃ p : Parked, ∃ x : Args, ∃ core : Nat, ∃ off : Nat, WaitsOn s u .bara t p ∧ p.instr = .bara x ∧
      p.aux = spadKey core off ∧ off < 2 ^ 22 ∧ t.fenceMet 2 p.serial = true ∧ t.mem.spadBad core off 32 = false ∧ let b := t.barObj core off;
      b.expected ≤ b.arrived) ∧
    (∃ u : UnitRef, ∃ s : State, ∃ t : State, ∃ p : Parked, WaitsOn s u .barw t p ∧ p.lanes ≠ 0) :=
  ⟨⟨{a := 2}, state0, core0_0, off0_1, by decide +kernel, cleanS_of (by decide +kernel), by decide +kernel, by decide +kernel, by decide +kernel,
      by decide +kernel⟩,
   ⟨{a := 2}, state3, core1_2, off1_3, by decide +kernel, cleanS_of (by decide +kernel), by decide +kernel, by decide +kernel, by decide +kernel,
      by decide +kernel⟩,
   ⟨{a := 2}, state0, core0_0, off0_1, by decide +kernel, cleanS_of (by decide +kernel), by decide +kernel, by decide +kernel, by decide +kernel,
      by decide +kernel, by decide +kernel⟩,
   ⟨{a := 2}, state2, core3_4, off3_5, by decide +kernel, cleanS_of (by decide +kernel), by decide +kernel, by decide +kernel, by decide +kernel,
      by decide +kernel⟩,
   ⟨{a := 2}, state0, core0_0, off0_1, by decide +kernel, cleanS_of (by decide +kernel), by decide +kernel, by decide +kernel, by decide +kernel,
      by decide +kernel⟩,
   ⟨{a := 2}, state1, core5_6, off5_7, by decide +kernel, cleanS_of (by decide +kernel), by decide +kernel, by decide +kernel, by decide +kernel,
      by decide +kernel⟩,
   ⟨⟨⟨5,0⟩,0⟩, state7, (selOf state7 (⟨⟨5,0⟩,0⟩ : UnitRef)), (parkOf (selOf state7 (⟨⟨5,0⟩,0⟩ : UnitRef))), x6_8, 0, 64, ⟨by decide +kernel,
      by decide +kernel, by decide +kernel, by decide +kernel⟩, by decide +kernel, by decide +kernel, by decide +kernel, by decide +kernel,
      by decide +kernel, by decide +kernel, by decide +kernel⟩,
   ⟨⟨⟨5,0⟩,0⟩, state9, (selOf state9 (⟨⟨5,0⟩,0⟩ : UnitRef)), (parkOf (selOf state9 (⟨⟨5,0⟩,0⟩ : UnitRef))), x7_9, 0, 64, ⟨by decide +kernel,
      by decide +kernel, by decide +kernel, by decide +kernel⟩, by decide +kernel, by decide +kernel, by decide +kernel, by decide +kernel,
      by decide +kernel, by decide +kernel⟩,
   ⟨⟨⟨5,0⟩,0⟩, state10, (selOf state10 (⟨⟨5,0⟩,0⟩ : UnitRef)), (parkOf (selOf state10 (⟨⟨5,0⟩,0⟩ : UnitRef))), ⟨by decide +kernel, by decide +kernel,
      by decide +kernel, by decide +kernel⟩, by decide +kernel⟩⟩
end WBarriers

namespace WHardwareQueues
def it (n : Nat) : HwQueue := { items := (List.range n).map fun i => ⟨BitVec.ofNat 32 (i*3), false⟩ }
def stq (n : Nat) (m : Mask) : State := { stateA with cores := [(0, {pilot := true, hqs := [(3, it n)]})], cur := {unitA with mask := m}, grp := { groupA with r := {v := (List.range 32).map fun l => (l*256+1, ⟨BitVec.ofNat 32 (100+l),false⟩)} } }
def lyS : BitVec 512 := BitVec.ofNat 512 (0x100 + 1 * 2 ^ 64 + 0 * 2^67 + 2 * 2 ^ 70 + 64 * 2 ^ 128 + 4 * 2 ^ 288)
def sp (n : Nat) (m : Mask) : State := { stq n m with team := {teamA with slots := [(0, lyS)]}}
def pp : Parked := { why := .popq, instr := .popq {d := 4, b := 3}, serial := 40, aux := 3, lanes := 7 }
def pu : Parked := { why := .pushq, instr := .pushq {a := 1, b := 3}, serial := 40, aux := 3, lanes := 7, src := [(1,⟨7,false⟩),(257,⟨8,true⟩),(513,⟨9,false⟩)] }
def sts : List State := [stq 2 1, stq 2 7, stq 3 7, stq 1022 7, stq 1021 7, { stq 2 7 with team := {teamA with hqs := 0}}, sp 1022 7, sp 1023 1, sp 1024 4, sp 5 7,
  parkedA (stq 3 7) pp, parkedA (stq 1021 7) pu]
def state0 : State := ((sts)[0]?.getD default)
def state5 : State := ((sts)[5]?.getD default)
def args4 : Args := {a := 1, d := 4, b := 3, q := 1}
def state3 : State := ((sts)[3]?.getD default)
def args6 : Args := {a := 1, d := 4, b := 3, q := 2}
def state10 : State := ((sts)[10]?.getD default)
def x11_0 := (match (parkOf (selOf state10 (⟨⟨5,0⟩,0⟩ : UnitRef))).instr with | .popq x => x | _ => default)
def state11 : State := ((sts)[11]?.getD default)
def x12_1 := (match (parkOf (selOf state11 (⟨⟨5,0⟩,0⟩ : UnitRef))).instr with | .pushq x => x | _ => default)

theorem wit_HardwareQueues_1 :
    (∃ x : Args, ∃ s : State, s.quietCore = true ∧ let a := x.a.toNat; s.guardU x.gp x.gn = true ∧ s.team.hqs.toNat.testBit a = true) ∧
    (∃ x : Args, ∃ s : State, s.quietCore = true ∧ let a := x.a.toNat; s.guardU x.gp x.gn = true ∧ s.team.hqs.toNat.testBit a = false) ∧
    (∃ x : Args, ∃ s : State, s.quietCore = true ∧ let d := x.d.toNat; let n := x.hq; let ls := s.lanesFor x; ls ≠ [] ∧ s.team.hqs.toNat.testBit n = true ∧
      s.Free [d] ∧ x.qform = 1 ∧ x.pred < 48) ∧
    (∃ x : Args, ∃ s : State, s.quietCore = true ∧ let d := x.d.toNat; let n := x.hq; let ls := s.lanesFor x; let items := s.hqItems n; ls ≠ [] ∧
      s.team.hqs.toNat.testBit n = true ∧ s.Free [d] ∧ x.qform ≠ 1 ∧ ls.length ≤ items.length ∧ s.earlierWaiter .popq n (s.serial + 1) = false) ∧
    (∃ x : Args, ∃ s : State, s.quietCore = true ∧ let d := x.d.toNat; let n := x.hq; let ls := s.lanesFor x; let items := s.hqItems n; ls ≠ [] ∧
      s.team.hqs.toNat.testBit n = true ∧ s.Free [d] ∧ x.qform ≠ 1 ∧ items.length < ls.length) ∧
    (∃ x : Args, ∃ s : State, s.quietCore = true ∧ let a := x.a.toNat; let n := x.hq; let ls := s.lanesFor x; ls ≠ [] ∧ s.team.hqs.toNat.testBit n = true ∧
      s.Free [a] ∧ x.qform = 1 ∧ x.pred < 48) ∧
    (∃ x : Args, ∃ s : State, s.quietCore = true ∧ let a := x.a.toNat; let n := x.hq; let ls := s.lanesFor x; let items := s.hqItems n;
      let room := 1024 - items.length; ls ≠ [] ∧ s.team.hqs.toNat.testBit n = true ∧ s.Free [a] ∧ (x.qform = 0 ∨ x.qform = 3) ∧ ls.length ≤ room ∧
      s.earlierWaiter .pushq n (s.serial + 1) = false) ∧
    (∃ x : Args, ∃ s : State, s.quietCore = true ∧ let a := x.a.toNat; let n := x.hq; let ls := s.lanesFor x; let items := s.hqItems n;
      let room := 1024 - items.length; ls ≠ [] ∧ s.team.hqs.toNat.testBit n = true ∧ s.Free [a] ∧ (x.qform = 0 ∨ x.qform = 3) ∧ room < ls.length) ∧
    (∃ x : Args, ∃ s : State, s.quietCore = true ∧ let d := x.d.toNat; let a := x.a.toNat; let n := x.hq; let ls := s.lanesFor x; ls ≠ [] ∧
      s.team.hqs.toNat.testBit n = true ∧ s.Free [a] ∧ x.qform = 2 ∧ let y := s.slot x.qslot; let coords := (List.range (lyRank y)).map fun i => d + i;
      y ≠ 0 ∧ s.Free coords ∧ s.Clean ls coords ∧ s.spillChecks x ls = none) ∧
    (∃ x : Args, ∃ s : State, s.quietCore = true ∧ let d := x.d.toNat; let n := x.hq; let ls := s.lanesFor x; ls ≠ [] ∧
      s.team.hqs.toNat.testBit n = false ∧ s.Free [d]) ∧
    (∃ x : Args, ∃ s : State, s.quietCore = true ∧ let a := x.a.toNat; let n := x.hq; let ls := s.lanesFor x; ls ≠ [] ∧
      s.team.hqs.toNat.testBit n = false ∧ x.qform ≠ 2 ∧ s.Free [a]) ∧
    (∃ u : UnitRef, ∃ s : State, ∃ t : State, ∃ p : Parked, ∃ x : Args, WaitsOn s u .popq t p ∧ p.instr = .popq x ∧
      (lanesOf p.lanes).length ≤ (t.hqItems x.hq).length ∧ t.earlierWaiter .popq x.hq p.serial = false) :=
  ⟨⟨{a:=3,d:=4}, state0, by decide +kernel, by decide +kernel, by decide +kernel⟩,
   ⟨{a:=3,d:=4}, state5, by decide +kernel, by decide +kernel, by decide +kernel⟩,
   ⟨args4, state0, by decide +kernel, by decide +kernel, by decide +kernel, free_of (by decide +kernel) (by decide +kernel), by decide +kernel,
      by decide +kernel⟩,
   ⟨{d:=4,b:=3}, state0, by decide +kernel, by decide +kernel, by decide +kernel, free_of (by decide +kernel) (by decide +kernel), by decide +kernel,
      by decide +kernel, by decide +kernel⟩,
   ⟨{a:=3,d:=4}, state0, by decide +kernel, by decide +kernel, by decide +kernel, free_of (by decide +kernel) (by decide +kernel), by decide +kernel,
      by decide +kernel⟩,
   ⟨args4, state0, by decide +kernel, by decide +kernel, by decide +kernel, free_of (by decide +kernel) (by decide +kernel), by decide +kernel,
      by decide +kernel⟩,
   ⟨{a:=3,d:=4}, state0, by decide +kernel, by decide +kernel, by decide +kernel, free_of (by decide +kernel) (by decide +kernel), by decide +kernel,
      by decide +kernel, by decide +kernel⟩,
   ⟨{d:=4,b:=3}, state3, by decide +kernel, by decide +kernel, by decide +kernel, free_of (by decide +kernel) (by decide +kernel), by decide +kernel,
      by decide +kernel⟩,
   ⟨args6, state0, by decide +kernel, by decide +kernel, by decide +kernel, free_of (by decide +kernel) (by decide +kernel), by decide +kernel,
      by decide +kernel, free_of (by decide +kernel) (by decide +kernel), clean_of (by decide +kernel), by decide +kernel⟩,
   ⟨{a:=3,d:=4}, state5, by decide +kernel, by decide +kernel, by decide +kernel, free_of (by decide +kernel) (by decide +kernel)⟩,
   ⟨{a:=3,d:=4}, state5, by decide +kernel, by decide +kernel, by decide +kernel, by decide +kernel, free_of (by decide +kernel) (by decide +kernel)⟩,
   ⟨⟨⟨5,0⟩,0⟩, state10, (selOf state10 (⟨⟨5,0⟩,0⟩ : UnitRef)), (parkOf (selOf state10 (⟨⟨5,0⟩,0⟩ : UnitRef))), x11_0, ⟨by decide +kernel,
      by decide +kernel, by decide +kernel, by decide +kernel⟩, by decide +kernel, by decide +kernel, by decide +kernel⟩⟩
theorem wit_HardwareQueues_2 :
    (∃ u : UnitRef, ∃ s : State, ∃ t : State, ∃ p : Parked, ∃ x : Args, WaitsOn s u .pushq t p ∧ p.instr = .pushq x ∧
      (lanesOf p.lanes).length ≤ 1024 - (t.hqItems x.hq).length ∧ t.earlierWaiter .pushq x.hq p.serial = false) :=
  ⟨⟨⟨5,0⟩,0⟩, state11, (selOf state11 (⟨⟨5,0⟩,0⟩ : UnitRef)), (parkOf (selOf state11 (⟨⟨5,0⟩,0⟩ : UnitRef))), x12_1, ⟨by decide +kernel,
      by decide +kernel, by decide +kernel, by decide +kernel⟩, by decide +kernel, by decide +kernel, by decide +kernel⟩
end WHardwareQueues

namespace WTasks
def qd (cap head tail ovb ove ovc ovh inf : Nat) : Nat := 0x7000 + cap * 2^64 + head * 2^128 + tail * 2^160 + ovb * 2^192 + ove*2^256 + ovc*2^288+ovh*2^320+inf*2^352
def withQ (d : Nat) (s : State) : State := { s with mem := s.mem.writeDram 0x6000 64 d false }
def rc : Nat := 0x8004 + 7 * 2^64 + 9 * 2^96 + 5 * 2^288
def rcb : Nat := 0x8005 + 7 * 2^64 + 9 * 2^96 + 5 * 2^288
def withR (r : Nat) (s : State) : State := { s with mem := s.mem.writeDram 0x7030 48 r false }
def pe : Parked := { why := .enq, instr := .enq {d := 3, a := 2, b := 10}, serial := 40, aux := 0x6000, rec_ := BitVec.ofNat 512 rc }
def s2 := withS stateA [(2, 0x6000),(10,1),(11,2),(19,7)]
def idle (s : State) : State := let g := { groupA with st := .idle, r := { s := [(0,⟨3,false⟩),(9,⟨3,false⟩)]} }; 
  { s with grp := {st := .free, key := ⟨0,2^20⟩}, cur := {}, team := {}, groups := [g], teams := [{teamA with taskMode := true, taskQueue := 0x6000}] }
def sts : List State := [s2, withS stateA [(2, 0x6008)], { s2 with grp := {s2.grp with frames := [{}], stack := [(0, {kind:= .gate})]}, cur := {unitA with top := some 0} },
  withQ (qd 4 1 3 0x9000 2 1 1 0) (parkedA s2 pe), withQ (qd 4 1 5 0x9000 2 1 1 0) (parkedA s2 pe), withQ (qd 4 1 5 0x9000 2 2 1 0) (parkedA s2 pe),withQ (qd 5 1 5 0x9000 2 2 1 0) (parkedA s2 pe),
  withQ (qd (2^20) (2^32-1) 0 0x9000 2 2 1 0) (parkedA s2 pe),
  idle (withQ (qd 4 1 1 0x9000 2 0 1 0) stateA), idle (withQ (qd 4 1 2 0x9000 2 0 1 0) (withR rc stateA)), idle (withQ (qd 4 1 2 0x9000 2 0 1 0) (withR rcb stateA)), idle (withQ (qd 4 1 2 0x9000 2 1 1 0) (withR rc stateA))]
def args0 : Args := {d := 3, a := 2, b := 10}
def state2 : State := ((sts)[2]?.getD default)
def state1 : State := ((sts)[1]?.getD default)
def state0 : State := ((sts)[0]?.getD default)
def state6 : State := ((sts)[6]?.getD default)
def x3_0 := (match (parkOf (selOf state6 (⟨⟨5,0⟩,0⟩ : UnitRef))).instr with | .enq x => x | _ => default)
def state5 : State := ((sts)[5]?.getD default)
def x4_1 := (match (parkOf (selOf state5 (⟨⟨5,0⟩,0⟩ : UnitRef))).instr with | .enq x => x | _ => default)
def state3 : State := ((sts)[3]?.getD default)
def x5_2 := (match (parkOf (selOf state3 (⟨⟨5,0⟩,0⟩ : UnitRef))).instr with | .enq x => x | _ => default)
def state8 : State := ((sts)[8]?.getD default)
def group0 : Group := { groupA with st := .idle, r := { s := [(0,⟨3,false⟩),(9,⟨3,false⟩)]} }
def T6_3 := ((state8.team? group0.key.stream).getD default)
def state9 : State := ((sts)[9]?.getD default)
def T7_4 := ((state9.team? group0.key.stream).getD default)

theorem wit_Tasks :
    (∃ x : Args, ∃ s : State, s.guardU x.gp x.gn = true ∧ s.inGate = true) ∧
    (∃ x : Args, ∃ s : State, s.guardU x.gp x.gn = true ∧ let b := x.b.toNat; s.inGate = false ∧ (s.CleanS ([x.a.toNat,
      x.a.toNat + 1] ++ (List.range 10).map fun i => b + i)) ∧ (s.pairS x.a.toNat).toNat % 64 ≠ 0) ∧
    (∃ x : Args, ∃ s : State, s.guardU x.gp x.gn = true ∧ let b := x.b.toNat; s.inGate = false ∧ (s.CleanS ([x.a.toNat,
      x.a.toNat + 1] ++ (List.range 10).map fun i => b + i)) ∧ (s.pairS x.a.toNat).toNat % 64 = 0) ∧
    (∃ u : UnitRef, ∃ s : State, ∃ t : State, ∃ p : Parked, ∃ x : Args, WaitsOn s u .enq t p ∧ p.instr = .enq x ∧ t.localDone t.unitRef p.serial = true ∧
      t.channelsDone t.grp.key 3 p.serial = true ∧ t.rangeCode t.team.part t.dom p.aux 64 true = none ∧ t.rangeBad t.team.part t.dom p.aux 64 = false ∧
      let d := t.readRange t.team.part t.dom p.aux 64; (∀ i, i ≤ 20 → tqRing d ≠ 2 ^ i)) ∧
    (∃ u : UnitRef, ∃ s : State, ∃ t : State, ∃ p : Parked, ∃ x : Args, WaitsOn s u .enq t p ∧ p.instr = .enq x ∧ t.localDone t.unitRef p.serial = true ∧
      t.channelsDone t.grp.key 3 p.serial = true ∧ t.rangeCode t.team.part t.dom p.aux 64 true = none ∧ t.rangeBad t.team.part t.dom p.aux 64 = false ∧
      let d := t.readRange t.team.part t.dom p.aux 64; (∃ i, i ≤ 20 ∧ tqRing d = 2 ^ i) ∧ tqRing d ≤ tqHeld d ∧ tqOvfEntries d ≤ tqOvfCount d ∧
      x.d.toNat < 16) ∧
    (∃ u : UnitRef, ∃ s : State, ∃ t : State, ∃ p : Parked, ∃ x : Args, WaitsOn s u .enq t p ∧ p.instr = .enq x ∧ t.localDone t.unitRef p.serial = true ∧
      t.channelsDone t.grp.key 3 p.serial = true ∧ t.rangeCode t.team.part t.dom p.aux 64 true = none ∧ t.rangeBad t.team.part t.dom p.aux 64 = false ∧
      let d := t.readRange t.team.part t.dom p.aux 64; (∃ i, i ≤ 20 ∧ tqRing d = 2 ^ i) ∧ ∃ va, ∃ d1, (tqHeld d < tqRing d ∧
      va = tqRingBase d + 48 * (tqTail d % tqRing d) ∧ d1 = setField d 191 160 (tqTail d + 1) ∨ ¬ tqHeld d < tqRing d ∧ tqOvfCount d < tqOvfEntries d ∧
      va = tqOvfBase d + 48 * ((tqOvfHead d + tqOvfCount d) % tqOvfEntries d) ∧ d1 = setField d 319 288 (tqOvfCount d + 1)) ∧
      t.rangeCode t.team.part t.dom va 48 true = none ∧ x.d.toNat < 16) ∧
    (∃ s : State, ∃ g : Group, ∃ T : Team, s.group? g.key = some g ∧ s.team? g.key.stream = some T ∧ g.st = .idle ∧ T.taskMode = true ∧ T.st = .admitted ∧
      (s.part T.part).halt.state = 0 ∧ let va := T.taskQueue.toNat; let d := s.readRange T.part g.sys.domain va 64;
      s.rangeCode T.part g.sys.domain va 64 true = none ∧ tqHeld d = 0 ∧ tqOvfCount d = 0) ∧
    (∃ s : State, ∃ g : Group, ∃ T : Team, s.group? g.key = some g ∧ s.team? g.key.stream = some T ∧ g.st = .idle ∧ T.taskMode = true ∧ T.st = .admitted ∧
      (s.part T.part).halt.state = 0 ∧ let va := T.taskQueue.toNat; let d := s.readRange T.part g.sys.domain va 64;
      s.rangeCode T.part g.sys.domain va 64 true = none ∧ tqHeld d ≠ 0 ∧ let at_ := tqRingBase d + 48 * (tqHead d % tqRing d);
      s.rangeCode T.part g.sys.domain at_ 48 false = none ∧ s.rangeBad T.part g.sys.domain at_ 48 = false ∧
      let rec_ := s.readRange T.part g.sys.domain at_ 48; rec_ % 2 ^ 64 < 2 ^ 57 ∧ rec_ % 4 = 0) :=
  ⟨⟨args0, state2, by decide +kernel, by decide +kernel⟩,
   ⟨args0, state1, by decide +kernel, by decide +kernel, cleanS_of (by decide +kernel), by decide +kernel⟩,
   ⟨args0, state0, by decide +kernel, by decide +kernel, cleanS_of (by decide +kernel), by decide +kernel⟩,
   ⟨⟨⟨5,0⟩,0⟩, state6, (selOf state6 (⟨⟨5,0⟩,0⟩ : UnitRef)), (parkOf (selOf state6 (⟨⟨5,0⟩,0⟩ : UnitRef))), x3_0, ⟨by decide +kernel, by decide +kernel,
      by decide +kernel, by decide +kernel⟩, by decide +kernel, by decide +kernel, by decide +kernel, by decide +kernel, by decide +kernel,
      by decide +kernel⟩,
   ⟨⟨⟨5,0⟩,0⟩, state5, (selOf state5 (⟨⟨5,0⟩,0⟩ : UnitRef)), (parkOf (selOf state5 (⟨⟨5,0⟩,0⟩ : UnitRef))), x4_1, ⟨by decide +kernel, by decide +kernel,
      by decide +kernel, by decide +kernel⟩, by decide +kernel, by decide +kernel, by decide +kernel, by decide +kernel, by decide +kernel,
      by decide +kernel, by decide +kernel, by decide +kernel, by decide +kernel⟩,
   ⟨⟨⟨5,0⟩,0⟩, state3, (selOf state3 (⟨⟨5,0⟩,0⟩ : UnitRef)), (parkOf (selOf state3 (⟨⟨5,0⟩,0⟩ : UnitRef))), x5_2, ⟨by decide +kernel, by decide +kernel,
      by decide +kernel, by decide +kernel⟩, by decide +kernel, by decide +kernel, by decide +kernel, by decide +kernel, by decide +kernel,
      by decide +kernel, 28816, 2135987036418233319036392526799566984995745705774930421043134485761115271744348613435840341766144, by decide +kernel,
      by decide +kernel, by decide +kernel⟩,
   ⟨state8, group0, T6_3, by decide +kernel, by decide +kernel, by decide +kernel, by decide +kernel, by decide +kernel, by decide +kernel,
      by decide +kernel, by decide +kernel, by decide +kernel⟩,
   ⟨state9, group0, T7_4, by decide +kernel, by decide +kernel, by decide +kernel, by decide +kernel, by decide +kernel, by decide +kernel,
      by decide +kernel, by decide +kernel, by decide +kernel, by decide +kernel, by decide +kernel, by decide +kernel⟩⟩
end WTasks

namespace WSleepsAndPipes
def ps : Parked := { why := .sleep, instr := .sleep {a := 2}, serial := 40, aux := 10 }
def rd : State := { stateA with cur := { unitA with st := .ready, run := {left := 1}, pc := 0x8000 }, mem := stateA.mem.writeDram 0x8000 4 0x0F false }
def sts : List State := [withS stateA [(2,0)], withS stateA [(2,5)], parkedA stateA ps, {parkedA stateA ps with cycle := 10}, {parkedA stateA ps with cycle := 9}, rd, {rd with cur := {rd.cur with pc := 0x90000004, run := {left := 1, start := 0x90000000}}}]
def state0 : State := ((sts)[0]?.getD default)
def state1 : State := ((sts)[1]?.getD default)
def state3 : State := ((sts)[3]?.getD default)
def state2 : State := ((sts)[2]?.getD default)
def state5 : State := ((sts)[5]?.getD default)
def t5_0 := ((state5.select (⟨⟨5,0⟩,0⟩ : UnitRef)).getD default)
def state6 : State := ((sts)[6]?.getD default)
def t6_1 := ((state6.select (⟨⟨5,0⟩,0⟩ : UnitRef)).getD default)
def c6_2 := ((t6_1.runFault t6_1.cur.pc.toNat t6_1.cur.run.left).getD default)

theorem wit_SleepsAndPipes :
    (∃ x : Args, ∃ s : State, s.guardU x.gp x.gn = true ∧ s.CleanS [x.a.toNat] ∧ s.sr x.a.toNat = 0) ∧
    (∃ x : Args, ∃ s : State, s.guardU x.gp x.gn = true ∧ s.CleanS [x.a.toNat] ∧ s.sr x.a.toNat ≠ 0) ∧
    (∃ u : UnitRef, ∃ s : State, ∃ t : State, ∃ p : Parked, WaitsOn s u .sleep t p ∧ p.aux ≤ t.cycle) ∧
    (∃ u : UnitRef, ∃ s : State, ∃ t : State, ∃ p : Parked, WaitsOn s u .sleep t p ∧ t.cycle < p.aux) ∧
    (∃ core : Nat, ∃ pipe : Nat, ∃ s : State, (s.pipeBusy core pipe = true ∨ s.headerDue core pipe = true)) ∧
    (∃ core : Nat, ∃ pipe : Nat, ∃ s : State, ∃ t : State, ∃ n : Nat, ∃ u : UnitRef, s.pipeBusy core pipe = false ∧ s.headerDue core pipe = false ∧ (n,
      u) ∈ s.eligible core pipe ∧ (∀ e ∈ s.eligible core pipe, e = (n, u) ∨ n < e.1 ∧ e.2 ≠ u) ∧ s.select u = some t ∧ t.mayIssue = true ∧
      t.runFault t.cur.pc.toNat t.cur.run.left = none) ∧
    (∃ core : Nat, ∃ pipe : Nat, ∃ s : State, ∃ t : State, ∃ n : Nat, ∃ u : UnitRef, s.pipeBusy core pipe = false ∧ s.headerDue core pipe = false ∧ (n,
      u) ∈ s.eligible core pipe ∧ (∀ e ∈ s.eligible core pipe, e = (n, u) ∨ n < e.1 ∧ e.2 ≠ u) ∧ s.select u = some t ∧ t.mayIssue = true ∧ ∃ c,
      t.runFault t.cur.pc.toNat t.cur.run.left = some c ∧ t.cur.pc = t.cur.run.start + 4 ∧ t.cur.run.rep = none) :=
  ⟨⟨{a := 2}, state0, by decide +kernel, cleanS_of (by decide +kernel), by decide +kernel⟩,
   ⟨{a := 2}, state1, by decide +kernel, cleanS_of (by decide +kernel), by decide +kernel⟩,
   ⟨⟨⟨5,0⟩,0⟩, state3, (selOf state3 (⟨⟨5,0⟩,0⟩ : UnitRef)), (parkOf (selOf state3 (⟨⟨5,0⟩,0⟩ : UnitRef))), ⟨by decide +kernel, by decide +kernel,
      by decide +kernel, by decide +kernel⟩, by decide +kernel⟩,
   ⟨⟨⟨5,0⟩,0⟩, state2, (selOf state2 (⟨⟨5,0⟩,0⟩ : UnitRef)), (parkOf (selOf state2 (⟨⟨5,0⟩,0⟩ : UnitRef))), ⟨by decide +kernel, by decide +kernel,
      by decide +kernel, by decide +kernel⟩, by decide +kernel⟩,
   ⟨0, 0, state0, by decide +kernel⟩,
   ⟨0, 0, state5, t5_0, 0, ⟨⟨5,0⟩,0⟩, by decide +kernel, by decide +kernel, by decide +kernel, by decide +kernel, by decide +kernel, by decide +kernel,
      by decide +kernel⟩,
   ⟨0, 0, state6, t6_1, 0, ⟨⟨5,0⟩,0⟩, by decide +kernel, by decide +kernel, by decide +kernel, by decide +kernel, by decide +kernel, by decide +kernel,
      c6_2, by decide +kernel, by decide +kernel, by decide +kernel⟩⟩
end WSleepsAndPipes

namespace WMemoryIssue
def lyv (space base oob : Nat) : BitVec 512 := BitVec.ofNat 512 (base + 1 * 2 ^ 64 + space * 2^67 + 2 * 2 ^ 70 + oob * 2^73 + 8 * 2 ^ 128 + 4 * 2 ^ 288)
def fabL : BitVec 512 := BitVec.ofNat 512 (0x100 + 1 * 2 ^ 64 + 3 * 2^67 + 2 * 2 ^ 70 + 7 * 2^80 + 3 * 2^90 + 8 * 2 ^ 128 + 4 * 2 ^ 288)
def fab1 : BitVec 512 := BitVec.ofNat 512 (0x100 + 1 * 2 ^ 64 + 3 * 2^67 + 2 * 2 ^ 70 + 7 * 2^80 + 3 * 2^90 + 8 * 2 ^ 128 + 32 * 2 ^ 288)
def cluL : BitVec 512 := BitVec.ofNat 512 (0x40000100 + 1 * 2 ^ 64 + 2 * 2 ^ 70 + 8 * 2 ^ 128 + 0x100000 * 2 ^ 288)
def tm : Team := { teamA with slots := [(0, lyv 0 0x100 0), (1, lyv 0 0x100 1), (2, lyv 1 0x10000 0), (3, lyv 1 0x10000 0), (4, fabL), (5, fab1), (6, cluL)], reserved := [(2, 5)] }
def vs (c : Nat) : List (Nat × PWord) := ((List.range 3).map fun l => [(l*256, ⟨BitVec.ofNat 32 (l+c), false⟩), (l*256+6, ⟨BitVec.ofNat 32 (0x55+l), false⟩),(l*256+7, ⟨BitVec.ofNat 32 (0x75+l), false⟩),(l*256+8, ⟨BitVec.ofNat 32 (0x75+l), false⟩)]).flatten
def st (m : Mask) (c : Nat) : State := { stateA with team := tm, cur := { unitA with mask := m }, grp := { groupA with r := { v := vs c }, xlate := [(2, { frame := 0x10000, limit := 2^20, writable := true, l1 := true})] } }
def l1s (s : State) : State := { s with cores := [(0, { pilot := true, l1 := [{key := 0x10000, bytes := (List.range 128).map (BitVec.ofNat 8)}] })] }
def teamB : Team := { teamA with stream := 6, core := 1, rank := 1, clusterSize := 2 }
def ces (un : Nat) : List ChanEntry := [2, 15].flatMap fun c => [0,1,2,3,4,39].map fun d => { key := ⟨5, c, d⟩, nextSeq := 65535, ackSeq := (65535 - un), unacked := un }
def full (un : Nat) (s : State) : State := { s with team := { s.team with rank := 0, clusterSize := 2, reserved := [(2, 8), (15, 8)] }, teams := [teamB], iod := { peers := [(7, { epoch := 1, entry := 2 ^ 127 })] }, cores := [(0, { pilot := true, chans := ces un }), (1, {})] }
def sts : List State := [full 5 (st 3 0), full 64 (st 3 0), full 5 (st 7 0), full 5 (st 7 1), full 64 (st 7 0), full 64 (st 1 0), st 1 0, st 7 1, st 1 8, st 5 10, l1s (st 1 0), l1s (st 1 3)]
def ar (sl q : Nat) : Args := { d := 6, a := 0, q := BitVec.ofNat _ q, b := BitVec.ofNat 8 (sl + 64), c := 0xF2 }
def allArgs : List Args := (List.range 7).flatMap fun sl => [ar sl 0x40, ar sl 0x00, ar sl 0x20, ar sl 0x44, ar sl 0x48, ar sl 0x4C, {ar sl 0x40 with c := 0x22}, ar sl 0x10]
def args8 : Args := ((allArgs)[8]?.getD default)
def state8 : State := ((sts)[8]?.getD default)
def args24 : Args := ((allArgs)[24]?.getD default)
def state0 : State := ((sts)[0]?.getD default)
def args16 : Args := ((allArgs)[16]?.getD default)
def state6 : State := ((sts)[6]?.getD default)
def q5_0 := (match state6.lands ((((.st args16, ⟨1, (widthBytes args16.width), args16.order32, .store, (widthRegs args16.width), 0, false⟩) : Instr × MemOp)).2) args16 0 with | .ok (.found q _ _) => q | _ => default)
def wr5_1 := (match state6.lands ((((.st args16, ⟨1, (widthBytes args16.width), args16.order32, .store, (widthRegs args16.width), 0, false⟩) : Instr × MemOp)).2) args16 0 with | .ok (.found _ wr _) => wr | _ => default)
def l15_2 := (match state6.lands ((((.st args16, ⟨1, (widthBytes args16.width), args16.order32, .store, (widthRegs args16.width), 0, false⟩) : Instr × MemOp)).2) args16 0 with | .ok (.found _ _ l1) => l1 | _ => default)
def seq5_3 := (match state6.stamp.takeSeq (state6.grp.core) (⟨state6.team.stream, args16.chan, state6.dieId q5_0⟩) with | .ok (seq, _) => seq | _ => default)
def u5_4 := (match state6.stamp.takeSeq (state6.grp.core) (⟨state6.team.stream, args16.chan, state6.dieId q5_0⟩) with | .ok (_, u) => u | _ => default)
def state5 : State := ((sts)[5]?.getD default)
def q6_5 := (match state5.lands ((((.ld args16, ⟨0, (widthBytes args16.width), args16.order32, .load, (widthRegs args16.width), (widthRegs args16.width), args16.width == 1 || args16.width == 3⟩) : Instr × MemOp)).2) args16 0 with | .ok (.found q _ _) => q | _ => default)
def wr6_6 := (match state5.lands ((((.ld args16, ⟨0, (widthBytes args16.width), args16.order32, .load, (widthRegs args16.width), (widthRegs args16.width), args16.width == 1 || args16.width == 3⟩) : Instr × MemOp)).2) args16 0 with | .ok (.found _ wr _) => wr | _ => default)
def l16_7 := (match state5.lands ((((.ld args16, ⟨0, (widthBytes args16.width), args16.order32, .load, (widthRegs args16.width), (widthRegs args16.width), args16.width == 1 || args16.width == 3⟩) : Instr × MemOp)).2) args16 0 with | .ok (.found _ _ l1) => l1 | _ => default)

theorem wit_MemoryIssue :
    (∃ x : Args, ∃ s : State, let W := widthBytes x.width; let n := widthRegs x.width; let m := atomRegs x; let ls := s.lanesFor x;
      let op := x.q.toNat % 16; ∃ p ∈ ([(.ld x, ⟨0, W, x.order32, .load, n, n, x.width == 1 || x.width == 3⟩), (.st x, ⟨1, W, x.order32, .store, n, 0,
      false⟩), (.stfe x, ⟨3, W, x.order32, .stfe, n, 0, false⟩), (.ldr x, ⟨4, W, 0, .load, n, n, x.width == 1 || x.width == 3⟩), (.atom x, ⟨5, 4 * m,
      x.order54, .atom op, m, m, false⟩), (.cas x, ⟨6, W, x.order32, .cas, 2 * n, n, false⟩), (.red x, ⟨7, 4 * m, x.order54, .red op, m, 0,
      false⟩)] : List (Instr × MemOp)), let o := p.2; Issues s o x ∧ (∀ l ∈ ls, s.lands o x l = .ok .nothing)) ∧
    (∃ x : Args, ∃ s : State, let W := widthBytes x.width; let n := widthRegs x.width; let m := atomRegs x; let ls := s.lanesFor x;
      let op := x.q.toNat % 16; ∃ p ∈ ([(.ld x, ⟨0, W, x.order32, .load, n, n, x.width == 1 || x.width == 3⟩), (.st x, ⟨1, W, x.order32, .store, n, 0,
      false⟩), (.stfe x, ⟨3, W, x.order32, .stfe, n, 0, false⟩), (.ldr x, ⟨4, W, 0, .load, n, n, x.width == 1 || x.width == 3⟩), (.atom x, ⟨5, 4 * m,
      x.order54, .atom op, m, m, false⟩), (.cas x, ⟨6, W, x.order32, .cas, 2 * n, n, false⟩), (.red x, ⟨7, 4 * m, x.order54, .red op, m, 0,
      false⟩)] : List (Instr × MemOp)), let o := p.2; Issues s o x ∧ (∀ l ∈ ls, s.lands o x l = .ok .miss)) ∧
    (∃ x : Args, ∃ s : State, let W := widthBytes x.width; let n := widthRegs x.width; let m := atomRegs x; let y := s.slot x.slot; let ls := s.lanesFor x;
      let core := s.grp.core; let serial := s.serial + 1; let op := x.q.toNat % 16; ∃ p ∈ ([(.ld x, ⟨0, W, x.order32, .load, n, n,
      x.width == 1 || x.width == 3⟩), (.st x, ⟨1, W, x.order32, .store, n, 0, false⟩), (.stfe x, ⟨3, W, x.order32, .stfe, n, 0, false⟩), (.ldr x, ⟨4, W, 0,
      .load, n, n, x.width == 1 || x.width == 3⟩), (.atom x, ⟨5, 4 * m, x.order54, .atom op, m, m, false⟩), (.cas x, ⟨6, W, x.order32, .cas, 2 * n, n,
      false⟩), (.red x, ⟨7, 4 * m, x.order54, .red op, m, 0, false⟩)] : List (Instr × MemOp)), let o := p.2; Issues s o x ∧ ∃ l, ∃ q, ∃ wr, ∃ l1, ls = [l] ∧
      s.lands o x l = .ok (.found q wr l1) ∧ q.onCore core = false ∧ s.lostDev q = false ∧ let key : ChanKey := ⟨s.team.stream, x.chan, s.dieId q⟩;
      let slotted : Bool := o.sub == 4 || ((o.sub == 5 || o.sub == 6) && lySpace y == 3); o.sub ≠ 0 ∧
      (o.releases = true → s.releaseMet s.unitRef x.scope serial (some key) = true) ∧ (slotted = true → (s.freeSlot s.team x.chan).isSome = true ∧
      s.requestsHeld core < 8192) ∧ (slotted = false → 0 < s.entriesFree core) ∧ s.joinHeld s.grp.key.stream x.chan serial = false ∧
      s.grp.key.stream = s.team.stream ∧ s.queuedKey key serial = false ∧ ∃ seq, ∃ u, s.stamp.takeSeq core key = .ok (seq, u)) ∧
    (∃ x : Args, ∃ s : State, let W := widthBytes x.width; let n := widthRegs x.width; let m := atomRegs x; let ls := s.lanesFor x; let core := s.grp.core;
      let serial := s.serial + 1; let op := x.q.toNat % 16; ∃ p ∈ ([(.ld x, ⟨0, W, x.order32, .load, n, n, x.width == 1 || x.width == 3⟩), (.st x, ⟨1, W,
      x.order32, .store, n, 0, false⟩), (.stfe x, ⟨3, W, x.order32, .stfe, n, 0, false⟩), (.ldr x, ⟨4, W, 0, .load, n, n, x.width == 1 || x.width == 3⟩),
      (.atom x, ⟨5, 4 * m, x.order54, .atom op, m, m, false⟩), (.cas x, ⟨6, W, x.order32, .cas, 2 * n, n, false⟩), (.red x, ⟨7, 4 * m, x.order54, .red op,
      m, 0, false⟩)] : List (Instr × MemOp)), let o := p.2; Issues s o x ∧ ∃ l, ∃ q, ∃ wr, ∃ l1, ls = [l] ∧ s.lands o x l = .ok (.found q wr l1) ∧
      q.onCore core = false ∧ s.lostDev q = false ∧ o.sub = 0 ∧ 0 < s.entriesFree core ∧
      (o.releases = true → s.releaseMet s.unitRef x.scope serial none = true) ∧
      (o.acquires = true ∨ l1 = false ∨ s.unperformedAt q o.w = true ∨ s.l1Line core q = none)) :=
  ⟨⟨args8, state8, ((.ld args8, ⟨0, (widthBytes args8.width), args8.order32, .load, (widthRegs args8.width), (widthRegs args8.width),
      args8.width == 1 || args8.width == 3⟩) : Instr × MemOp), by decide +kernel,
      issues_of (by decide +kernel) (by decide +kernel) (by decide +kernel) (by decide +kernel) (by decide +kernel) (by decide +kernel) (by decide +kernel),
      by decide +kernel⟩,
   ⟨args24, state0, ((.ld args24, ⟨0, (widthBytes args24.width), args24.order32, .load, (widthRegs args24.width), (widthRegs args24.width),
      args24.width == 1 || args24.width == 3⟩) : Instr × MemOp), by decide +kernel,
      issues_of (by decide +kernel) (by decide +kernel) (by decide +kernel) (by decide +kernel) (by decide +kernel) (by decide +kernel) (by decide +kernel),
      by decide +kernel⟩,
   ⟨args16, state6, ((.st args16, ⟨1, (widthBytes args16.width), args16.order32, .store, (widthRegs args16.width), 0, false⟩) : Instr × MemOp),
      by decide +kernel,
      issues_of (by decide +kernel) (by decide +kernel) (by decide +kernel) (by decide +kernel) (by decide +kernel) (by decide +kernel) (by decide +kernel),
      0, q5_0, wr5_1, l15_2, by decide +kernel, by decide +kernel, by decide +kernel, by decide +kernel, by decide +kernel, by decide +kernel,
      by decide +kernel, by decide +kernel, by decide +kernel, by decide +kernel, by decide +kernel, seq5_3, u5_4, by decide +kernel⟩,
   ⟨args16, state5, ((.ld args16, ⟨0, (widthBytes args16.width), args16.order32, .load, (widthRegs args16.width), (widthRegs args16.width),
      args16.width == 1 || args16.width == 3⟩) : Instr × MemOp), by decide +kernel,
      issues_of (by decide +kernel) (by decide +kernel) (by decide +kernel) (by decide +kernel) (by decide +kernel) (by decide +kernel) (by decide +kernel),
      0, q6_5, wr6_6, l16_7, by decide +kernel, by decide +kernel, by decide +kernel, by decide +kernel, by decide +kernel, by decide +kernel,
      by decide +kernel, by decide +kernel⟩⟩
end WMemoryIssue

namespace WMem
/-! Helpers: what a decision procedure has found of a lane's place. -/
def placeAt (f : Nat → Except Code Target) (l : Nat) : Place := match f l with | .ok (.found q _ _) => q | _ => .host 0
def l1At (f : Nat → Except Code Target) (l : Nat) : Bool := match f l with | .ok (.found _ _ b) => b | _ => false
def isFound (f : Except Code Target) : Bool := match f with | .ok (.found _ _ _) => true | _ => false
theorem found_of {f : Nat → Except Code Target} {ls : List Nat} (h : (ls.all fun l => isFound (f l)) = true) :
    ∀ l ∈ ls, ∃ wr, f l = .ok (.found (placeAt f l) wr (l1At f l)) := fun l hl => by
  have h' := List.all_eq_true.1 h l hl
  unfold isFound at h'
  split at h'
  · next q wr b e => exact ⟨wr, by simp only [placeAt, l1At, e]⟩
  · cases h'
/-- The entry of a key with places for `n` packets, and one whose window is full. -/
def hasRoom (e : Option ChanEntry) (n : Nat) : Bool := match e with | some e => decide (e.unacked + n ≤ 64) | none => false
def isClosed (e : Option ChanEntry) : Bool := match e with | some e => decide (64 ≤ e.unacked) | none => false
theorem room_of {e : Option ChanEntry} {n : Nat} (h : hasRoom e n = true) : ∃ x, e = some x ∧ x.unacked + n ≤ 64 := by
  unfold hasRoom at h
  split at h
  · exact ⟨_, rfl, by simpa using h⟩
  · cases h
theorem closed_of {e : Option ChanEntry} (h : isClosed e = true) : ∃ x, e = some x ∧ 64 ≤ x.unacked := by
  unfold isClosed at h
  split at h
  · exact ⟨_, rfl, by simpa using h⟩
  · cases h
theorem roomFor_of {s : State} {o : MemOp} {x : Args} {serial : Nat} {place : Nat → Place} {ls : List Nat} (h1 : ls.length ≤ s.entriesFree s.grp.core)
    (h2 : o.releases = true → ∀ l ∈ ls, s.releaseMet s.unitRef x.scope serial (if s.travels o (place l) then some (s.keyFor x (place l)) else none) = true)
    (h3 : (∃ l ∈ ls, s.travels o (place l) = true ∧ o.slotted (place l) = true) →
      ls.length ≤ s.slotsFree x.chan ∧ s.requestsHeld s.grp.core + ls.length ≤ 8192 ∧ s.allTeams.filter (fun T => decide (T.stream = s.team.stream)) = [s.team])
    (h4 : ∀ l ∈ ls, s.travels o (place l) = true → s.grp.key.stream = s.team.stream ∧ s.lostDev (place l) = false ∧
      s.joinHeld s.grp.key.stream x.chan serial = false ∧ s.queuedKey (s.keyFor x (place l)) serial = false ∧
      hasRoom (chanFind (s.core s.grp.core).chans (s.keyFor x (place l))) ls.length = true) : s.RoomFor o x serial place ls :=
  ⟨h1, h2, h3, fun l hl ht => (h4 l hl ht).imp_right fun h => h.imp_right fun h => h.imp_right fun h => h.imp_right room_of⟩

def cluL : BitVec 512 := BitVec.ofNat 512 (0x40000100 + 1 * 2 ^ 64 + 2 * 2 ^ 70 + 8 * 2 ^ 128 + 0x100000 * 2 ^ 288)
def fabL : BitVec 512 := BitVec.ofNat 512 (0x100 + 1 * 2 ^ 64 + 3 * 2 ^ 67 + 2 * 2 ^ 70 + 7 * 2 ^ 80 + 3 * 2 ^ 90 + 8 * 2 ^ 128 + 4 * 2 ^ 288)
def ly1 (space base : Nat) : BitVec 512 := BitVec.ofNat 512 (base + 1 * 2 ^ 64 + space * 2 ^ 67 + 2 * 2 ^ 70 + 8 * 2 ^ 128 + 4 * 2 ^ 288)
def tm : Team := { teamA with slots := [(0, ly1 0 0x100), (2, ly1 1 0x10000), (4, fabL), (6, cluL)], reserved := [(2, 8)], clusterSize := 2 }
def teamB : Team := { teamA with stream := 6, core := 1, rank := 1, clusterSize := 2 }
def ces (un : Nat) : List ChanEntry := [0, 1, 39].map fun d => { key := ⟨5, 2, d⟩, nextSeq := 65535, ackSeq := 65535 - un, unacked := un }
/-- A unit of `n` lanes, lane l with l in v0, whose channel 2 has `un` packets without acknowledgement to each of three dies. -/
def st (n un : Nat) : State := { stateA with
  team := tm, teams := [teamB], cur := { unitA with mask := BitVec.ofNat 1024 (2 ^ n - 1) },
  grp := { groupA with r := { v := (List.range n).map fun l => (256 * l, ⟨BitVec.ofNat 32 l, false⟩) },
                       xlate := [(2, { frame := 0x10000, limit := 2 ^ 20, writable := true, l1 := true })] },
  iod := { peers := [(7, { epoch := 1, entry := 2 ^ 127 })] },
  cores := [(0, { pilot := true, chans := ces un, l1 := [{ key := 0x10000, bytes := List.replicate 128 7 }] }), (1, {})] }
def ar (sl : Nat) : Args := { d := 6, a := 0, q := 0x40, b := BitVec.ofNat 8 (64 + sl), c := 0x02 }
def opSt : MemOp := ⟨1, 4, 0, .store, 1, 0, false⟩
def opLd : MemOp := ⟨0, 4, 0, .load, 1, 1, false⟩
def opLdr : MemOp := ⟨4, 4, 0, .load, 1, 1, false⟩
def lineAt (s : State) (f : Nat → Except Code Target) (l : Nat) : L1Line := (s.l1Line 0 (placeAt f l)).getD { key := 0, bytes := [] }

/-- Accesses of several lanes: one that stays on the core beside one that leaves it, a packet of three lanes in a window that they fill, and requests. -/
theorem wit_MemoryIssue_lanes : ∀ c ∈ ([(opSt, 6, 2, 62), (opSt, 4, 3, 61), (opLdr, 4, 3, 61)] : List (MemOp × Nat × Nat × Nat)),
    ∃ (x : Args) (s : State) (place : Nat → Place), Issues s c.1 x ∧ (s.lanesFor x).length = c.2.2.1 ∧
      (∀ l ∈ s.lanesFor x, ∃ wr l1, s.lands c.1 x l = .ok (.found (place l) wr l1) ∧ c.1.sub ≠ 0) ∧
      (c.1.w = 16 → ∀ l ∈ s.lanesFor x, (place l).coords.1 ≠ 4) ∧ s.RoomFor c.1 x (s.serial + 1) place (s.lanesFor x) ∧
      ∃ l ∈ s.lanesFor x, s.travels c.1 (place l) = true := by
  intro c hc
  simp only [List.mem_cons, List.not_mem_nil, or_false] at hc
  rcases hc with rfl | rfl | rfl
  · exact ⟨ar 6, st 2 62, placeAt (fun l => (st 2 62).lands opSt (ar 6) l), issues_of (by decide +kernel) (by decide +kernel) (by decide +kernel)
      (by decide +kernel) (by decide +kernel) (by decide +kernel) (by decide +kernel), by decide +kernel,
      fun l hl => (found_of (f := fun l => (st 2 62).lands opSt (ar 6) l) (by decide +kernel) l hl).imp fun _ h => ⟨_, h, by decide⟩,
      by decide +kernel, roomFor_of (by decide +kernel) (by decide +kernel) (by decide +kernel) (by decide +kernel), by decide +kernel⟩
  · exact ⟨ar 4, st 3 61, placeAt (fun l => (st 3 61).lands opSt (ar 4) l), issues_of (by decide +kernel) (by decide +kernel) (by decide +kernel)
      (by decide +kernel) (by decide +kernel) (by decide +kernel) (by decide +kernel), by decide +kernel,
      fun l hl => (found_of (f := fun l => (st 3 61).lands opSt (ar 4) l) (by decide +kernel) l hl).imp fun _ h => ⟨_, h, by decide⟩,
      by decide +kernel, roomFor_of (by decide +kernel) (by decide +kernel) (by decide +kernel) (by decide +kernel), by decide +kernel⟩
  · exact ⟨ar 4, st 3 61, placeAt (fun l => (st 3 61).lands opLdr (ar 4) l), issues_of (by decide +kernel) (by decide +kernel) (by decide +kernel)
      (by decide +kernel) (by decide +kernel) (by decide +kernel) (by decide +kernel), by decide +kernel,
      fun l hl => (found_of (f := fun l => (st 3 61).lands opLdr (ar 4) l) (by decide +kernel) l hl).imp fun _ h => ⟨_, h, by decide⟩,
      by decide +kernel, roomFor_of (by decide +kernel) (by decide +kernel) (by decide +kernel) (by decide +kernel), by decide +kernel⟩

/-- Loads of two lanes that hit, and stores of two lanes of which one leaves the core, its window full. -/
theorem wit_MemoryIssue_hits : ∃ (x : Args) (s : State) (place : Nat → Place) (line : Nat → L1Line), Issues s opLd x ∧ opLd.acquires = false ∧
    (s.lanesFor x).length ≤ s.entriesFree s.grp.core ∧ opLd.releases = false ∧ (s.lanesFor x).length = 2 ∧
    ∀ l ∈ s.lanesFor x, ∃ wr, s.lands opLd x l = .ok (.found (place l) wr true) ∧ s.unperformedAt (place l) opLd.w = false ∧
      s.l1Line s.grp.core (place l) = some (line l) := by
  refine ⟨ar 2, st 2 0, placeAt (fun l => (st 2 0).lands opLd (ar 2) l), lineAt (st 2 0) (fun l => (st 2 0).lands opLd (ar 2) l),
    issues_of (by decide +kernel) (by decide +kernel) (by decide +kernel) (by decide +kernel) (by decide +kernel) (by decide +kernel) (by decide +kernel),
    by decide, by decide +kernel, by decide, by decide +kernel, fun l hl => ?_⟩
  have h1 : ∀ l ∈ (st 2 0).lanesFor (ar 2), l1At (fun l => (st 2 0).lands opLd (ar 2) l) l = true := by decide +kernel
  have h2 : ∀ l ∈ (st 2 0).lanesFor (ar 2), (st 2 0).unperformedAt (placeAt (fun l => (st 2 0).lands opLd (ar 2) l) l) opLd.w = false := by decide +kernel
  have h3 : ∀ l ∈ (st 2 0).lanesFor (ar 2), (st 2 0).l1Line (st 2 0).grp.core (placeAt (fun l => (st 2 0).lands opLd (ar 2) l) l) =
    some (lineAt (st 2 0) (fun l => (st 2 0).lands opLd (ar 2) l) l) := by decide +kernel
  obtain ⟨wr, h⟩ := found_of (f := fun l => (st 2 0).lands opLd (ar 2) l) (by decide +kernel) l hl
  exact ⟨wr, by rw [← h1 l hl]; exact h, h2 l hl, h3 l hl⟩

theorem wit_MemoryIssue_window : ∃ (x : Args) (s : State) (place : Nat → Place), Issues s opSt x ∧ (s.lanesFor x).length ≤ s.entriesFree s.grp.core ∧
    s.grp.key.stream = s.team.stream ∧ s.joinHeld s.grp.key.stream x.chan (s.serial + 1) = false ∧
    (∀ l ∈ s.lanesFor x, (∃ wr l1, s.lands opSt x l = .ok (.found (place l) wr l1)) ∧ s.lostDev (place l) = false ∧ opSt.releases = false) ∧
    (∃ l ∈ s.lanesFor x, s.travels opSt (place l) = true) ∧ (∃ l ∈ s.lanesFor x, s.travels opSt (place l) = false) ∧
    ∀ l ∈ s.lanesFor x, s.travels opSt (place l) = true → s.queuedKey (s.keyFor x (place l)) (s.serial + 1) = false ∧
      ∃ e, chanFind (s.core s.grp.core).chans (s.keyFor x (place l)) = some e ∧ 64 ≤ e.unacked := by
  refine ⟨ar 6, st 2 64, placeAt (fun l => (st 2 64).lands opSt (ar 6) l), issues_of (by decide +kernel) (by decide +kernel) (by decide +kernel)
    (by decide +kernel) (by decide +kernel) (by decide +kernel) (by decide +kernel), by decide +kernel, rfl, by decide +kernel, fun l hl => ⟨?_, ?_, rfl⟩,
    by decide +kernel, by decide +kernel, fun l hl ht => ?_⟩
  · exact (found_of (f := fun l => (st 2 64).lands opSt (ar 6) l) (by decide +kernel) l hl).imp fun _ h => ⟨_, h⟩
  · have h : ∀ l ∈ (st 2 64).lanesFor (ar 6), (st 2 64).lostDev (placeAt (fun l => (st 2 64).lands opSt (ar 6) l) l) = false := by decide +kernel
    exact h l hl
  · have h : ∀ l ∈ (st 2 64).lanesFor (ar 6), (st 2 64).travels opSt (placeAt (fun l => (st 2 64).lands opSt (ar 6) l) l) = true →
        (st 2 64).queuedKey ((st 2 64).keyFor (ar 6) (placeAt (fun l => (st 2 64).lands opSt (ar 6) l) l)) ((st 2 64).serial + 1) = false ∧
        isClosed (chanFind ((st 2 64).core (st 2 64).grp.core).chans ((st 2 64).keyFor (ar 6) (placeAt (fun l => (st 2 64).lands opSt (ar 6) l) l))) = true := by
      decide +kernel
    exact (h l hl ht).imp_right closed_of

/-- A unit of `n` lanes parked on a MEM instruction through slot `sl`, whose coordinates it holds, and the state in which it is. -/
def pk (why : ParkWhy) (i : Instr) (sl n : Nat) : Parked :=
  { why := why, instr := i, serial := 40, lanes := BitVec.ofNat 1024 (2 ^ n - 1), rec_ := sget 0 tm.slots sl,
    src := (List.range n).map fun l => (256 * l, ⟨BitVec.ofNat 32 l, false⟩) }
def wk (sl n un : Nat) (why : ParkWhy) (i : Instr) : State := parkedA (st n un) (pk why i sl n)
/-- The state in which the accesses of a walk that has ended are resolved. -/
def walked (t : State) (j : MemJob) (ls : List Nat) : State := (j.vas ls).foldl (fun w va => w.tlbFill va) t

theorem wit_MemoryResumptions_window : ∃ (u : UnitRef) (s t : State) (p : Parked) (x : Args) (place : Nat → Place) (l1 : Nat → Bool), WaitsOn s u .window t p ∧
    memOp p.instr = some (opSt, x) ∧ t.grp.holds t.cur = false ∧ opSt.sub ≠ 2 ∧
    let j := p.job opSt x
    let ls := lanesOf p.lanes
    let v := t
    ls.length = 3 ∧ t.walkChecks j ls = none ∧
    (∀ l ∈ ls, (∃ wr, v.target j l = .ok (.found (place l) wr (l1 l))) ∧ v.heldBySame (place l) opSt.w p.serial = false) ∧
    (∀ l ∈ ls, v.l1Hit opSt (place l) (l1 l) = none) ∧ (opSt.w = 16 → ∀ l ∈ ls, (place l).coords.1 ≠ 4) ∧ t.RoomFor opSt x p.serial place ls := by
  refine ⟨u0, (wk 4 3 61 .window (.st (ar 4))), (wk 4 3 61 .window (.st (ar 4))), (pk .window (.st (ar 4)) 4 3), ar 4, placeAt (fun l => (wk 4 3 61 .window (.st (ar 4))).target ((pk .window (.st (ar 4)) 4 3).job opSt (ar 4)) l),
    l1At (fun l => (wk 4 3 61 .window (.st (ar 4))).target ((pk .window (.st (ar 4)) 4 3).job opSt (ar 4)) l), ⟨by decide +kernel, by decide +kernel, rfl, rfl⟩,
    by decide +kernel, by decide +kernel, by decide, by decide +kernel, by decide +kernel, fun l hl => ⟨?_, ?_⟩, by decide +kernel,
    by decide +kernel, roomFor_of (by decide +kernel) (by decide +kernel) (by decide +kernel) (by decide +kernel)⟩
  · exact found_of (f := fun l => (wk 4 3 61 .window (.st (ar 4))).target ((pk .window (.st (ar 4)) 4 3).job opSt (ar 4)) l) (by decide +kernel) l hl
  · have h : ∀ l ∈ (lanesOf (pk .window (.st (ar 4)) 4 3).lanes), (wk 4 3 61 .window (.st (ar 4))).heldBySame
        (placeAt (fun l => (wk 4 3 61 .window (.st (ar 4))).target ((pk .window (.st (ar 4)) 4 3).job opSt (ar 4)) l) l) opSt.w (pk .window (.st (ar 4)) 4 3).serial = false := by
      decide +kernel
    exact h l hl

theorem wit_MemoryResumptions_walk : ∃ (u : UnitRef) (s t : State) (p : Parked) (x : Args) (place : Nat → Place) (l1 : Nat → Bool), WaitsOn s u .walk t p ∧
    memOp p.instr = some (opSt, x) ∧ t.grp.holds t.cur = false ∧ opSt.sub ≠ 2 ∧
    let j := p.job opSt x
    let ls := lanesOf p.lanes
    let v := (j.vas ls).foldl (fun (w : State) va => w.tlbFill va) t
    ls.length = 2 ∧ t.walkChecks j ls = none ∧
    (∀ l ∈ ls, (∃ wr, v.target j l = .ok (.found (place l) wr (l1 l))) ∧ v.heldBySame (place l) opSt.w p.serial = false) ∧
    (∀ l ∈ ls, v.l1Hit opSt (place l) (l1 l) = none) ∧ (opSt.w = 16 → ∀ l ∈ ls, (place l).coords.1 ≠ 4) ∧ t.RoomFor opSt x p.serial place ls := by
  refine ⟨u0, (wk 6 2 62 .walk (.st (ar 6))), (wk 6 2 62 .walk (.st (ar 6))), (pk .walk (.st (ar 6)) 6 2), ar 6, placeAt (fun l => (walked (wk 6 2 62 .walk (.st (ar 6))) ((pk .walk (.st (ar 6)) 6 2).job opSt (ar 6)) (lanesOf (pk .walk (.st (ar 6)) 6 2).lanes)).target ((pk .walk (.st (ar 6)) 6 2).job opSt (ar 6)) l),
    l1At (fun l => (walked (wk 6 2 62 .walk (.st (ar 6))) ((pk .walk (.st (ar 6)) 6 2).job opSt (ar 6)) (lanesOf (pk .walk (.st (ar 6)) 6 2).lanes)).target ((pk .walk (.st (ar 6)) 6 2).job opSt (ar 6)) l), ⟨by decide +kernel, by decide +kernel, rfl, rfl⟩,
    by decide +kernel, by decide +kernel, by decide, by decide +kernel, by decide +kernel, fun l hl => ⟨?_, ?_⟩, by decide +kernel,
    by decide +kernel, roomFor_of (by decide +kernel) (by decide +kernel) (by decide +kernel) (by decide +kernel)⟩
  · exact found_of (f := fun l => (walked (wk 6 2 62 .walk (.st (ar 6))) ((pk .walk (.st (ar 6)) 6 2).job opSt (ar 6)) (lanesOf (pk .walk (.st (ar 6)) 6 2).lanes)).target ((pk .walk (.st (ar 6)) 6 2).job opSt (ar 6)) l) (by decide +kernel) l hl
  · have h : ∀ l ∈ (lanesOf (pk .walk (.st (ar 6)) 6 2).lanes), (walked (wk 6 2 62 .walk (.st (ar 6))) ((pk .walk (.st (ar 6)) 6 2).job opSt (ar 6)) (lanesOf (pk .walk (.st (ar 6)) 6 2).lanes)).heldBySame
        (placeAt (fun l => (walked (wk 6 2 62 .walk (.st (ar 6))) ((pk .walk (.st (ar 6)) 6 2).job opSt (ar 6)) (lanesOf (pk .walk (.st (ar 6)) 6 2).lanes)).target ((pk .walk (.st (ar 6)) 6 2).job opSt (ar 6)) l) l) opSt.w (pk .walk (.st (ar 6)) 6 2).serial = false := by
      decide +kernel
    exact h l hl

theorem wit_MemoryResumptions_hits : ∃ (u : UnitRef) (s t : State) (p : Parked) (x : Args) (place : Nat → Place) (l1 : Nat → Bool), WaitsOn s u .requestEntry t p ∧
    memOp p.instr = some (opLd, x) ∧ t.grp.holds t.cur = false ∧ opLd.sub ≠ 2 ∧
    let j := p.job opLd x
    let ls := lanesOf p.lanes
    let v := t
    ls.length = 2 ∧ t.walkChecks j ls = none ∧
    (∀ l ∈ ls, (∃ wr, v.target j l = .ok (.found (place l) wr (l1 l))) ∧ v.heldBySame (place l) opLd.w p.serial = false) ∧
    ∃ (y : Nat → Nat) (bad : Nat → Bool), (∀ l ∈ ls, v.l1Hit opLd (place l) (l1 l) = some (y l, bad l)) ∧ ls.length ≤ t.entriesFree t.grp.core ∧
      opLd.releases = false := by
  refine ⟨u0, (wk 2 2 0 .requestEntry (.ld (ar 2))), (wk 2 2 0 .requestEntry (.ld (ar 2))), (pk .requestEntry (.ld (ar 2)) 2 2), ar 2, placeAt (fun l => (wk 2 2 0 .requestEntry (.ld (ar 2))).target ((pk .requestEntry (.ld (ar 2)) 2 2).job opLd (ar 2)) l),
    l1At (fun l => (wk 2 2 0 .requestEntry (.ld (ar 2))).target ((pk .requestEntry (.ld (ar 2)) 2 2).job opLd (ar 2)) l), ⟨by decide +kernel, by decide +kernel, rfl, rfl⟩,
    by decide +kernel, by decide +kernel, by decide, by decide +kernel, by decide +kernel, fun l hl => ⟨?_, ?_⟩, fun l => (((wk 2 2 0 .requestEntry (.ld (ar 2))).l1Hit opLd (placeAt (fun l => (wk 2 2 0 .requestEntry (.ld (ar 2))).target ((pk .requestEntry (.ld (ar 2)) 2 2).job opLd (ar 2)) l) l) (l1At (fun l => (wk 2 2 0 .requestEntry (.ld (ar 2))).target ((pk .requestEntry (.ld (ar 2)) 2 2).job opLd (ar 2)) l) l)).getD (0, false)).1,
    fun l => (((wk 2 2 0 .requestEntry (.ld (ar 2))).l1Hit opLd (placeAt (fun l => (wk 2 2 0 .requestEntry (.ld (ar 2))).target ((pk .requestEntry (.ld (ar 2)) 2 2).job opLd (ar 2)) l) l) (l1At (fun l => (wk 2 2 0 .requestEntry (.ld (ar 2))).target ((pk .requestEntry (.ld (ar 2)) 2 2).job opLd (ar 2)) l) l)).getD (0, false)).2,
    by decide +kernel, by decide +kernel, rfl⟩
  · exact found_of (f := fun l => (wk 2 2 0 .requestEntry (.ld (ar 2))).target ((pk .requestEntry (.ld (ar 2)) 2 2).job opLd (ar 2)) l) (by decide +kernel) l hl
  · have h : ∀ l ∈ (lanesOf (pk .requestEntry (.ld (ar 2)) 2 2).lanes), (wk 2 2 0 .requestEntry (.ld (ar 2))).heldBySame
        (placeAt (fun l => (wk 2 2 0 .requestEntry (.ld (ar 2))).target ((pk .requestEntry (.ld (ar 2)) 2 2).job opLd (ar 2)) l) l) opLd.w (pk .requestEntry (.ld (ar 2)) 2 2).serial = false := by
      decide +kernel
    exact h l hl

theorem seq_of {ε α β : Type} {f : Except ε (α × β)} (h : (match f with | .ok _ => true | .error _ => false) = true) : ∃ a b, f = .ok (a, b) := by
  split at h
  · exact ⟨_, _, rfl⟩
  · cases h
/-- One lane that leaves the core: a load that names no channel, whose line is not present, and a store that takes the next number of its key. -/
def cold : State := { wk 2 1 0 .requestEntry (.ld (ar 2)) with cores := [(0, { pilot := true })] }
theorem wit_MemoryResumptions_load : ∃ (u : UnitRef) (s t : State) (p : Parked) (x : Args) (place : Nat → Place) (l1 : Nat → Bool) (l : Nat),
    WaitsOn s u .requestEntry t p ∧ memOp p.instr = some (opLd, x) ∧ t.grp.holds t.cur = false ∧
    let j := p.job opLd x
    t.walkChecks j [l] = none ∧ lanesOf p.lanes = [l] ∧ (∃ wr, t.target j l = .ok (.found (place l) wr (l1 l))) ∧ t.heldBySame (place l) opLd.w p.serial = false ∧
    (place l).onCore t.grp.core = false ∧ t.lostDev (place l) = false ∧ opLd.releases = false ∧ opLd.channel = false ∧ 0 < t.entriesFree t.grp.core ∧
    t.l1Hit opLd (place l) (l1 l) = none := by
  refine ⟨u0, cold, cold, pk .requestEntry (.ld (ar 2)) 2 1, ar 2, placeAt (fun l => cold.target ((pk .requestEntry (.ld (ar 2)) 2 1).job opLd (ar 2)) l),
    l1At (fun l => cold.target ((pk .requestEntry (.ld (ar 2)) 2 1).job opLd (ar 2)) l), 0, ⟨by decide +kernel, by decide +kernel, rfl, rfl⟩,
    by decide +kernel, by decide +kernel, by decide +kernel, by decide +kernel, ?_, by decide +kernel, by decide +kernel, by decide +kernel, rfl, rfl,
    by decide +kernel, by decide +kernel⟩
  exact found_of (f := fun l => cold.target ((pk .requestEntry (.ld (ar 2)) 2 1).job opLd (ar 2)) l) (ls := [0]) (by decide +kernel) 0 (by decide)
theorem wit_MemoryResumptions_store : ∃ (u : UnitRef) (s t : State) (p : Parked) (x : Args) (place : Nat → Place) (l1 : Nat → Bool) (l : Nat),
    WaitsOn s u .window t p ∧ memOp p.instr = some (opSt, x) ∧ t.grp.holds t.cur = false ∧
    let j := p.job opSt x
    let key := t.keyFor x (place l)
    t.walkChecks j [l] = none ∧ lanesOf p.lanes = [l] ∧ (∃ wr, t.target j l = .ok (.found (place l) wr (l1 l))) ∧ t.heldBySame (place l) opSt.w p.serial = false ∧
    (place l).onCore t.grp.core = false ∧ t.lostDev (place l) = false ∧ opSt.releases = false ∧ opSt.channel = true ∧ opSt.slotted (place l) = false ∧
    0 < t.entriesFree t.grp.core ∧ t.joinHeld t.grp.key.stream x.chan p.serial = false ∧ t.grp.key.stream = t.team.stream ∧
    t.queuedKey key p.serial = false ∧ ∃ seq w, t.takeSeq t.grp.core key = .ok (seq, w) := by
  refine ⟨u0, wk 4 1 63 .window (.st (ar 4)), wk 4 1 63 .window (.st (ar 4)), pk .window (.st (ar 4)) 4 1, ar 4,
    placeAt (fun l => (wk 4 1 63 .window (.st (ar 4))).target ((pk .window (.st (ar 4)) 4 1).job opSt (ar 4)) l),
    l1At (fun l => (wk 4 1 63 .window (.st (ar 4))).target ((pk .window (.st (ar 4)) 4 1).job opSt (ar 4)) l), 0,
    ⟨by decide +kernel, by decide +kernel, rfl, rfl⟩, by decide +kernel, by decide +kernel, by decide +kernel, by decide +kernel, ?_, by decide +kernel,
    by decide +kernel, by decide +kernel, rfl, rfl, by decide +kernel, by decide +kernel, by decide +kernel, rfl, by decide +kernel, ?_⟩
  · exact found_of (f := fun l => (wk 4 1 63 .window (.st (ar 4))).target ((pk .window (.st (ar 4)) 4 1).job opSt (ar 4)) l) (ls := [0]) (by decide +kernel) 0
      (by decide)
  · exact seq_of (by decide +kernel)

end WMem

namespace WLdfe
theorem spad_of {f : Except Code Target} {c k : Nat} {wr l1 : Bool} (h : (match f with | .ok t => decide (t = .found (.spad c k) wr l1) | .error _ => false) = true) :
    f = .ok (.found (.spad c k) wr l1) := by
  split at h
  · simpa using h
  · cases h
/-- A lane's place, once it is known, is the only one. -/
theorem only {f : Except Code Target} {c k : Nat} {wr l1 : Bool} {P : Nat → Nat → Prop} (h : f = .ok (.found (.spad c k) wr l1)) (hp : P c k) :
    ∀ a b, (∃ wr l1, f = .ok (.found (.spad a b) wr l1)) → P a b := by
  rintro a b ⟨_, _, e⟩
  rw [h] at e
  cases e
  exact hp
def tm : Team := { teamA with slots := [(0, lyv 0 0x100 0), (1, lyv 1 0x10000 0)] }
def ar (keep : Bool) : Args := { d := 6, a := 0, q := if keep then 0x40 else 0x41, b := 64, c := 0xF2 }
def op (keep : Bool) : MemOp := ⟨2, 4, 0, if keep then .ldfeKeep else .ldfeClr, 1, 1, false⟩
/-- Granules 16 to 18 of the core's scratchpad are full; lane l of a unit of `n` lanes reads coordinate `cs[l]`. -/
def st (cs : List Nat) : State := { stateA with
  team := tm, cur := { unitA with mask := BitVec.ofNat 1024 (2 ^ cs.length - 1) },
  grp := { groupA with r := { v := cs.zipIdx.map fun p => (256 * p.2, ⟨BitVec.ofNat 32 p.1, false⟩) } },
  mem := { stateA.mem.writeSpad 0 0x100 16 0x1122334455667788 false with full := [(16, true), (17, true), (18, true)] } }
def none_ : State := { st [0] with team := { tm with reserved := [(0, 8192)] } }

/-- LDFE whose lanes find no request entry; one of a full lane; one of a full lane and an empty one, and one of two lanes of one granule that the first empties. -/
theorem wit_FullEmptyLoads_issue :
    (Issues none_ (op true) (ar true) ∧ (∀ f ∈ none_.flights, f.performed = true) ∧
      (∀ l ∈ none_.lanesFor (ar true), ∃ c k, ∃ wr l1, none_.lands (op true) (ar true) l = .ok (.found (.spad c k) wr l1)) ∧ none_.entriesFree none_.grp.core = 0) ∧
    ∀ e ∈ ([([0], true, [0], []), ([0, 4], true, [0], [1]), ([0, 0], false, [0], [1])] : List (List Nat × Bool × List Nat × List Nat)),
      let s := st e.1
      let x := ar e.2.1
      let o := op e.2.1
      let place (l c k : Nat) : Prop := ∃ wr l1, s.lands o x l = .ok (.found (.spad c k) wr l1)
      let empties (c k g : Nat) : Prop := x.q.getLsbD 0 = true ∧ g ∈ blocksOf 16 (spadKey c k) o.w
      Issues s o x ∧ 0 < s.entriesFree s.grp.core ∧ s.lanesFor x = e.2.2.1 ++ e.2.2.2 ∧ (∀ l ∈ s.lanesFor x, ∃ c k, place l c k) ∧
      (∀ l ∈ e.2.2.1, ∀ c k, place l c k → s.mem.isFull c k = true ∧ s.earlierAt (granKey c k) (s.serial + 2) = false) ∧
      ∀ l, e.2.2.2.head? = some l → ∀ c k, place l c k → s.mem.isFull c k = false ∨ s.earlierAt (granKey c k) (s.serial + 2) = true ∨
        ∃ m ∈ e.2.2.1, ∃ c2 k2, place m c2 k2 ∧ empties c2 k2 (granKey c k) := by
  have a0 : none_.lands (op true) (ar true) 0 = .ok (.found (.spad 0 0x100) true false) := spad_of (by decide +kernel)
  have b0 : (st [0]).lands (op true) (ar true) 0 = .ok (.found (.spad 0 0x100) true false) := spad_of (by decide +kernel)
  have c0 : (st [0, 4]).lands (op true) (ar true) 0 = .ok (.found (.spad 0 0x100) true false) := spad_of (by decide +kernel)
  have c1 : (st [0, 4]).lands (op true) (ar true) 1 = .ok (.found (.spad 0 0x200) true false) := spad_of (by decide +kernel)
  have d0 : (st [0, 0]).lands (op false) (ar false) 0 = .ok (.found (.spad 0 0x100) true false) := spad_of (by decide +kernel)
  have d1 : (st [0, 0]).lands (op false) (ar false) 1 = .ok (.found (.spad 0 0x100) true false) := spad_of (by decide +kernel)
  have l0 : none_.lanesFor (ar true) = [0] := by decide +kernel
  have l1 : (st [0]).lanesFor (ar true) = [0] := by decide +kernel
  have l2 : (st [0, 4]).lanesFor (ar true) = [0, 1] := by decide +kernel
  have l3 : (st [0, 0]).lanesFor (ar false) = [0, 1] := by decide +kernel
  refine ⟨⟨issues_of (by decide +kernel) (by decide +kernel) (by decide +kernel) (by decide +kernel) (by decide +kernel) (by decide +kernel) (by decide +kernel),
    by decide +kernel, ?_, by decide +kernel⟩, fun e he => ?_⟩
  · rw [l0]
    exact fun l hl => by cases List.mem_singleton.1 hl; exact ⟨_, _, _, _, a0⟩
  · simp only [List.mem_cons, List.not_mem_nil, or_false] at he
    rcases he with rfl | rfl | rfl
    · refine ⟨issues_of (by decide +kernel) (by decide +kernel) (by decide +kernel) (by decide +kernel) (by decide +kernel) (by decide +kernel) (by decide +kernel),
        by decide +kernel, l1, ?_, ?_, fun l hl => by cases hl⟩
      · intro l hl; rw [l1] at hl; cases List.mem_singleton.1 hl; exact ⟨_, _, _, _, b0⟩
      · intro l hl; cases List.mem_singleton.1 hl; exact only b0 (by decide +kernel)
    · refine ⟨issues_of (by decide +kernel) (by decide +kernel) (by decide +kernel) (by decide +kernel) (by decide +kernel) (by decide +kernel) (by decide +kernel),
        by decide +kernel, l2, ?_, ?_, ?_⟩
      · intro l hl
        rw [l2] at hl
        simp only [List.mem_cons, List.not_mem_nil, or_false] at hl
        rcases hl with rfl | rfl
        · exact ⟨_, _, _, _, c0⟩
        · exact ⟨_, _, _, _, c1⟩
      · intro l hl; cases List.mem_singleton.1 hl; exact only c0 (by decide +kernel)
      · intro l hl; cases hl; exact only c1 (Or.inl (by decide +kernel))
    · refine ⟨issues_of (by decide +kernel) (by decide +kernel) (by decide +kernel) (by decide +kernel) (by decide +kernel) (by decide +kernel) (by decide +kernel),
        by decide +kernel, l3, ?_, ?_, ?_⟩
      · intro l hl
        rw [l3] at hl
        simp only [List.mem_cons, List.not_mem_nil, or_false] at hl
        rcases hl with rfl | rfl
        · exact ⟨_, _, _, _, d0⟩
        · exact ⟨_, _, _, _, d1⟩
      · intro l hl; cases List.mem_singleton.1 hl; exact only d0 (by decide +kernel)
      · intro l hl; cases hl
        exact only d1 (Or.inr (Or.inr ⟨0, by decide, _, _, ⟨_, _, d0⟩, by decide +kernel⟩))

/-- A parked LDFE of one lane, at coordinate `c`. -/
def pk (why : ParkWhy) (c : Nat) : Parked :=
  { why := why, instr := .ldfe (ar true), serial := 40, aux := 16, lanes := 1, rec_ := lyv 0 0x100 0, src := [(0, ⟨BitVec.ofNat 32 c, false⟩)], arrived := 41 }
def wk (why : ParkWhy) (c : Nat) : State := parkedA (st [0]) (pk why c)

/-- A parked LDFE that finds its granule full, and one that finds it empty, from each of the two waits. -/
theorem wit_FullEmptyLoads_resume : ∀ e ∈ ([(.ldfe, 41), (.requestEntry, 1)] : List (ParkWhy × Nat)), ∀ c ∈ ([(0, 0x100, true), (4, 0x200, false)] : List (Nat × Nat × Bool)),
    ∃ (u : UnitRef) (s t : State) (p : Parked), WaitsOn s u e.1 t p ∧ p.instr = .ldfe (ar true) ∧ (e.1 = .ldfe → e.2 = p.arrived) ∧
      (e.1 = .requestEntry → e.2 = t.serial + 1) ∧ t.grp.holds t.cur = false ∧ 0 < t.entriesFree t.grp.core ∧
      lanesOf p.lanes = [0] ∧ t.walkChecks (p.job (op true) (ar true)) [0] = none ∧
      (t.withFrames (t.grp.ownFrames t.cur)).target (p.job (op true) (ar true)) 0 = .ok (.found (.spad 0 c.2.1) true false) ∧
      t.mem.isFull 0 c.2.1 = c.2.2 ∧ t.earlierAt (granKey 0 c.2.1) e.2 = false := by
  intro e he c hc
  simp only [List.mem_cons, List.not_mem_nil, or_false] at he hc
  rcases he with rfl | rfl <;> rcases hc with rfl | rfl
  · exact ⟨u0, wk .ldfe 0, wk .ldfe 0, pk .ldfe 0, ⟨by decide +kernel, by decide +kernel, rfl, rfl⟩, rfl, by decide, by decide, by decide +kernel,
      by decide +kernel, by decide +kernel, by decide +kernel, spad_of (by decide +kernel), by decide +kernel, by decide +kernel⟩
  · exact ⟨u0, wk .ldfe 4, wk .ldfe 4, pk .ldfe 4, ⟨by decide +kernel, by decide +kernel, rfl, rfl⟩, rfl, by decide, by decide, by decide +kernel,
      by decide +kernel, by decide +kernel, by decide +kernel, spad_of (by decide +kernel), by decide +kernel, by decide +kernel⟩
  · exact ⟨u0, wk .requestEntry 0, wk .requestEntry 0, pk .requestEntry 0, ⟨by decide +kernel, by decide +kernel, rfl, rfl⟩, rfl, by decide, by decide +kernel,
      by decide +kernel, by decide +kernel, by decide +kernel, by decide +kernel, spad_of (by decide +kernel), by decide +kernel, by decide +kernel⟩
  · exact ⟨u0, wk .requestEntry 4, wk .requestEntry 4, pk .requestEntry 4, ⟨by decide +kernel, by decide +kernel, rfl, rfl⟩, rfl, by decide, by decide +kernel,
      by decide +kernel, by decide +kernel, by decide +kernel, by decide +kernel, spad_of (by decide +kernel), by decide +kernel, by decide +kernel⟩

theorem wit_FullEmptyLoads_hints : (∃ (x : Args) (s : State), s.Free (hintRegs s x) ∧ s.Clean (s.lanesFor x) (hintRegs s x) ∧ x.q.getLsbD 0 = false) ∧
    ∃ (x : Args) (s : State), x.q.getLsbD 0 = true ∧ s.lanesFor x ≠ [] :=
  ⟨⟨ar true, st [0], free_of (by decide +kernel) (by decide +kernel), clean_of (by decide +kernel), by decide⟩, ⟨ar false, st [0], by decide, by decide +kernel⟩⟩
end WLdfe

namespace WMemoryPerformed
def f0 (k : FKind) (p : Place) : Flight := { id := 3, serial := 5, who := u0, part := 0, place := p, kind := k, data := 0x1234, cmp := 0xFFFFFFFF }
def rl (k : FKind) (p : Place) : Flight := { f0 k p with dst := some 6, nregs := 1 }
def fls : List Flight := [f0 .store (.spad 0 0x100), f0 .stfe (.spad 0 0x100), f0 .store (.spad 1 0x100), rl (.atom 0) (.spad 0 0x100), rl .load (.spad 0 0x100), rl .cas (.spad 0 0x100), f0 (.red 1) (.spad 0 0x100),
 f0 .store (.dram 0x10000), rl .load (.dram 0x10000), rl (.atom 0) (.dram 0x10000), rl .load (.reg 0), f0 .store (.reg 0), f0 .store (.host 0x4000), rl .load (.host 0x4000), rl (.atom 0) (.host 0x4000),
 {rl .load (.fabric 7 3 0x100) with key := some ⟨5,2,40⟩, chan := some 2, seq := some 0, rtag := some 0, request := some 0}, f0 (.red 1) (.host 0x4000), {f0 (.red 1) (.host 0x4000) with width := 8}, {f0 .store (.spad 1 0x100) with remote := true}, {f0 .store (.spad 0 0x100) with races := true}, {f0 .store (.fabric 7 3 0x100) with key := some ⟨5,2,40⟩, chan := some 2, seq := some 0}]
def don (f : Flight) : Flight := {f with performed := true, result := 0x778899}
def mm : Memory := { ((stateA.mem.writeSpad 0 0x100 4 0xFFFFFFFF false).writeDram 0x10000 4 77 true).writeHost 0x4000 4 9 with full := [(5,true)] }
def st (f : Flight) : State := { stateA with flights := [f], mem := mm, port := { stateA.port with up := true }, teams := [], grp := { groupA with r := { v := [(6,⟨1,false⟩)]}}, iod := { stateA.iod with peers := [(7, { entry := BitVec.ofNat 128 (2^127 + 0xFFFF), epoch := 1 })] } }
def dn (f : Flight) : State := { st f with port := { stateA.port with up := false } }
def fst : Flight := {f0 .store (.fabric 7 3 0x100) with key := some ⟨5,2,40⟩, chan := some 2, seq := some 0}
def fld : Flight := {rl .load (.fabric 7 3 0x100) with key := some ⟨5,2,40⟩, chan := some 2, seq := some 0, rtag := some 0, request := some 0}
def pair (f : Flight) : State := { st f with flights := [f, { f with id := 4, place := .fabric 7 3 0x104, data := 0x777, rtag := f.rtag }, { f with id := 9, seq := some 1, place := .fabric 7 3 0x108 }] }
def allState : List State := [pair fst, pair fld] ++ fls.map st ++ (fls.map fun f => { st f with port := { up := true, ideKeys := [(0, 3)], insecure := [(0, true)] } }) ++ (fls.map dn) ++ (fls.map fun f => st (don f))
def state21 : State := ((allState)[21]?.getD default)
def flight19 : Flight := ((fls ++ fls.map don)[19]?.getD default)
def state2 : State := ((allState)[2]?.getD default)
def flight0 : Flight := ((fls ++ fls.map don)[0]?.getD default)
def state9 : State := ((allState)[9]?.getD default)
def flight7 : Flight := ((fls ++ fls.map don)[7]?.getD default)
def a2_0 := (match flight7.place with | .dram a => a | _ => default)
def state12 : State := ((allState)[12]?.getD default)
def flight10 : Flight := ((fls ++ fls.map don)[10]?.getD default)
def a3_1 := (match flight10.place with | .reg a => a | _ => default)
def state14 : State := ((allState)[14]?.getD default)
def flight12 : Flight := ((fls ++ fls.map don)[12]?.getD default)
def a4_2 := (match flight12.place with | .host a => a | _ => default)
def state35 : State := ((allState)[35]?.getD default)
def state0 : State := ((allState)[0]?.getD default)
def flight20 : Flight := ((fls ++ fls.map don)[20]?.getD default)
def state68 : State := ((allState)[68]?.getD default)
def flight24 : Flight := ((fls ++ fls.map don)[24]?.getD default)
def g8_3 := ((state68.group? flight24.who.group).getD default)

theorem wit_MemoryPerformed :
    (∃ s : State, ∃ f : Flight, s.flight? f.id = some f ∧ s.mayPerform f = true ∧ f.reissue = false ∧
      let races (c k : Nat) : Bool := (f.kind == .store || f.kind == .stfe) && (f.races || s.barUpdatePending f c (k / 32 * 32)); ∃ c, ∃ k,
      f.place = .spad c k ∧ races c k = true) ∧
    (∃ s : State, ∃ f : Flight, s.flight? f.id = some f ∧ s.mayPerform f = true ∧ f.reissue = false ∧
      let races (c k : Nat) : Bool := (f.kind == .store || f.kind == .stfe) && (f.races || s.barUpdatePending f c (k / 32 * 32)); ∃ c, ∃ k,
      f.place = .spad c k ∧ races c k = false) ∧
    (∃ s : State, ∃ f : Flight, s.flight? f.id = some f ∧ s.mayPerform f = true ∧ f.reissue = false ∧ ∃ a, f.place = .dram a) ∧
    (∃ s : State, ∃ f : Flight, s.flight? f.id = some f ∧ s.mayPerform f = true ∧ f.reissue = false ∧ ∃ a, f.place = .reg a) ∧
    (∃ s : State, ∃ f : Flight, s.flight? f.id = some f ∧ s.mayPerform f = true ∧ f.reissue = false ∧ ∃ a, f.place = .host a ∧ f.poison = false ∧
      s.port.up = true ∧ s.linkOpen f.part = true) ∧
    (∃ s : State, ∃ f : Flight, s.flight? f.id = some f ∧ s.mayPerform f = true ∧ f.reissue = false ∧ ∃ a, f.place = .host a ∧ f.poison = false ∧
      (s.port.up = false ∨ s.linkOpen f.part = false)) ∧
    (∃ s : State, ∃ f : Flight, s.flight? f.id = some f ∧ s.mayPerform f = true ∧ f.reissue = false ∧ ∃ d, ∃ g, ∃ k, f.place = .fabric d g k ∧ f.done = 0 ∧
      f.key ≠ none ∧ let p := s.egressPacket f;
      let used := ((s.iod.out.filter fun o => decide (o.packet.kind ≤ 4)).map fun o => 32 + (o.packet.payload.length + 31) / 32 * 32).sum;
      used + (32 + (p.payload.length + 31) / 32 * 32) ≤ 16 * 2 ^ 20) ∧
    (∃ s : State, ∃ f : Flight, ∃ g : Group, ∃ d : Nat, s.flight? f.id = some f ∧ f.kind.returns = true ∧ f.performed = true ∧ f.returned = false ∧
      f.copy = none ∧ (∀ T, s.team? f.who.group.stream = some T → T.st = .admitted) ∧ s.group? f.who.group = some g ∧ f.dst = some d) :=
  ⟨⟨state21, flight19, by decide +kernel, by decide +kernel, by decide +kernel, 0, 256, by decide +kernel, by decide +kernel⟩,
   ⟨state2, flight0, by decide +kernel, by decide +kernel, by decide +kernel, 0, 256, by decide +kernel, by decide +kernel⟩,
   ⟨state9, flight7, by decide +kernel, by decide +kernel, by decide +kernel, a2_0, by decide +kernel⟩,
   ⟨state12, flight10, by decide +kernel, by decide +kernel, by decide +kernel, a3_1, by decide +kernel⟩,
   ⟨state14, flight12, by decide +kernel, by decide +kernel, by decide +kernel, a4_2, by decide +kernel, by decide +kernel, by decide +kernel,
      by decide +kernel⟩,
   ⟨state35, flight12, by decide +kernel, by decide +kernel, by decide +kernel, a4_2, by decide +kernel, by decide +kernel, by decide +kernel⟩,
   ⟨state0, flight20, by decide +kernel, by decide +kernel, by decide +kernel, 7, 3, 256, by decide +kernel, by decide +kernel, by decide +kernel,
      by decide +kernel⟩,
   ⟨state68, flight24, g8_3, ((flight24.dst).getD default), by decide +kernel, by decide +kernel, by decide +kernel, by decide +kernel,
      by decide +kernel, by decide +kernel, by decide +kernel, by decide +kernel⟩⟩
end WMemoryPerformed

namespace WPerf
/-- A packet of 16 MiB that waits for transmission, and a store to another device behind it. -/
def big : OutPacket := { dest := 7, packet := { payload := List.replicate (2 ^ 24) 0 } }
def fst : Flight := { id := 3, serial := 5, who := u0, place := .fabric 7 3 0x100, kind := .store, data := 0x1234, key := some ⟨5, 2, 40⟩, chan := some 2, seq := some 0 }
def full : State := { stateA with flights := [fst], iod := { out := [big], peers := [(7, { entry := BitVec.ofNat 128 (2 ^ 127 + 0xFFFF), epoch := 1 })] } }
theorem wit_MemoryPerformed_full : ∃ (s : State) (f : Flight) (d g k : Nat), s.flight? f.id = some f ∧ s.mayPerform f = true ∧ f.reissue = false ∧
    f.place = .fabric d g k ∧ f.done = 0 ∧ f.key ≠ none ∧
    let p := s.egressPacket f
    let used := ((s.iod.out.filter fun o => decide (o.packet.kind ≤ 4)).map fun o => 32 + (o.packet.payload.length + 31) / 32 * 32).sum
    16 * 2 ^ 20 < used + (32 + (p.payload.length + 31) / 32 * 32) := by
  refine ⟨full, fst, 7, 3, 0x100, by decide +kernel, by decide +kernel, rfl, rfl, rfl, by decide, ?_⟩
  have h : (full.iod.out.filter fun o => decide (o.packet.kind ≤ 4)) = [big] := rfl
  simp only [h, List.map_cons, List.map_nil, List.sum_cons, List.sum_nil, big, List.length_replicate]
  omega
end WPerf

namespace WMemoryResumptions
def lyv (space base oob : Nat) : BitVec 512 := BitVec.ofNat 512 (base + 1 * 2 ^ 64 + space * 2^67 + 2 * 2 ^ 70 + oob * 2^73 + 8 * 2 ^ 128 + 4 * 2 ^ 288)
def tm : Team := { teamA with slots := [(0, lyv 0 0x100 0), (2, lyv 1 0x10000 0)], reserved := [(2, 5)] }
def ar (sl q : Nat) : Args := { d := 6, a := 0, q := BitVec.ofNat _ q, b := BitVec.ofNat 8 (sl + 64), c := 0xF2 }
def whys : List ParkWhy := [.walk,.window,.replySlot,.channelTable,.requestEntry,.release]
def insA (x : Args) : List Instr := [.ld x, .st x, .stfe x, .ldr x, .atom x, .cas x, .red x]
def ps : List Parked := [0,2,4].flatMap fun sl => (insA (ar sl 0x40) ++ insA (ar sl 0x48)).flatMap fun i => whys.map fun w => { why := w, instr := i, serial := 40, lanes := 1, rec_ := if sl = 0 then lyv 0 0x100 0 else if sl = 4 then lyv 1 (2^30) 0 else lyv 1 0x10000 0, src := (List.range 12).map fun r => (r, ⟨BitVec.ofNat 32 (if r = 0 then 3 else 0x70 + r), false⟩) }
def st : State := { stateA with team := tm, grp := { groupA with r := { v := [(0,⟨3,false⟩),(6,⟨0x77,false⟩)] }, xlate := [(2, { frame := 0x10000, limit := 2^20, writable := true, l1 := true})] } }
def ce : ChanEntry := { key := ⟨5,2,0⟩, nextSeq := 3, ackSeq := 0, unacked := 3 }
def ak (perf : Bool) : State := { stateA with cores := [(0,{pilot := true, chans := [ce]})], flights := (List.range 3).map fun i => { fl 2 i with seq := some i, key := some ⟨5,2,0⟩, performed := perf || i == 0 } }
def jr : State := { stateA with flights := [{ fl 2 7 with seq := none }] }
def fs : List Flight := [{ fl 2 7 with seq := none }]
def ces (un : Nat) : List ChanEntry := [2, 15].flatMap fun c => [0,1,2,3,4,39].map fun d => { key := ⟨5, c, d⟩, nextSeq := 65535, ackSeq := (65535 - un), unacked := un }
def cluL : BitVec 512 := BitVec.ofNat 512 (0x40000100 + 1 * 2 ^ 64 + 2 * 2 ^ 70 + 8 * 2 ^ 128 + 0x100000 * 2 ^ 288)
def fabL : BitVec 512 := BitVec.ofNat 512 (0x100 + 1 * 2 ^ 64 + 3 * 2^67 + 2 * 2 ^ 70 + 7 * 2^80 + 3 * 2^90 + 8 * 2 ^ 128 + 4 * 2 ^ 288)
def fab1 : BitVec 512 := BitVec.ofNat 512 (0x100 + 1 * 2 ^ 64 + 3 * 2^67 + 2 * 2 ^ 70 + 7 * 2^80 + 3 * 2^90 + 8 * 2 ^ 128 + 32 * 2 ^ 288)
def teamB : Team := { teamA with stream := 6, core := 1, rank := 1, clusterSize := 2 }
def ful (un : Nat) (s : State) : State := { s with team := { s.team with rank := 0, clusterSize := 2, reserved := [(2, 8), (15, 8)] }, teams := [teamB], iod := { peers := [(7, { epoch := 1, entry := 2 ^ 127 })] }, cores := [(0, { pilot := true, chans := ces un }), (1, {})] }
def slY : List (BitVec 512) := [lyv 0 0x100 0, lyv 1 0x10000 0, lyv 1 (2^30) 0, cluL, fabL, fab1]
def psM (m c : Nat) : List Parked := (List.range 6).flatMap fun sl => ([0x40,0x48,0x44,0,0x20].flatMap fun q => insA (ar (if sl = 1 || sl = 2 then 2 else if sl = 0 then 0 else sl+1) q)).flatMap fun i => whys.map fun w => { why := w, instr := i, serial := 40, lanes := BitVec.ofNat _ m, rec_ := slY.getD sl 0, src := (List.range 12).flatMap fun r => [0,1,2].map fun l => (r + 256 * l, ⟨BitVec.ofNat 32 (if r = 0 then l + c else 0x70 + r + l), false⟩) }
def allState : List State := (ps.map fun p => parkedA st p) ++ ((ps.take 20).map fun p => parkedA { st with grp := { st.grp with frames := [{budget := 16}] } } p) ++ (ps.map fun p => parkedA { st with cores := [(0, { pilot := true, l1 := [{key := 0x10000, bytes := (List.range 128).map (BitVec.ofNat 8)}] })] } p) ++ ((psM 3 0).map fun p => parkedA (ful 5 st) p) ++ ((psM 7 1).map fun p => parkedA (ful 64 st) p) ++ ((psM 5 0).map fun p => parkedA (ful 63 st) p) ++ [ak true, ak false, jr]
def state252 : State := ((allState)[252]?.getD default)
def o0_0 := (match memOp (parkOf (selOf state252 u0)).instr with | some (o, _) => o | _ => default)
def x0_1 := (match memOp (parkOf (selOf state252 u0)).instr with | some (_, x) => x | _ => default)
def state4304 : State := ((allState)[4304]?.getD default)
def c5_2 := ((state4304.keyCore (⟨5,2,0⟩ : ChanKey)).getD default)
def e5_3 := ((chanFind (state4304.core c5_2).chans (⟨5,2,0⟩ : ChanKey)).getD default)
def state4306 : State := ((allState)[4306]?.getD default)
def flight0 : Flight := ((fs)[0]?.getD default)
def T6_4 := ((state4306.team? ((flight0.key).getD default).stream).getD default)
def u6_5 := (match state4306.takeSeq flight0.core ((flight0.key).getD default) with | .ok (_, u) => u | _ => default)
def seq6_6 := (match state4306.takeSeq flight0.core ((flight0.key).getD default) with | .ok (seq, _) => seq | _ => default)

theorem wit_MemoryResumptions :
    (∃ u : UnitRef, ∃ s : State, ∃ t : State, ∃ p : Parked, ∃ o : MemOp, ∃ x : Args, ∃ e ∈ ([(.tableWalkComplete u, .walk), (.windowResume u, .window),
      (.replySlotResume u, .replySlot), (.channelTableResume u, .channelTable), (.requestEntryResume u, .requestEntry), (.releaseIssue u,
      .release)] : List (Instr × ParkWhy)), WaitsOn s u e.2 t p ∧ memOp p.instr = some (o, x) ∧ t.grp.holds t.cur = true) ∧
    (∃ s : State, ∃ key : ChanKey, ∃ ack : Nat, ∃ c : Nat, ∃ e : ChanEntry, s.keyCore key = some c ∧ chanFind (s.core c).chans key = some e ∧
      let n := (ack + 65536 - e.ackSeq) % 65536; 1 ≤ n ∧ n ≤ e.unacked ∧ (s.remoteKey key = true ∧ (key, ack) ∈ s.iod.acks ∨ s.remoteKey key = false ∧
      ∀ f ∈ s.flights, inFirst e n f = true → f.performed = true)) ∧
    (∃ s : State, ∃ u : State, ∃ f : Flight, ∃ c : Nat, ∃ seq : Nat, ∃ k : ChanKey, ∃ T : Team, s.flight? f.id = some f ∧ f.chan = some c ∧
      f.key = some k ∧ f.seq = none ∧ (∀ g ∈ s.flights, g.key = some k → g.seq = none → f.serial < g.serial ∨ f.serial = g.serial ∧ f.id ≤ g.id) ∧
      s.team? k.stream = some T ∧ T.st = .admitted ∧ s.joinHeld k.stream c f.serial = false ∧ s.takeSeq f.core k = .ok (seq, u)) :=
  ⟨⟨u0, state252, (selOf state252 u0), (parkOf (selOf state252 u0)), o0_0, x0_1, ((.tableWalkComplete u0, .walk) : Instr × ParkWhy), by decide +kernel,
      ⟨by decide +kernel, by decide +kernel, by decide +kernel, by decide +kernel⟩, by decide +kernel, by decide +kernel⟩,
   ⟨state4304, ⟨5,2,0⟩, 1, c5_2, e5_3, by decide +kernel, by decide +kernel, by decide +kernel, by decide +kernel, by decide +kernel⟩,
   ⟨state4306, u6_5, flight0, ((flight0.chan).getD default), seq6_6, ((flight0.key).getD default), T6_4, by decide +kernel, by decide +kernel,
      by decide +kernel, by decide +kernel, by decide +kernel, by decide +kernel, by decide +kernel, by decide +kernel, by decide +kernel⟩⟩
end WMemoryResumptions

namespace WCopyRequests
def lyv (space base oob : Nat) : BitVec 512 := BitVec.ofNat 512 (base + 1 * 2 ^ 64 + space * 2^67 + 2 * 2 ^ 70 + oob * 2^73 + 8 * 2 ^ 128 + 4 * 2 ^ 288)
def tm : Team := { teamA with slots := [(0, lyv 0 0x100 0), (1, lyv 0 0x200 0), (2, lyv 1 0x10000 0), (3, lyv 0 0x100 1)] }
def rec1 (n f d ch bar rs : Nat) : Nat := n + f*2^32 + d*2^37+ch*2^42+bar*2^46 + (if bar = 1 then 64*2^64 else 0) + 1*2^128 + 2*2^288 + rs*2^448
def rq (n f d : Nat) : CopyReq := { id := 4, serial := 4, stream := 5, who := u0, bytes := n, fromSlot := f, dstSlot := d, chan := 2, e := [1,0,0,0,0], d := [2,0,0,0,0] }
def st (r : Nat) (c : Nat) : State := { (withS stateA [(2, 0x40), (3, 0x44)]) with team := tm, mem := stateA.mem.writeSpad 0 0x40 64 r false, cores := [(0, {pilot := true, copies := (List.range c).map fun i => { rq 4 0 1 with id := 100 + i } })] }
def pk : Parked := { why := .kick, instr := .kick {a := 2, d := 3}, serial := 40, aux := 0x40 }
def eng (rs : List CopyReq) : State := { stateA with team := tm, cores := [(0, {pilot := true, copies := rs})], mem := (stateA.mem.writeSpad 0 0x100 16 0x11223344556677889900AABBCCDDEEFF false).writeDram 0x10000 8 0x55667788 false }
def rz (n f d m : Nat) (os : List (Nat × Nat)) : CopyReq := { rq n f d with resolved := some (sget 0 tm.slots f, sget 0 tm.slots d), moved := m, open_ := os, seg := 2 }
def rqs : List CopyReq := [rq 4 0 1, rq 0 0 1, rz 4 0 1 0 [(0,4)], rz 8 0 2 4 [], rz 4 2 1 0 [], rz 4 3 1 0 [], { rz 4 0 3 0 [] with d := [9,0,0,0,0] }, rz 4 0 1 4 [(0,4)], rz 4 0 1 4 [(0,4),(1,4)], rz 8 0 1 4 [(0,4)]]
def allState : List State := [{ st (rec1 8 0 1 2 0 0) 3 with mem := stateA.mem.writeSpad 0 0x40 64 (rec1 8 0 1 2 0 0) true }, { st (rec1 8 0 1 2 0 0) 3 with grp := { (st (rec1 8 0 1 2 0 0) 3).grp with sys := { domain := 1 } }, parts := [(0, { partA with domains := [(1, BitVec.ofNat 512 (1 + 0xFFFB * 2^48))] })] }, st (rec1 8 9 1 2 0 0) 3, st (rec1 8 0 1 2 0 0) 3, st (rec1 8 0 1 2 1 0) 3, st (rec1 8 0 1 2 0 0) 256, st (rec1 8 0 1 2 0 7) 255, parkedA (st (rec1 8 0 1 2 0 0) 255) pk, parkedA { st (rec1 8 0 1 2 0 0) 3 with mem := stateA.mem.writeSpad 0 0x40 64 (rec1 8 0 1 2 0 0) true } pk] ++ (rqs.map fun r => eng [r]) ++ (rqs.map fun r => eng [{rq 8 0 1 with id := 9, resolved := some (0,0)}, r])
def args1 : Args := {a := 3, d := 3}
def state0 : State := ((allState)[0]?.getD default)
def args0 : Args := {a := 2, d := 3}
def state5 : State := ((allState)[5]?.getD default)
def off1_0 := (match state5.kickAddr (state5.sr args0.a.toNat) with | .ok off => off | _ => default)
def off2_1 := (match state0.kickAddr (state0.sr args0.a.toNat) with | .ok off => off | _ => default)
def state3 : State := ((allState)[3]?.getD default)
def off3_2 := (match state3.kickAddr (state3.sr args0.a.toNat) with | .ok off => off | _ => default)
def state6 : State := ((allState)[6]?.getD default)
def off4_3 := (match state6.kickAddr (state6.sr args0.a.toNat) with | .ok off => off | _ => default)
def state1 : State := ((allState)[1]?.getD default)
def off5_4 := (match state1.kickAddr (state1.sr args0.a.toNat) with | .ok off => off | _ => default)
def state2 : State := ((allState)[2]?.getD default)
def off6_5 := (match state2.kickAddr (state2.sr args0.a.toNat) with | .ok off => off | _ => default)
def state7 : State := ((allState)[7]?.getD default)
def x7_6 := (match (parkOf (selOf state7 u0)).instr with | .kick x => x | _ => default)
def off7_7 := (match (selOf state7 u0).kickAddr (parkOf (selOf state7 u0)).aux with | .ok off => off | _ => default)
def state8 : State := ((allState)[8]?.getD default)
def x8_8 := (match (parkOf (selOf state8 u0)).instr with | .kick x => x | _ => default)
def off8_9 := (match (selOf state8 u0).kickAddr (parkOf (selOf state8 u0)).aux with | .ok off => off | _ => default)
def state9 : State := ((allState)[9]?.getD default)
def r9_10 := (((state9.core 0).copies.find? (fun q => q.resolved.isNone)).getD default)
def state10 : State := ((allState)[10]?.getD default)
def r10_11 := (((state10.core 0).copies.find? (fun q => q.resolved.isNone)).getD default)
def state15 : State := ((allState)[15]?.getD default)
def fy11_12 := (match ((state15.copy? 0 4).getD default).resolved with | some (fy, _) => fy | _ => default)
def dy11_13 := (match ((state15.copy? 0 4).getD default).resolved with | some (_, dy) => dy | _ => default)
def p11_14 := (match state15.elemPlace ((state15.copy? 0 4).getD default) fy11_12 ((state15.copy? 0 4).getD default).fromSlot ((state15.copy? 0 4).getD default).e false with | .ok p => p | _ => default)
def q11_15 := (match state15.elemPlace ((state15.copy? 0 4).getD default) dy11_13 ((state15.copy? 0 4).getD default).dstSlot ((state15.copy? 0 4).getD default).d true with | .ok q => q | _ => default)
def state11 : State := ((allState)[11]?.getD default)
def fy12_16 := (match ((state11.copy? 0 4).getD default).resolved with | some (fy, _) => fy | _ => default)
def dy12_17 := (match ((state11.copy? 0 4).getD default).resolved with | some (_, dy) => dy | _ => default)
def p12_18 := (match state11.elemPlace ((state11.copy? 0 4).getD default) fy12_16 ((state11.copy? 0 4).getD default).fromSlot ((state11.copy? 0 4).getD default).e false with | .ok p => p | _ => default)
def q12_19 := (match state11.elemPlace ((state11.copy? 0 4).getD default) dy12_17 ((state11.copy? 0 4).getD default).dstSlot ((state11.copy? 0 4).getD default).d true with | .ok q => q | _ => default)
def state12 : State := ((allState)[12]?.getD default)
def fy13_20 := (match ((state12.copy? 0 4).getD default).resolved with | some (fy, _) => fy | _ => default)
def dy13_21 := (match ((state12.copy? 0 4).getD default).resolved with | some (_, dy) => dy | _ => default)
def p13_22 := (match state12.elemPlace ((state12.copy? 0 4).getD default) fy13_20 ((state12.copy? 0 4).getD default).fromSlot ((state12.copy? 0 4).getD default).e false with | .ok p => p | _ => default)
def q13_23 := (match state12.elemPlace ((state12.copy? 0 4).getD default) dy13_21 ((state12.copy? 0 4).getD default).dstSlot ((state12.copy? 0 4).getD default).d true with | .ok q => q | _ => default)
def o14_24 := (((((state11.copy? 0 4).getD default).open_.find? fun a => state11.segmentDone 0 4 a.1)).getD default)
def state16 : State := ((allState)[16]?.getD default)
def o15_25 := (((((state16.copy? 0 4).getD default).open_.find? fun a => state16.segmentDone 0 4 a.1)).getD default)

theorem wit_CopyRequests_1 :
    (∃ x : Args, ∃ s : State, s.guardU x.gp x.gn = true ∧ s.inGate = false ∧ s.CleanS [x.a.toNat] ∧ s.quietCore = true ∧ s.sr x.a.toNat % 64 ≠ 0) ∧
    (∃ x : Args, ∃ s : State, s.guardU x.gp x.gn = true ∧ s.inGate = false ∧ s.CleanS [x.a.toNat] ∧ s.quietCore = true ∧ ∃ off,
      s.kickAddr (s.sr x.a.toNat) = .ok off ∧ s.copyQueueFull s.grp.core = true) ∧
    (∃ x : Args, ∃ s : State, s.guardU x.gp x.gn = true ∧ s.inGate = false ∧ s.CleanS [x.a.toNat] ∧ s.quietCore = true ∧ ∃ off,
      s.kickAddr (s.sr x.a.toNat) = .ok off ∧ s.copyQueueFull s.grp.core = false ∧ s.mem.spadBad s.grp.core off 64 = true) ∧
    (∃ x : Args, ∃ s : State, s.guardU x.gp x.gn = true ∧ s.inGate = false ∧ s.CleanS [x.a.toNat] ∧ s.quietCore = true ∧ ∃ off,
      s.kickAddr (s.sr x.a.toNat) = .ok off ∧ let y := BitVec.ofNat 512 (s.mem.readSpad s.grp.core off 64); s.copyQueueFull s.grp.core = false ∧
      s.mem.spadBad s.grp.core off 64 = false ∧ s.CopyLegal y) ∧
    (∃ x : Args, ∃ s : State, s.guardU x.gp x.gn = true ∧ s.inGate = false ∧ s.CleanS [x.a.toNat] ∧ s.quietCore = true ∧ ∃ off,
      s.kickAddr (s.sr x.a.toNat) = .ok off ∧ let y := BitVec.ofNat 512 (s.mem.readSpad s.grp.core off 64); s.copyQueueFull s.grp.core = false ∧
      s.mem.spadBad s.grp.core off 64 = false ∧ let reserved : Prop := y.extractLsb' 448 64 = 0 ∧ y.extractLsb' 96 32 = 0 ∧ y.extractLsb' 47 17 = 0;
      ¬ reserved) ∧
    (∃ x : Args, ∃ s : State, s.guardU x.gp x.gn = true ∧ s.inGate = false ∧ s.CleanS [x.a.toNat] ∧ s.quietCore = true ∧ ∃ off,
      s.kickAddr (s.sr x.a.toNat) = .ok off ∧ let y := BitVec.ofNat 512 (s.mem.readSpad s.grp.core off 64); s.copyQueueFull s.grp.core = false ∧
      s.mem.spadBad s.grp.core off 64 = false ∧ let reserved : Prop := y.extractLsb' 448 64 = 0 ∧ y.extractLsb' 96 32 = 0 ∧ y.extractLsb' 47 17 = 0;
      reserved ∧ s.chanAllowed (y.extractLsb' 42 4).toNat = false) ∧
    (∃ x : Args, ∃ s : State, s.guardU x.gp x.gn = true ∧ s.inGate = false ∧ s.CleanS [x.a.toNat] ∧ s.quietCore = true ∧ ∃ off,
      s.kickAddr (s.sr x.a.toNat) = .ok off ∧ let y := BitVec.ofNat 512 (s.mem.readSpad s.grp.core off 64); s.copyQueueFull s.grp.core = false ∧
      s.mem.spadBad s.grp.core off 64 = false ∧ let reserved : Prop := y.extractLsb' 448 64 = 0 ∧ y.extractLsb' 96 32 = 0 ∧ y.extractLsb' 47 17 = 0;
      reserved ∧ s.chanAllowed (y.extractLsb' 42 4).toNat = true ∧ sget 0 s.team.slots (y.extractLsb' 32 5).toNat = 0) ∧
    (∃ u : UnitRef, ∃ s : State, ∃ t : State, ∃ p : Parked, ∃ x : Args, ∃ off : Nat, WaitsOn s u .kick t p ∧ p.instr = .kick x ∧
      t.copyQueueFull t.grp.core = false ∧ t.earlierKick p.serial = false ∧ t.kickAddr p.aux = .ok off ∧ t.mem.spadBad t.grp.core off 64 = false ∧
      let y := BitVec.ofNat 512 (t.mem.readSpad t.grp.core off 64); t.CopyLegal y) ∧
    (∃ u : UnitRef, ∃ s : State, ∃ t : State, ∃ p : Parked, ∃ x : Args, ∃ off : Nat, WaitsOn s u .kick t p ∧ p.instr = .kick x ∧
      t.copyQueueFull t.grp.core = false ∧ t.earlierKick p.serial = false ∧ t.kickAddr p.aux = .ok off ∧ t.mem.spadBad t.grp.core off 64 = true) ∧
    (∃ core : Nat, ∃ id : Nat, ∃ s : State, ∃ r : CopyReq, ((s.core core).copies.find? (fun q => q.resolved.isNone) = some r) ∧ s.copy? core id = some r ∧
      s.engineRuns r.part = true ∧ r.core = core ∧ let fy := sget 0 (s.copyTable r) r.fromSlot; let dy := sget 0 (s.copyTable r) r.dstSlot; fy ≠ 0 ∧
      dy ≠ 0 ∧ lyEsize fy = lyEsize dy ∧ r.bytes % 2 ^ lyEsize fy = 0 ∧ r.bytes ≠ 0) ∧
    (∃ core : Nat, ∃ id : Nat, ∃ s : State, ∃ r : CopyReq, ((s.core core).copies.find? (fun q => q.resolved.isNone) = some r) ∧ s.copy? core id = some r ∧
      s.engineRuns r.part = true ∧ r.core = core ∧ let fy := sget 0 (s.copyTable r) r.fromSlot; let dy := sget 0 (s.copyTable r) r.dstSlot; fy ≠ 0 ∧
      dy ≠ 0 ∧ lyEsize fy = lyEsize dy ∧ r.bytes % 2 ^ lyEsize fy = 0 ∧ r.bytes = 0 ∧ r.flag = none ∧ (∀ p ∈ s.parts, ∀ b ∈ p.2.bundles, b.toCopy = [])) ∧
    (∃ core : Nat, ∃ id : Nat, ∃ s : State, ∃ r : CopyReq, ∃ fy : BitVec 512, ∃ dy : BitVec 512, ∃ p : Option Place, ∃ q : Option Place,
      s.copy? core id = some r ∧ r.resolved = some (fy, dy) ∧ r.moved + 2 ^ lyEsize fy = r.bytes ∧ s.engineRuns r.part = true ∧ s.copyReady r = true ∧
      s.elemPlace r fy r.fromSlot r.e false = .ok p ∧ s.elemPlace r dy r.dstSlot r.d true = .ok q ∧ q = none) :=
  ⟨⟨args1, state0, by decide +kernel, by decide +kernel, cleanS_of (by decide +kernel), by decide +kernel, by decide +kernel⟩,
   ⟨args0, state5, by decide +kernel, by decide +kernel, cleanS_of (by decide +kernel), by decide +kernel, off1_0, by decide +kernel, by decide +kernel⟩,
   ⟨args0, state0, by decide +kernel, by decide +kernel, cleanS_of (by decide +kernel), by decide +kernel, off2_1, by decide +kernel, by decide +kernel,
      by decide +kernel⟩,
   ⟨args0, state3, by decide +kernel, by decide +kernel, cleanS_of (by decide +kernel), by decide +kernel, off3_2, by decide +kernel, by decide +kernel,
      by decide +kernel, legal_of (by decide +kernel) (by decide +kernel) (by decide +kernel) (by decide +kernel) (by decide +kernel)⟩,
   ⟨args0, state6, by decide +kernel, by decide +kernel, cleanS_of (by decide +kernel), by decide +kernel, off4_3, by decide +kernel, by decide +kernel,
      by decide +kernel, by decide +kernel⟩,
   ⟨args0, state1, by decide +kernel, by decide +kernel, cleanS_of (by decide +kernel), by decide +kernel, off5_4, by decide +kernel, by decide +kernel,
      by decide +kernel, by decide +kernel, by decide +kernel⟩,
   ⟨args0, state2, by decide +kernel, by decide +kernel, cleanS_of (by decide +kernel), by decide +kernel, off6_5, by decide +kernel, by decide +kernel,
      by decide +kernel, by decide +kernel, by decide +kernel, by decide +kernel⟩,
   ⟨u0, state7, (selOf state7 u0), (parkOf (selOf state7 u0)), x7_6, off7_7, ⟨by decide +kernel, by decide +kernel, by decide +kernel,
      by decide +kernel⟩, by decide +kernel, by decide +kernel, by decide +kernel, by decide +kernel, by decide +kernel,
      legal_of (by decide +kernel) (by decide +kernel) (by decide +kernel) (by decide +kernel) (by decide +kernel)⟩,
   ⟨u0, state8, (selOf state8 u0), (parkOf (selOf state8 u0)), x8_8, off8_9, ⟨by decide +kernel, by decide +kernel, by decide +kernel,
      by decide +kernel⟩, by decide +kernel, by decide +kernel, by decide +kernel, by decide +kernel, by decide +kernel⟩,
   ⟨0, 4, state9, r9_10, by decide +kernel, by decide +kernel, by decide +kernel, by decide +kernel, by decide +kernel, by decide +kernel,
      by decide +kernel, by decide +kernel, by decide +kernel⟩,
   ⟨0, 4, state10, r10_11, by decide +kernel, by decide +kernel, by decide +kernel, by decide +kernel, by decide +kernel, by decide +kernel,
      by decide +kernel, by decide +kernel, by decide +kernel, by decide +kernel, by decide +kernel⟩,
   ⟨0, 4, state15, ((state15.copy? 0 4).getD default), fy11_12, dy11_13, p11_14, q11_15, by decide +kernel, by decide +kernel, by decide +kernel,
      by decide +kernel, by decide +kernel, by decide +kernel, by decide +kernel, by decide +kernel⟩⟩
theorem wit_CopyRequests_2 :
    (∃ core : Nat, ∃ id : Nat, ∃ s : State, ∃ r : CopyReq, ∃ fy : BitVec 512, ∃ dy : BitVec 512, ∃ p : Option Place, ∃ q : Option Place,
      s.copy? core id = some r ∧ r.resolved = some (fy, dy) ∧ r.moved + 2 ^ lyEsize fy = r.bytes ∧ s.engineRuns r.part = true ∧ s.copyReady r = true ∧
      s.elemPlace r fy r.fromSlot r.e false = .ok p ∧ s.elemPlace r dy r.dstSlot r.d true = .ok q ∧ ∃ o, q = some (.spad core o)) ∧
    (∃ core : Nat, ∃ id : Nat, ∃ s : State, ∃ r : CopyReq, ∃ fy : BitVec 512, ∃ dy : BitVec 512, ∃ p : Option Place, ∃ q : Option Place,
      s.copy? core id = some r ∧ r.resolved = some (fy, dy) ∧ r.moved + 2 ^ lyEsize fy = r.bytes ∧ s.engineRuns r.part = true ∧ s.copyReady r = true ∧
      s.elemPlace r fy r.fromSlot r.e false = .ok p ∧ s.elemPlace r dy r.dstSlot r.d true = .ok q ∧ ∃ a, q = some (.dram a) ∧ 0 < s.entriesFree core) ∧
    (∃ core : Nat, ∃ id : Nat, ∃ s : State, ∃ r : CopyReq, ∃ o : Nat × Nat, s.copy? core id = some r ∧ r.core = core ∧ r.id = id ∧ r.bar = none ∧
      ((r.open_.find? fun a => s.segmentDone core id a.1) = some o) ∧ let rest := r.open_.filter fun p => decide (p ≠ o); (r.moved < r.bytes ∨ rest ≠ [])) ∧
    (∃ core : Nat, ∃ id : Nat, ∃ s : State, ∃ r : CopyReq, ∃ o : Nat × Nat, s.copy? core id = some r ∧ r.core = core ∧ r.id = id ∧ r.bar = none ∧
      ((r.open_.find? fun a => s.segmentDone core id a.1) = some o) ∧ let rest := r.open_.filter fun p => decide (p ≠ o); r.bytes ≤ r.moved ∧ rest = [] ∧
      r.flag = none ∧ (∀ p ∈ s.parts, ∀ b ∈ p.2.bundles, b.toCopy = [])) :=
  ⟨⟨0, 4, state11, ((state11.copy? 0 4).getD default), fy12_16, dy12_17, p12_18, q12_19, by decide +kernel, by decide +kernel, by decide +kernel,
      by decide +kernel, by decide +kernel, by decide +kernel, by decide +kernel, 544, by decide +kernel⟩,
   ⟨0, 4, state12, ((state12.copy? 0 4).getD default), fy13_20, dy13_21, p13_22, q13_23, by decide +kernel, by decide +kernel, by decide +kernel,
      by decide +kernel, by decide +kernel, by decide +kernel, by decide +kernel, 65568, by decide +kernel, by decide +kernel⟩,
   ⟨0, 4, state11, ((state11.copy? 0 4).getD default), o14_24, by decide +kernel, by decide +kernel, by decide +kernel, by decide +kernel,
      by decide +kernel, by decide +kernel⟩,
   ⟨0, 4, state16, ((state16.copy? 0 4).getD default), o15_25, by decide +kernel, by decide +kernel, by decide +kernel, by decide +kernel,
      by decide +kernel, by decide +kernel, by decide +kernel, by decide +kernel, by decide +kernel⟩⟩
end WCopyRequests

namespace WMatrixIssue
def ly2 (es base s0 s1 oob : Nat) : BitVec 512 := BitVec.ofNat 512 (base + 2 * 2 ^ 64 + es * 2 ^ 70 + oob * 2^73 + 64 * 2 ^ 128 + 64 * 2^160 + s0 * 2 ^ 288 + s1 * 2^328)
def tm : Team := { teamA with slots := [(0, ly2 0 0x100 1 16 0), (1, ly2 0 0x200 1 16 0), (2, ly2 2 0x400 1 32 0)], ctx := some 0, tiles := 6, tile0 := 1 }
def wds : List (Nat × Word) := [(8, 0), (9, 0x100), (10,0),(11,0),(12,0),(13,0), (16, 0), (17, 2), (18,0),(19,0), (24, 63), (25, 0x100)]
def dum : MEntry := { kind := .mzero, id := 77 }
def st (F G : Word) (n : Nat) : State := { (withS stateA wds) with team := tm, cur := { unitA with mask := 3 }, grp := { groupA with r := { (withS stateA wds).grp.r with v := [(5, ⟨F,false⟩), (256+5,⟨G,false⟩)] } }, cores := [(0, {pilot := true, mctx := [(0, {queue := (List.range n).map fun i => {dum with id := 100+i}})]})], mem := stateA.mem.writeDram 0 16 0x0F0000000F0000000F0000000F false }
def am (m : Nat) : Args := { d := 5, c := 8, q := BitVec.ofNat _ (m + 4*15) }
def xs : List Args := [am 0, am 1, am 2, {am 2 with a := 8}, {am 1 with c := 16}, {am 1 with b := 3}, {am 1 with b := 0x53}, {am 2 with b := 0x53}]
def dsc : List Word := [0,0x100,0,0,0,0,0,0]
def mp (p : Nat) (f : Word) : MPart := { who := ⟨⟨5,1⟩,0⟩, p := p, fmt := f, desc := dsc }
def jn (s : State) (n : Nat) (ps : List MPart) : State := { s with team := { s.team with mjoins := [{ tag := 3, n := n, parts := ps }] } }
def pend (s : State) : State := { s with flights := [{ id := 9, serial := 9, kind := .load, who := u0, dst := some 3, nregs := 1 }], cur := { s.cur with region := some { slot := 0, regs := [3,7], lanes := 3, dirty := [3] } } }
def pk : Parked := { why := .matrixPlace, instr := .mloop (am 1), serial := 40, entry := some { dum with id := 40 } }
def args0 : Args := ((xs)[0]?.getD default)
def args6 : Args := ((xs)[6]?.getD default)
def state7 : State := jn (st 0 0 3) 2 [mp 0 1]
def j5_0 := (((state7.team.mjoins.find? fun k => k.tag = (args6.b.toNat % 16))).getD default)
def state5 : State := jn (st 0 0 3) 2 [mp 0 0]
def j6_1 := (((state5.team.mjoins.find? fun k => k.tag = (args6.b.toNat % 16))).getD default)
def args7 : Args := ((xs)[7]?.getD default)
def j7_2 := (((state5.team.mjoins.find? fun k => k.tag = (args7.b.toNat % 16))).getD default)
def args5 : Args := ((xs)[5]?.getD default)
def j8_3 := (((state5.team.mjoins.find? fun k => k.tag = (args5.b.toNat % 16))).getD default)
def state11 : State := jn (st 0 0 3) 2 [mp 1 0]
def j9_4 := (((state11.team.mjoins.find? fun k => k.tag = (args6.b.toNat % 16))).getD default)
def state13 : State := pend (st 0 1 3)
def state8 : State := jn (st 0 1 3) 2 [mp 0 0]
def j12_5 := (((state8.team.mjoins.find? fun k => k.tag = (args6.b.toNat % 16))).getD default)
def state4 : State := parkedA (st 0 0 15) pk
def e13_6 := (((parkOf (selOf state4 u0)).entry).getD default)

theorem wit_MatrixIssue_1 :
    (∃ x : Args, ∃ s : State, ∃ F : Word, s.placeOpen s.grp.core (s.team.ctx.getD 0) (s.serial + 1) = true) ∧
    (∃ x : Args, ∃ s : State, ∃ F : Word, let words (n : Nat) : List Word := (List.range n).map fun i => (s.sreg (x.c.toNat + i)).val;
      let env := s.spadEnv s.team s.dom none; let bound := s.team.ctx.isSome; let cregs (n : Nat) : List Nat := (List.range n).map fun i => x.c.toNat + i;
      let agree : Prop := ∀ l, l < s.grp.lanes → s.cur.mask.getLsbD l = true → (s.vreg l x.d.toNat).val = F; ∃ p ∈ ([(.mloop x, .mloop), (.mrsum x,
      .mrsum)] : List (Instr × MKind)), MatrixReady s x (s.stepRegs x) [x.d.toNat] (cregs 8) ∧ agree ∧
      stepChecks p.2 x.amode F.toNat (words 8) bound s.team.tiles = none ∧ (∀ e, IsEntry s x p.2 x.amode F (words 8) e → e.operandCheck env = none)) ∧
    (∃ x : Args, ∃ s : State, ∃ F : Word, let words (n : Nat) : List Word := (List.range n).map fun i => (s.sreg (x.c.toNat + i)).val;
      let env := s.spadEnv s.team s.dom none; let bound := s.team.ctx.isSome; let cregs (n : Nat) : List Nat := (List.range n).map fun i => x.c.toNat + i;
      ∃ p ∈ ([(.mzero x, .mzero, 1), (.mlda x, .mlda, 4), (.mdrn x, .mdrn, 4)] : List (Instr × MKind × Nat)), MatrixReady s x [] [] (cregs p.2.2) ∧
      transferChecks p.2.1 (words p.2.2) bound s.team.tiles = none ∧ (∀ e, IsEntry s x p.2.1 0 0 (words p.2.2) e → e.operandCheck env = none)) ∧
    (∃ x : Args, ∃ s : State, ∃ F : Word, let words (n : Nat) : List Word := (List.range n).map fun i => (s.sreg (x.c.toNat + i)).val;
      let env := s.spadEnv s.team s.dom none; let bound := s.team.ctx.isSome; let cregs (n : Nat) : List Nat := (List.range n).map fun i => x.c.toNat + i;
      let agree : Prop := ∀ l, l < s.grp.lanes → s.cur.mask.getLsbD l = true → (s.vreg l x.d.toNat).val = F; let n := x.b.toNat / 64 % 4 + 1;
      let tag := x.b.toNat % 16; MatrixReady s x (s.stepRegs x) [x.d.toNat] (cregs 8) ∧ agree ∧
      stepChecks .mloop x.amode F.toNat (words 8) bound s.team.tiles = none ∧ (∀ e, IsEntry s x .mloop x.amode F (words 8) e → e.operandCheck env = none) ∧
      ((s.team.mjoins.find? fun k => k.tag = tag) = none) ∧ n = 1 ∧ (x.amode < 2 ∨ (mShape (mfFusion F.toNat)).1 = 16)) ∧
    (∃ x : Args, ∃ s : State, ∃ F : Word, let words (n : Nat) : List Word := (List.range n).map fun i => (s.sreg (x.c.toNat + i)).val;
      let env := s.spadEnv s.team s.dom none; let bound := s.team.ctx.isSome; let cregs (n : Nat) : List Nat := (List.range n).map fun i => x.c.toNat + i;
      let agree : Prop := ∀ l, l < s.grp.lanes → s.cur.mask.getLsbD l = true → (s.vreg l x.d.toNat).val = F; let n := x.b.toNat / 64 % 4 + 1;
      let tag := x.b.toNat % 16; MatrixReady s x (s.stepRegs x) [x.d.toNat] (cregs 8) ∧ agree ∧
      stepChecks .mloop x.amode F.toNat (words 8) bound s.team.tiles = none ∧ (∀ e, IsEntry s x .mloop x.amode F (words 8) e → e.operandCheck env = none) ∧
      ((s.team.mjoins.find? fun k => k.tag = tag) = none) ∧ n ≠ 1) ∧
    (∃ x : Args, ∃ s : State, ∃ F : Word, let words (n : Nat) : List Word := (List.range n).map fun i => (s.sreg (x.c.toNat + i)).val;
      let cregs (n : Nat) : List Nat := (List.range n).map fun i => x.c.toNat + i;
      let agree : Prop := ∀ l, l < s.grp.lanes → s.cur.mask.getLsbD l = true → (s.vreg l x.d.toNat).val = F; let n := x.b.toNat / 64 % 4 + 1;
      let me := x.b.toNat / 16 % 4; let tag := x.b.toNat % 16; ∃ j, ((s.team.mjoins.find? fun k => k.tag = tag) = some j) ∧
      MatrixReady s x (s.stepRegs x) [x.d.toNat] (cregs 8) ∧ let last : Prop := j.n = n ∧ (∀ q ∈ j.parts, q.p ≠ me) ∧ j.parts.length + 1 = n;
      let same : Prop := ∀ q ∈ j.parts, q.fmt = F ∧ q.desc = words 8; last ∧ agree ∧ ¬ same ∧ s.waitsRelease = false ∧ ∃ pc,
      s.runEnd s.cur.pc.toNat s.cur.run.left = .ok pc) ∧
    (∃ x : Args, ∃ s : State, ∃ F : Word, let words (n : Nat) : List Word := (List.range n).map fun i => (s.sreg (x.c.toNat + i)).val;
      let env := s.spadEnv s.team s.dom none; let bound := s.team.ctx.isSome; let cregs (n : Nat) : List Nat := (List.range n).map fun i => x.c.toNat + i;
      let agree : Prop := ∀ l, l < s.grp.lanes → s.cur.mask.getLsbD l = true → (s.vreg l x.d.toNat).val = F; let n := x.b.toNat / 64 % 4 + 1;
      let me := x.b.toNat / 16 % 4; let tag := x.b.toNat % 16; ∃ j, ((s.team.mjoins.find? fun k => k.tag = tag) = some j) ∧
      MatrixReady s x (s.stepRegs x) [x.d.toNat] (cregs 8) ∧ let last : Prop := j.n = n ∧ (∀ q ∈ j.parts, q.p ≠ me) ∧ j.parts.length + 1 = n;
      let same : Prop := ∀ q ∈ j.parts, q.fmt = F ∧ q.desc = words 8;
      let checked : Prop := agree ∧ stepChecks .mloop x.amode F.toNat (words 8) bound s.team.tiles = none;
      let placed : Prop := ∀ e, IsEntry s x .mloop x.amode F (words 8) e → e.operandCheck env = none;
      let shape : Prop := x.amode < 2 ∨ (mShape (mfFusion F.toNat)).1 = 16 * n; last ∧ same ∧ checked ∧ placed ∧ shape) ∧
    (∃ x : Args, ∃ s : State, ∃ F : Word, let words (n : Nat) : List Word := (List.range n).map fun i => (s.sreg (x.c.toNat + i)).val;
      let bound := s.team.ctx.isSome; let cregs (n : Nat) : List Nat := (List.range n).map fun i => x.c.toNat + i;
      let agree : Prop := ∀ l, l < s.grp.lanes → s.cur.mask.getLsbD l = true → (s.vreg l x.d.toNat).val = F; let n := x.b.toNat / 64 % 4 + 1;
      let me := x.b.toNat / 16 % 4; let tag := x.b.toNat % 16; ∃ j, ((s.team.mjoins.find? fun k => k.tag = tag) = some j) ∧
      MatrixReady s x (s.stepRegs x) [x.d.toNat] (cregs 8) ∧ let last : Prop := j.n = n ∧ (∀ q ∈ j.parts, q.p ≠ me) ∧ j.parts.length + 1 = n;
      let same : Prop := ∀ q ∈ j.parts, q.fmt = F ∧ q.desc = words 8;
      let checked : Prop := agree ∧ stepChecks .mloop x.amode F.toNat (words 8) bound s.team.tiles = none;
      let shape : Prop := x.amode < 2 ∨ (mShape (mfFusion F.toNat)).1 = 16 * n; last ∧ same ∧ checked ∧ ¬ shape) ∧
    (∃ x : Args, ∃ s : State, ∃ F : Word, let words (n : Nat) : List Word := (List.range n).map fun i => (s.sreg (x.c.toNat + i)).val;
      let bound := s.team.ctx.isSome; let cregs (n : Nat) : List Nat := (List.range n).map fun i => x.c.toNat + i;
      let agree : Prop := ∀ l, l < s.grp.lanes → s.cur.mask.getLsbD l = true → (s.vreg l x.d.toNat).val = F; let n := x.b.toNat / 64 % 4 + 1;
      let tag := x.b.toNat % 16; ∃ j, ((s.team.mjoins.find? fun k => k.tag = tag) = some j) ∧ MatrixReady s x (s.stepRegs x) [x.d.toNat] (cregs 8) ∧
      let checked : Prop := agree ∧ stepChecks .mloop x.amode F.toNat (words 8) bound s.team.tiles = none; checked ∧ j.n ≠ n) ∧
    (∃ x : Args, ∃ s : State, ∃ F : Word, let words (n : Nat) : List Word := (List.range n).map fun i => (s.sreg (x.c.toNat + i)).val;
      let bound := s.team.ctx.isSome; let cregs (n : Nat) : List Nat := (List.range n).map fun i => x.c.toNat + i;
      let agree : Prop := ∀ l, l < s.grp.lanes → s.cur.mask.getLsbD l = true → (s.vreg l x.d.toNat).val = F; let n := x.b.toNat / 64 % 4 + 1;
      let me := x.b.toNat / 16 % 4; let tag := x.b.toNat % 16; ∃ j, ((s.team.mjoins.find? fun k => k.tag = tag) = some j) ∧
      MatrixReady s x (s.stepRegs x) [x.d.toNat] (cregs 8) ∧
      let checked : Prop := agree ∧ stepChecks .mloop x.amode F.toNat (words 8) bound s.team.tiles = none; checked ∧ j.n = n ∧ (∃ q ∈ j.parts, q.p = me)) ∧
    (∃ x : Args, ∃ s : State, ∃ F : Word, let cregs (n : Nat) : List Nat := (List.range n).map fun i => x.c.toNat + i;
      MatrixReady s x (s.stepRegs x) [x.d.toNat] (cregs 8) ∧ (∃ l m, l < s.grp.lanes ∧ m < s.grp.lanes ∧ s.cur.mask.getLsbD l = true ∧
      s.cur.mask.getLsbD m = true ∧ (s.vreg l x.d.toNat).val ≠ (s.vreg m x.d.toNat).val) ∧ s.waitsRelease = true) ∧
    (∃ x : Args, ∃ s : State, ∃ F : Word, let cregs (n : Nat) : List Nat := (List.range n).map fun i => x.c.toNat + i; let tag := x.b.toNat % 16;
      MatrixReady s x (s.stepRegs x) [x.d.toNat] (cregs 8) ∧ (∃ l m, l < s.grp.lanes ∧ m < s.grp.lanes ∧ s.cur.mask.getLsbD l = true ∧
      s.cur.mask.getLsbD m = true ∧ (s.vreg l x.d.toNat).val ≠ (s.vreg m x.d.toNat).val) ∧ s.waitsRelease = false ∧ ∃ pc,
      s.runEnd s.cur.pc.toNat s.cur.run.left = .ok pc ∧ ((s.team.mjoins.find? fun k => k.tag = tag) = none)) :=
  ⟨⟨args0, st 0 0 3, 0, by decide +kernel⟩,
   ⟨args0, st 0 0 3, 0, ((.mloop args0, .mloop) : Instr × MKind), by decide +kernel,
      mready_of (by decide +kernel) (by decide +kernel) (by decide +kernel) (by decide +kernel) (by decide +kernel) (by decide +kernel), by decide +kernel,
      by decide +kernel, checked_of (by decide +kernel)⟩,
   ⟨args0, st 0 0 3, 0, ((.mzero args0, .mzero, 1) : Instr × MKind × Nat), by decide +kernel,
      mready_of (by decide +kernel) (by decide +kernel) (by decide +kernel) (by decide +kernel) (by decide +kernel) (by decide +kernel), by decide +kernel,
      checked_of (by decide +kernel)⟩,
   ⟨args0, st 0 0 3, 0,
      mready_of (by decide +kernel) (by decide +kernel) (by decide +kernel) (by decide +kernel) (by decide +kernel) (by decide +kernel), by decide +kernel,
      by decide +kernel, checked_of (by decide +kernel), by decide +kernel, by decide +kernel, by decide +kernel⟩,
   ⟨args6, st 0 0 3, 0,
      mready_of (by decide +kernel) (by decide +kernel) (by decide +kernel) (by decide +kernel) (by decide +kernel) (by decide +kernel), by decide +kernel,
      by decide +kernel, checked_of (by decide +kernel), by decide +kernel, by decide +kernel⟩,
   ⟨args6, state7, 0, j5_0, by decide +kernel,
      mready_of (by decide +kernel) (by decide +kernel) (by decide +kernel) (by decide +kernel) (by decide +kernel) (by decide +kernel), by decide +kernel,
      by decide +kernel, by decide +kernel, by decide +kernel, 12, by decide +kernel⟩,
   ⟨args6, state5, 0, j6_1, by decide +kernel,
      mready_of (by decide +kernel) (by decide +kernel) (by decide +kernel) (by decide +kernel) (by decide +kernel) (by decide +kernel), by decide +kernel,
      by decide +kernel, by decide +kernel, checked_of (by decide +kernel), by decide +kernel⟩,
   ⟨args7, state5, 0, j7_2, by decide +kernel,
      mready_of (by decide +kernel) (by decide +kernel) (by decide +kernel) (by decide +kernel) (by decide +kernel) (by decide +kernel), by decide +kernel,
      by decide +kernel, by decide +kernel, by decide +kernel⟩,
   ⟨args5, state5, 0, j8_3, by decide +kernel,
      mready_of (by decide +kernel) (by decide +kernel) (by decide +kernel) (by decide +kernel) (by decide +kernel) (by decide +kernel), by decide +kernel,
      by decide +kernel⟩,
   ⟨args6, state11, 0, j9_4, by decide +kernel,
      mready_of (by decide +kernel) (by decide +kernel) (by decide +kernel) (by decide +kernel) (by decide +kernel) (by decide +kernel), by decide +kernel,
      by decide +kernel, by decide +kernel⟩,
   ⟨args0, state13, 0, mready_of (by decide +kernel) (by decide +kernel) (by decide +kernel) (by decide +kernel) (by decide +kernel) (by decide +kernel),
      differ_of (l := 0) (m := 1) (by decide +kernel), by decide +kernel⟩,
   ⟨args0, st 0 1 3, 0,
      mready_of (by decide +kernel) (by decide +kernel) (by decide +kernel) (by decide +kernel) (by decide +kernel) (by decide +kernel),
      differ_of (l := 0) (m := 1) (by decide +kernel), by decide +kernel, 12, by decide +kernel, by decide +kernel⟩⟩
theorem wit_MatrixIssue_2 :
    (∃ x : Args, ∃ s : State, ∃ F : Word, let cregs (n : Nat) : List Nat := (List.range n).map fun i => x.c.toNat + i; let n := x.b.toNat / 64 % 4 + 1;
      let me := x.b.toNat / 16 % 4; let tag := x.b.toNat % 16; MatrixReady s x (s.stepRegs x) [x.d.toNat] (cregs 8) ∧ (∃ l m, l < s.grp.lanes ∧
      m < s.grp.lanes ∧ s.cur.mask.getLsbD l = true ∧ s.cur.mask.getLsbD m = true ∧ (s.vreg l x.d.toNat).val ≠ (s.vreg m x.d.toNat).val) ∧
      s.waitsRelease = false ∧ ∃ pc, s.runEnd s.cur.pc.toNat s.cur.run.left = .ok pc ∧ ∃ j, ((s.team.mjoins.find? fun k => k.tag = tag) = some j) ∧
      j.n = n ∧ (∀ q ∈ j.parts, q.p ≠ me)) ∧
    (∃ u : UnitRef, ∃ s : State, ∃ t : State, ∃ p : Parked, ∃ e : MEntry, WaitsOn s u .matrixPlace t p ∧ p.entry = some e ∧
      t.placeOpen t.grp.core (t.team.ctx.getD 0) e.id = true) :=
  ⟨⟨args6, state8, 0, mready_of (by decide +kernel) (by decide +kernel) (by decide +kernel) (by decide +kernel) (by decide +kernel) (by decide +kernel),
      differ_of (l := 0) (m := 1) (by decide +kernel), by decide +kernel, 12, by decide +kernel, j12_5, by decide +kernel, by decide +kernel,
      by decide +kernel⟩,
   ⟨u0, state4, (selOf state4 u0), (parkOf (selOf state4 u0)), e13_6, ⟨by decide +kernel, by decide +kernel, by decide +kernel, by decide +kernel⟩,
      by decide +kernel, by decide +kernel⟩⟩
end WMatrixIssue

namespace WMatrixWaits
def ly2 (es base s0 s1 oob : Nat) : BitVec 512 := BitVec.ofNat 512 (base + 2 * 2 ^ 64 + es * 2 ^ 70 + oob * 2^73 + 64 * 2 ^ 128 + 64 * 2^160 + s0 * 2 ^ 288 + s1 * 2^328)
def tm : Team := { teamA with slots := [(0, ly2 0 0x100 1 16 0), (1, ly2 0 0x200 1 16 0), (2, ly2 2 0x400 1 32 0)], ctx := some 0, tiles := 6, tile0 := 1 }
def wds : List (Nat × Word) := [(8, 0), (9, 0x100), (10,0),(11,0),(12,0),(13,0), (16, 0), (17, 2), (18,0),(19,0), (24, 63), (25, 0x100)]
def dum : MEntry := { kind := .mzero, id := 77 }
def st (F G : Word) (n : Nat) : State := { (withS stateA wds) with team := tm, cur := { unitA with mask := 3 }, grp := { groupA with r := { (withS stateA wds).grp.r with v := [(5, ⟨F,false⟩), (256+5,⟨G,false⟩)] } }, cores := [(0, {pilot := true, mctx := [(0, {queue := (List.range n).map fun i => {dum with id := 100+i}})]})], mem := stateA.mem.writeDram 0 16 0x0F0000000F0000000F0000000F false }
def pm : Parked := { why := .mopf, instr := .mopf {}, serial := 40 }
def pw : Parked := { why := .mwait, instr := .mwait {}, serial := 40 }
def qs (n : Nat) (ser : Nat) (s : State) : State := { s with cores := [(0, {pilot := true, mctx := [(0, {queue := (List.range n).map fun i => {dum with id := 100+i, parts := [{who := u0, serial := ser}]}, latch := some (⟨5,0⟩,0,1,1)})]})] }
def lf (s : State) : State := { s with serial := 30, flights := [{ fl 0 5 with place := .spad 0 64, chan := none, key := none }] }
def args0 : Args := {d := 3, a := 0}
def state1 : State := qs 2 0 (st 0 0 0)
def state5 : State := parkedA (st 0 0 15) pm
def state6 : State := parkedA (st 0 0 15) pw

theorem wit_MatrixWaits :
    (∃ x : Args, ∃ s : State, s.guardU x.gp x.gn = true ∧ s.inGate = false ∧ s.localDone s.unitRef (s.serial + 1) = true) ∧
    (∃ x : Args, ∃ s : State, s.guardU x.gp x.gn = true ∧ s.inGate = false ∧ s.localDone s.unitRef (s.serial + 1) = false) ∧
    (∃ x : Args, ∃ s : State, s.guardU x.gp x.gn = true ∧ s.matrixBusy s.grp.key (s.serial + 1) = false) ∧
    (∃ x : Args, ∃ s : State, s.guardU x.gp x.gn = true ∧ s.matrixBusy s.grp.key (s.serial + 1) = true) ∧
    (∃ u : UnitRef, ∃ s : State, ∃ t : State, ∃ p : Parked, WaitsOn s u .mopf t p ∧ t.localDone u p.serial = true) ∧
    (∃ u : UnitRef, ∃ s : State, ∃ t : State, ∃ p : Parked, WaitsOn s u .mwait t p ∧ t.matrixBusy t.grp.key p.serial = false) :=
  ⟨⟨args0, st 0 0 3, by decide +kernel, by decide +kernel, by decide +kernel⟩,
   ⟨args0, lf (st 0 0 0), by decide +kernel, by decide +kernel, by decide +kernel⟩,
   ⟨args0, st 0 0 3, by decide +kernel, by decide +kernel⟩,
   ⟨args0, state1, by decide +kernel, by decide +kernel⟩,
   ⟨u0, state5, (selOf state5 u0), (parkOf (selOf state5 u0)), ⟨by decide +kernel, by decide +kernel, by decide +kernel, by decide +kernel⟩,
      by decide +kernel⟩,
   ⟨u0, state6, (selOf state6 u0), (parkOf (selOf state6 u0)), ⟨by decide +kernel, by decide +kernel, by decide +kernel, by decide +kernel⟩,
      by decide +kernel⟩⟩
end WMatrixWaits

namespace WMatrixEngine
def ly2 (es base s0 s1 oob : Nat) : BitVec 512 := BitVec.ofNat 512 (base + 2 * 2 ^ 64 + es * 2 ^ 70 + oob * 2^73 + 64 * 2 ^ 128 + 64 * 2^160 + s0 * 2 ^ 288 + s1 * 2^328)
def tm : Team := { teamA with slots := [(0, ly2 0 0x100 1 16 0), (1, ly2 0 0x200 1 16 0), (2, ly2 2 0x400 1 32 0)], ctx := some 0, tiles := 6, tile0 := 1 }
def ly3 : BitVec 512 := BitVec.ofNat 512 (0x400 + 2 * 2 ^ 64 + 2 * 2 ^ 70 + 2 ^ 73 + 2 * 2 ^ 128 + 2 * 2 ^ 160 + 2 ^ 288 + 32 * 2 ^ 328)
def me (k : MKind) (d : List Word) (id : Nat) : MEntry := { id := id, kind := k, stream := 5, fmt := 0, desc := d, amode := 1, aslot := if k.steps then sget 0 tm.slots 0 else ly3, bslot := sget 0 tm.slots 1, tile0 := 1, tiles := 6, parts := [{who := u0, serial := 3}] }
def ds : List Word := [0x20001, 0x100, 0, 0, 0, 0, 0, 0]
def dt : List Word := [1, 2, 0, 0]
def sp : Memory := { stateA.mem with full := (List.range 32).map fun i => (16 + i, true) }
def ms : Memory := { sp with dram := (((stateA.mem.writeDram 0x7000 64 (2 + 0 * 2^64 + 1 * 2^80) false).writeDram 0x7040 64 6 false).writeDram 0x7080 64 (8 + 0 * 2^32 + 1*2^37 + 2*2^42) false).dram }
def ste (q : List MEntry) : State := { stateA with team := tm, mem := sp, cores := [(0, {pilot := true, mctx := [(0, {queue := q, tiles := (List.range 30).map fun i => (256*3+i, ⟨BitVec.ofNat 32 (7^i), false⟩)})]})] }
def run1 (e : MEntry) : MEntry := { e with started := true }
def mdesc : BitVec 512 := BitVec.ofNat 512 (0x7000 + 3 * 2^64 + 1*2^96 + 2*2^112 + 0x4000 * 2^128)
def stm (nx : Nat) (pl : Bool) : MStream := { sub := 2, desc := mdesc, slots := tm.slots, size := 16384, tiles := 2, next := nx, placed := pl }
def bun (nx : Nat) (pl : Bool) : State := { stateA with mem := ms, parts := [(0, { partA with bundles := [{ id := 9, streams := [stm nx pl] }] })], team := {teamA with size := 16384} }
def ste2 (q : List MEntry) : State := ste q
def dq (m z : Nat) : List Word := [1, BitVec.ofNat 32 (2 + m * 256 + z * 2 ^ 23), 0, 0, 0, 0, 0, 0]
def mq (d : List Word) (ext : Nat) : MEntry := { me .mdrn d 4 with aslot := BitVec.ofNat 512 (0x1000 + 2 * 2 ^ 64 + 2^73 + ext * 2 ^ 128 + ext * 2^160 + 1 * 2 ^ 288 + 64 * 2^328), bslot := ly2 3 0x3000 1 0 0 }
def state0 : State := ste [me .mloop ds 4]
def state1 : State := ste [run1 (me .mloop ds 4)]
def mEntry1 : MEntry := run1 (me .mloop ds 4)
def b1_0 := (match state1.stepBlocks mEntry1 with | .ok b => b | _ => default)
def state2 : State := ste [{ run1 (me .mloop ds 4) with step := 2 }]
def state3 : State := ste [run1 (me .mzero dt 4)]
def state4 : State := ste [run1 (me .mlda dt 4)]
def cells4_1 := (match transferCells (state4.entryEnv ((state4.mentry? 0 0 4).getD default)) ((state4.mentry? 0 0 4).getD default).aslot ((state4.mentry? 0 0 4).getD default).desc with | .ok cells => cells | _ => default)
def state5 : State := ste [run1 (me .mdrn dt 4)]
def cells5_2 := (match transferCells (state5.entryEnv ((state5.mentry? 0 0 4).getD default)) ((state5.mentry? 0 0 4).getD default).aslot ((state5.mentry? 0 0 4).getD default).desc with | .ok cells => cells | _ => default)
def state6 : State := ste2 [run1 (mq (dq 1 5) 3)]
def cells6_3 := (match transferCells (state6.entryEnv ((state6.mentry? 0 0 4).getD default)) ((state6.mentry? 0 0 4).getD default).aslot ((state6.mentry? 0 0 4).getD default).desc with | .ok cells => cells | _ => default)
def ps6_4 := (match paramCells (state6.entryEnv ((state6.mentry? 0 0 4).getD default)) ((state6.mentry? 0 0 4).getD default).bslot ((state6.mentry? 0 0 4).getD default).desc with | .ok ps => ps | _ => default)
def bundle0 : Bundle := { id := 9, streams := [stm 0 false] }
def r7_5 := (((bun 0 false : State).roomFor 0 (stm 0 false : MStream).core 0 (streamNeed (stm 0 false : MStream).desc.toNat) [] []).getD default)
def bundle1 : Bundle := { id := 9, streams := [stm 0 true] }
def n8_6 := (match (bun 0 true : State).readVirt 0 bundle1.domain (msBase (stm 0 true : MStream).desc.toNat + 64 * (stm 0 true : MStream).next) 64 with | .ok (n, false) => n | _ => default)
def e8_7 := ((bun 0 true : State).streamEntry 0 bundle1 (stm 0 true : MStream) ((mcMatrix (mcKind n8_6)).getD default) n8_6)
def bundle2 : Bundle := { id := 9, streams := [stm 1 true] }
def n9_8 := (match (bun 1 true : State).readVirt 0 bundle2.domain (msBase (stm 1 true : MStream).desc.toNat + 64 * (stm 1 true : MStream).next) 64 with | .ok (n, false) => n | _ => default)
def q9_9 := (match (bun 1 true : State).readVirt 0 bundle2.domain ((msBase (stm 1 true : MStream).desc.toNat + 64 * (stm 1 true : MStream).next) + 64) 64 with | .ok (q, false) => q | _ => default)

theorem wit_MatrixEngine_1 :
    (∃ core : Nat, ∃ ctx : Nat, ∃ id : Nat, ∃ s : State, ∃ e : MEntry, s.mentry? core ctx id = some e ∧ s.engineRuns e.part = true ∧
      let q := s.ctxQueue core ctx; let before := earlier q id; e.started = false ∧ (∀ f ∈ before, f.started = true) ∧ (e.kind.steps = true → (∀ f ∈ before,
      f.overlaps e = false) ∧ (e.fmt.extractLsb' 12 2 ≠ 0 → ∀ f ∈ q, f.running = false) ∧ (e.fmt.extractLsb' 12 2 = 0 → (∀ f ∈ q,
      f.running = true → f.fmt.extractLsb' 12 2 = 0) ∧ (q.filter fun f => f.running).length < 4)) ∧ (e.kind.steps = false → ∀ f ∈ before,
      f.kind.steps = true)) ∧
    (∃ core : Nat, ∃ ctx : Nat, ∃ s : State, ∃ e : MEntry, ∃ b : Blocks, s.mentry? core ctx e.id = some e ∧
      (((s.ctxQueue core ctx).filter fun f => s.stepReady f) = [e]) ∧ (∀ f ∈ s.ctxQueue core (1 - ctx), s.stepReady f = false) ∧ e.kind.steps = true ∧
      e.core = core ∧ s.stepBlocks e = .ok b ∧ let af := (e.fmt.extractLsb' 0 4).toNat; ∃ F ∈ [(0, 16, 16), (1, 16, 64), (2, 32, 32), (3, 64, 16)],
      (e.fmt.extractLsb' 12 2).toNat = F.1 ∧ ∃ K ∈ [(0, 16), (1, 32), (2, 16), (3, 16), (4, 8), (5, 8)], af = K.1 ∧ let M := F.2.1;
      let t0 := e.tile0 + ((e.desc.getD 0 0).extractLsb' 16 9).toNat; let tiles := if F.1 = 0 then 1 else 4;
      let old (k : Nat) : PWord := sget {} ((s.core core).ctx ctx).tiles k; let takesA := decide (e.amode = 1); (∀ o ∈ (b.a.getD []).flatten,
      s.mem.spadBad core o 1 = false ∧ s.Current e takesA (spadKey core o)) ∧ (∀ o ∈ (b.b.getD []).flatten, s.mem.spadBad core o 1 = false ∧
      s.Current e true (spadKey core o)) ∧ (2 ≤ e.amode → ∀ i, i < M → (e.adata.getD (e.step * M + i) {}).poison = none ∧ (e.hit = true ∨ ∀ n,
      n < K.2 → s.rowWritten e e.step i (fun p => p.vat) n = false)) ∧ (∀ k, t0 * 256 ≤ k → k < (t0 + tiles) * 256 → (old k).poison = false)) ∧
    (∃ core : Nat, ∃ ctx : Nat, ∃ id : Nat, ∃ s : State, ∃ e : MEntry, s.mentry? core ctx id = some e ∧ e.core = core ∧ e.id = id ∧
      s.ctxFinishes core ctx e.part = true ∧ e.started = true ∧ (∀ p ∈ e.parts, p.flag = none) ∧ e.kind.steps = true ∧ e.steps ≤ e.step) ∧
    (∃ core : Nat, ∃ ctx : Nat, ∃ id : Nat, ∃ s : State, ∃ e : MEntry, s.mentry? core ctx id = some e ∧ e.core = core ∧ e.id = id ∧
      s.ctxFinishes core ctx e.part = true ∧ e.started = true ∧ (∀ p ∈ e.parts, p.flag = none) ∧ e.kind = .mzero ∧ e.disturbed = []) ∧
    (∃ core : Nat, ∃ ctx : Nat, ∃ id : Nat, ∃ s : State, ∃ e : MEntry, s.mentry? core ctx id = some e ∧ e.core = core ∧ e.id = id ∧
      s.ctxFinishes core ctx e.part = true ∧ e.started = true ∧ (∀ p ∈ e.parts, p.flag = none) ∧ ∃ cells,
      transferCells (s.entryEnv e) e.aslot e.desc = .ok cells ∧ e.disturbed = [] ∧ e.kind = .mlda ∧ mtMode e.desc = 0 ∧ (∀ c ∈ cells, ∀ o,
      c.off = some o → s.mem.spadBad core o 4 = false ∧ ∀ k, k < 4 → s.Current e false (spadKey core (o + k)))) ∧
    (∃ core : Nat, ∃ ctx : Nat, ∃ id : Nat, ∃ s : State, ∃ e : MEntry, s.mentry? core ctx id = some e ∧ e.core = core ∧ e.id = id ∧
      s.ctxFinishes core ctx e.part = true ∧ e.started = true ∧ (∀ p ∈ e.parts, p.flag = none) ∧ ∃ cells,
      transferCells (s.entryEnv e) e.aslot e.desc = .ok cells ∧ e.disturbed = [] ∧ e.kind = .mdrn ∧ mtMode e.desc = 0 ∧ (∀ c ∈ cells, ∀ d ∈ cells, ∀ o p,
      c.off = some o → d.off = some p → c = d ∨ o + 4 ≤ p ∨ p + 4 ≤ o)) :=
  ⟨⟨0, 0, 4, state0, ((state0.mentry? 0 0 4).getD default), by decide +kernel, by decide +kernel, by decide +kernel, by decide +kernel,
      by decide +kernel, by decide +kernel⟩,
   ⟨0, 0, state1, mEntry1, b1_0, by decide +kernel, by decide +kernel, by decide +kernel, by decide +kernel, by decide +kernel, by decide +kernel, (0,
      16, 16), by decide +kernel, by decide +kernel, (0, 16), by decide +kernel, by decide +kernel, current_of (by decide +kernel),
      current_of (by decide +kernel), by decide +kernel, between_of (by decide +kernel)⟩,
   ⟨0, 0, 4, state2, ((state2.mentry? 0 0 4).getD default), by decide +kernel, by decide +kernel, by decide +kernel, by decide +kernel,
      by decide +kernel, by decide +kernel, by decide +kernel, by decide +kernel⟩,
   ⟨0, 0, 4, state3, ((state3.mentry? 0 0 4).getD default), by decide +kernel, by decide +kernel, by decide +kernel, by decide +kernel,
      by decide +kernel, by decide +kernel, by decide +kernel, by decide +kernel⟩,
   ⟨0, 0, 4, state4, ((state4.mentry? 0 0 4).getD default), by decide +kernel, by decide +kernel, by decide +kernel, by decide +kernel,
      by decide +kernel, by decide +kernel, cells4_1, by decide +kernel, by decide +kernel, by decide +kernel, by decide +kernel,
      (by unfold State.Current <;> exact cells_of (by decide +kernel))⟩,
   ⟨0, 0, 4, state5, ((state5.mentry? 0 0 4).getD default), by decide +kernel, by decide +kernel, by decide +kernel, by decide +kernel,
      by decide +kernel, by decide +kernel, cells5_2, by decide +kernel, by decide +kernel, by decide +kernel, by decide +kernel,
      cells2_of (by decide +kernel)⟩⟩
theorem wit_MatrixEngine_2 :
    (∃ core : Nat, ∃ ctx : Nat, ∃ id : Nat, ∃ s : State, ∃ e : MEntry, s.mentry? core ctx id = some e ∧ e.core = core ∧ e.id = id ∧
      s.ctxFinishes core ctx e.part = true ∧ e.started = true ∧ (∀ p ∈ e.parts, p.flag = none) ∧ ∃ cells,
      transferCells (s.entryEnv e) e.aslot e.desc = .ok cells ∧ e.disturbed = [] ∧
      let key (c : MCell) : Nat := (e.tileRange.1 + c.tile) * 256 + 16 * c.r + c.j; e.kind = .mdrn ∧ ∃ mode ∈ ([(1, -128, 127), (2, 0,
      255)] : List (Nat × Int × Int)), ((e.desc.getD 1 0).extractLsb' 8 3).toNat = mode.1 ∧ ∃ ps, paramCells (s.entryEnv e) e.bslot e.desc = .ok ps ∧
      (∀ c ∈ cells, ∀ d ∈ cells, ∀ o, c.off = some o → d.off = some o → c = d) ∧ (∀ c ∈ cells,
      (sget ({} : PWord) ((s.core core).ctx ctx).tiles (key c)).poison = false) ∧ (∀ o, some o ∈ ps → s.mem.spadBad core o 8 = false ∧ ∀ k,
      k < 8 → s.Current e false (spadKey core (o + k)))) ∧
    (∃ part : Nat, ∃ bundle : Nat, ∃ sub : Nat, ∃ s : State, ∃ b : Bundle, ∃ m : MStream, ((s.part part).bundles.find? (fun b => b.id = bundle) = some b) ∧
      (b.streams.find? (fun m => m.sub = sub) = some m) ∧ s.engineRuns part = true ∧ m.placed = false ∧ ∃ r, ∃ ctx,
      s.roomFor part m.core 0 (streamNeed m.desc.toNat) [] [] = some r ∧ r.ctx = some ctx) ∧
    (∃ part : Nat, ∃ bundle : Nat, ∃ sub : Nat, ∃ s : State, ∃ b : Bundle, ∃ m : MStream, ((s.part part).bundles.find? (fun b => b.id = bundle) = some b) ∧
      (b.streams.find? (fun m => m.sub = sub) = some m) ∧ s.engineRuns part = true ∧ let va := msBase m.desc.toNat + 64 * m.next; ∃ n, m.placed = true ∧
      m.next < msSlots m.desc.toNat ∧ s.readVirt part b.domain va 64 = .ok (n, false) ∧ mcBad n = false ∧
      (mcAfter n = true → s.streamBusy m bundle = false) ∧ ∃ k, mcMatrix (mcKind n) = some k ∧ ∃ e, e = s.streamEntry part b m k n ∧
      e.commandCheck (s.streamEnv part b.domain m) = none ∧ s.placeOpen m.core m.ctx (s.serial + 1) = true) ∧
    (∃ part : Nat, ∃ bundle : Nat, ∃ sub : Nat, ∃ s : State, ∃ b : Bundle, ∃ m : MStream, ((s.part part).bundles.find? (fun b => b.id = bundle) = some b) ∧
      (b.streams.find? (fun m => m.sub = sub) = some m) ∧ s.engineRuns part = true ∧ let va := msBase m.desc.toNat + 64 * m.next; ∃ n, m.placed = true ∧
      m.next < msSlots m.desc.toNat ∧ s.readVirt part b.domain va 64 = .ok (n, false) ∧ mcBad n = false ∧
      (mcAfter n = true → s.streamBusy m bundle = false) ∧ mcMatrix (mcKind n) = none ∧ m.next + 1 < msSlots m.desc.toNat ∧ ∃ q,
      s.readVirt part b.domain (va + 64) 64 = .ok (q, false) ∧ s.streamKickCheck part b m q = none ∧ s.copyQueueFull m.core = false) :=
  ⟨⟨0, 0, 4, state6, ((state6.mentry? 0 0 4).getD default), by decide +kernel, by decide +kernel, by decide +kernel, by decide +kernel,
      by decide +kernel, by decide +kernel, cells6_3, by decide +kernel, by decide +kernel, by decide +kernel, ((1, -128, 127) : Nat × Int × Int),
      by decide +kernel, by decide +kernel, ps6_4, by decide +kernel, cells3_of (by decide +kernel), by decide +kernel,
      somes_of (by unfold State.Current <;> decide +kernel)⟩,
   ⟨0, 9, 2, bun 0 false, bundle0, stm 0 false, by decide +kernel, by decide +kernel, by decide +kernel, by decide +kernel, r7_5, 0, by decide +kernel,
      by decide +kernel⟩,
   ⟨0, 9, 2, bun 0 true, bundle1, stm 0 true, by decide +kernel, by decide +kernel, by decide +kernel, n8_6, by decide +kernel, by decide +kernel,
      by decide +kernel, by decide +kernel, by decide +kernel, ((mcMatrix (mcKind n8_6)).getD default), by decide +kernel, e8_7, by decide +kernel,
      by decide +kernel, by decide +kernel⟩,
   ⟨0, 9, 2, bun 1 true, bundle2, stm 1 true, by decide +kernel, by decide +kernel, by decide +kernel, n9_8, by decide +kernel, by decide +kernel,
      by decide +kernel, by decide +kernel, by decide +kernel, by decide +kernel, by decide +kernel, q9_9, by decide +kernel, by decide +kernel,
      by decide +kernel⟩⟩
end WMatrixEngine

namespace WHaltsAndTimeouts
def ly2 (es base s0 s1 oob : Nat) : BitVec 512 := BitVec.ofNat 512 (base + 2 * 2 ^ 64 + es * 2 ^ 70 + oob * 2^73 + 64 * 2 ^ 128 + 64 * 2^160 + s0 * 2 ^ 288 + s1 * 2^328)
def tm : Team := { teamA with slots := [(0, ly2 0 0x100 1 16 0), (1, ly2 0 0x200 1 16 0), (2, ly2 2 0x400 1 32 0)], ctx := some 0, tiles := 6, tile0 := 1 }
def wds : List (Nat × Word) := [(8, 0), (9, 0x100), (10,0),(11,0),(12,0),(13,0), (16, 0), (17, 2), (18,0),(19,0), (24, 63), (25, 0x100)]
def dum : MEntry := { kind := .mzero, id := 77 }
def st (F G : Word) (n : Nat) : State := { (withS stateA wds) with team := tm, cur := { unitA with mask := 3 }, grp := { groupA with r := { (withS stateA wds).grp.r with v := [(5, ⟨F,false⟩), (256+5,⟨G,false⟩)] } }, cores := [(0, {pilot := true, mctx := [(0, {queue := (List.range n).map fun i => {dum with id := 100+i}})]})], mem := stateA.mem.writeDram 0 16 0x0F0000000F0000000F0000000F false }
def pq : Parked := { why := .popq, instr := .popq {b := 3}, serial := 40, lanes := 7, aux := 3, waited := 2^36 - 5 }
def pu : Parked := { why := .pushq, instr := .pushq {b := 3}, serial := 40, lanes := 7, aux := 3, waited := 2^36 - 5 }
def pl : Parked := { why := .ldfe, instr := .ldfe {d := 6, a := 0, q := 0x40, b := 0x40, c := 0xF2}, serial := 40, aux := 16, lanes := 1, rec_ := lyv 0 0x100 0, src := [(0, ⟨0,false⟩)], arrived := 41, waited := 2^36 - 5 }
def pb2 : Parked := { why := .barw, instr := .barw {a := 2}, serial := 40, lanes := 0, aux := 3, waited := 2^36 - 5, rec_ := 0x12345678 }
def cyc (s : State) : State := { s with cycle := 5 }
def fullq (s : State) : State := { s with cores := [(0,{pilot := true, hqs := [(3,{items := List.replicate 1023 {}})]})]}
def hal (st : List Nat) : State := { stateA with cores := [(0,{pilot := true, stopped := st})], parts := [(0, {partA with halt := {state := 1, seq := 3}})], port := { stateA.port with up := true} }
def me : MEntry := { id := 4, kind := .mloop, stream := 5, fmt := 0, desc := [1,0x100,0,0,0,0,0,0], amode := 1, aslot := sget 0 tm.slots 0, bslot := sget 0 tm.slots 1, tile0 := 1, tiles := 6, started := true, bundle := some (9,2), waited := 2^36 }
def mst : State := { stateA with cores := [(0, {pilot := true, mctx := [(0, {queue := [me]})]})], parts := [(0, { partA with bundles := [{ id := 9, streams := [{sub := 2, size := 65536}] }] })]}
def state5 : State := {stateA with cur := {unitA with entered := true, st := .issuing, run := { left := 3 }}}
def state6 : State := {stateA with teams := [{ teamA with stream := 6, st := .saving, image := some {} }]}
def p3_0 := (((hal [] : State).partOf 0).getD default)
def state9 : State := cyc (parkedA stateA pq)
def p4_1 := (parkOf ((state9.select u0).getD default))
def x4_2 := (match p4_1.instr with | .popq x => x | _ => default)
def state10 : State := cyc (parkedA (fullq stateA) pu)
def p5_3 := (parkOf ((state10.select u0).getD default))
def x5_4 := (match p5_3.instr with | .pushq x => x | _ => default)
def state4 : State := cyc (parkedA stateA pb2)
def p6_5 := (parkOf ((state4.select u0).getD default))
def x6_6 := (match p6_5.instr with | .barw x => x | _ => default)
def state3 : State := cyc (parkedA stateA pl)
def p7_7 := (parkOf ((state3.select u0).getD default))
def o7_8 := (match memOp p7_7.instr with | some (o, _) => o | _ => default)
def x7_9 := (match memOp p7_7.instr with | some (_, x) => x | _ => default)
def l7_10 := (((lanesOf p7_7.lanes).head?).getD default)
def b8_11 := (match mst.stepBlocks ((mst.mentry? 0 0 4).getD default) with | .ok b => b | _ => default)
def g8_12 := (((b8_11.takes.find? fun k => !mst.mem.isFull ((mst.mentry? 0 0 4).getD default).core k)).getD default)

theorem wit_HaltsAndTimeouts :
    (∃ s : State, ∃ c : Code, s.grp.slot ≠ 16 ∧ innerGate s.grp.stack 16 s.cur.top = none ∧ c.code ≠ 0x0070 ∧ s.myPart.halt.state = 0 ∧
      (((s.core s.grp.core).origin.any fun o => o.1 = s.grp.pipe) = false) ∧ s.cur.entered = false) ∧
    (∃ s : State, ∃ c : Code, s.grp.slot ≠ 16 ∧ innerGate s.grp.stack 16 s.cur.top = none ∧ c.code ≠ 0x0070 ∧ s.myPart.halt.state = 0 ∧
      (((s.core s.grp.core).origin.any fun o => o.1 = s.grp.pipe) = false) ∧ s.cur.entered = true ∧ s.cur.st = .issuing ∧
      s.streamIn s.grp.key.stream s.team.part = true) ∧
    (∃ s : State, ∃ c : Code, s.grp.slot ≠ 16 ∧ innerGate s.grp.stack 16 s.cur.top = none ∧ c.code ≠ 0x0070 ∧ s.myPart.halt.state = 0 ∧
      (((s.core s.grp.core).origin.any fun o => o.1 = s.grp.pipe) = false) ∧ let t := s.raise c; ∃ T ∈ t.allTeams, T.st = .saving ∧ T.part = s.team.part) ∧
    (∃ core : Nat, ∃ engine : Nat, ∃ p : Nat, ∃ s : State, s.partOf core = some p ∧ (s.part p).halt.state = 1 ∧ engine < 7 ∧ engine ∉ (s.core core).stopped) ∧
    (∃ u : UnitRef, ∃ s : State, ∃ t : State, ∃ p : Parked, s.select u = some t ∧ t.mayIssue = true ∧ t.cur.st = .parked p ∧
      2 ^ 36 ≤ p.waited + (t.cycle - p.since) ∧ ∃ x, p.why = .popq ∧ p.instr = .popq x ∧ (t.hqItems p.aux).length < (lanesOf p.lanes).length) ∧
    (∃ u : UnitRef, ∃ s : State, ∃ t : State, ∃ p : Parked, s.select u = some t ∧ t.mayIssue = true ∧ t.cur.st = .parked p ∧
      2 ^ 36 ≤ p.waited + (t.cycle - p.since) ∧ ∃ x, p.why = .pushq ∧ p.instr = .pushq x ∧ 1024 - (t.hqItems p.aux).length < (lanesOf p.lanes).length) ∧
    (∃ u : UnitRef, ∃ s : State, ∃ t : State, ∃ p : Parked, s.select u = some t ∧ t.mayIssue = true ∧ t.cur.st = .parked p ∧
      2 ^ 36 ≤ p.waited + (t.cycle - p.since) ∧ ∃ x, p.why = .barw ∧ p.instr = .barw x ∧ p.lanes = 0) ∧
    (∃ u : UnitRef, ∃ s : State, ∃ t : State, ∃ p : Parked, s.select u = some t ∧ t.mayIssue = true ∧ t.cur.st = .parked p ∧
      2 ^ 36 ≤ p.waited + (t.cycle - p.since) ∧ ∃ o, ∃ x, ∃ l, ∃ a, p.why = .ldfe ∧ memOp p.instr = some (o, x) ∧ t.countedFlag x.flag = none ∧
      sget false t.mem.full p.aux = false ∧ (lanesOf p.lanes).head? = some l ∧ laneAddrOf p.read p.rec_ x.a.toNat l = .at_ a) ∧
    (∃ core : Nat, ∃ ctx : Nat, ∃ id : Nat, ∃ g : Nat, ∃ s : State, ∃ e : MEntry, ∃ b : Blocks, s.mentry? core ctx id = some e ∧ e.running = true ∧
      e.step < e.steps ∧ e.bundle.isSome = true ∧ s.engineRuns e.part = true ∧ 2 ^ 36 ≤ e.waited + (s.cycle - e.since) ∧ s.stepBlocks e = .ok b ∧
      ((b.takes.find? fun k => !s.mem.isFull e.core k) = some g)) :=
  ⟨⟨stateA, ⟨5,7⟩, by decide +kernel, by decide +kernel, by decide +kernel, by decide +kernel, by decide +kernel, by decide +kernel⟩,
   ⟨state5, ⟨5,7⟩, by decide +kernel, by decide +kernel, by decide +kernel, by decide +kernel, by decide +kernel, by decide +kernel, by decide +kernel,
      by decide +kernel⟩,
   ⟨state6, ⟨5,7⟩, by decide +kernel, by decide +kernel, by decide +kernel, by decide +kernel, by decide +kernel,
      (((state6.raise (⟨5,7⟩ : Code)).allTeams)[1]?.getD default), by decide +kernel, by decide +kernel, by decide +kernel⟩,
   ⟨0, 0, p3_0, hal [], by decide +kernel, by decide +kernel, by decide +kernel, by decide +kernel⟩,
   ⟨u0, state9, ((state9.select u0).getD default), p4_1, by decide +kernel, by decide +kernel, by decide +kernel, by decide +kernel, x4_2,
      by decide +kernel, by decide +kernel, by decide +kernel⟩,
   ⟨u0, state10, ((state10.select u0).getD default), p5_3, by decide +kernel, by decide +kernel, by decide +kernel, by decide +kernel, x5_4,
      by decide +kernel, by decide +kernel, by decide +kernel⟩,
   ⟨u0, state4, ((state4.select u0).getD default), p6_5, by decide +kernel, by decide +kernel, by decide +kernel, by decide +kernel, x6_6,
      by decide +kernel, by decide +kernel, by decide +kernel⟩,
   ⟨u0, state3, ((state3.select u0).getD default), p7_7, by decide +kernel, by decide +kernel, by decide +kernel, by decide +kernel, o7_8, x7_9, l7_10,
      256, by decide +kernel, by decide +kernel, by decide +kernel, by decide +kernel, by decide +kernel, by decide +kernel⟩,
   ⟨0, 0, 4, g8_12, mst, ((mst.mentry? 0 0 4).getD default), b8_11, by decide +kernel, by decide +kernel, by decide +kernel, by decide +kernel,
      by decide +kernel, by decide +kernel, by decide +kernel, by decide +kernel⟩⟩
end WHaltsAndTimeouts

namespace WQueueEvents
def qdes (tail head : Nat) : BitVec 512 := BitVec.ofNat 512 (0x10000 + 2^128 + 8 * 2^160 + tail * 2^192 + head * 2^224)
def cPin : Nat := 2 + 0x200000000 * 2^64 + 0x10000 * 2^128 + 2^194
def cWait (a : Nat) : Nat := 4 + a * 2^64 + 5 * 2^128
def cNot : Nat := 6 + 77 * 2^64
def cl (ns : List Nat) (st : Bool) : Claimed := { queue := 3, head := 5, core := 0, slots := ns.map (BitVec.ofNat 512), started := st }
def cst (c : Claimed) (sem : Nat) (ld : Nat) : State := { stateA with mem := { stateA.mem with dram := (((stateA.mem.writeDram 0x9000 8 sem false).writeDram 0x20000 256 ld false).writeDram 0x10000 512 (cNot + cWait 0x9000 * 2^512) false).dram }, parts := [(0, { partA with dram := 2^32, queues := [(3, qdes 6 5)], claimed := [{ queue := 7, head := 1, core := 0, slots := [], started := true }, c] })], port := { stateA.port with up := true } }
def qs1 (h : Nat) (sn : Nat) : State := let s := cst (cl [cPin] true) 0 0; { s with parts := s.parts.map fun p => (p.1, { p.2 with queues := [(3, qdes 8 h)], seen := [(3, sn)], claimed := [] }) }
def bad (s : State) : State := {s with mem := s.mem.writeDram 0x10000 8 99 false }
def qp (s : State) : State := { s with parts := s.parts.map fun p => (p.1, { p.2 with queuePoison := (List.range 4096).map fun i => (i, true) }) }
def qun (s : State) : State := { s with parts := s.parts.map fun p => (p.1, { p.2 with queues := [(3, BitVec.ofNat 512 (0x90000000000 + 2^128 + 8 * 2^160 + 8 * 2^192 + 0 * 2^224))] }) }
def queue2_0 := (((qun (qs1 0 8) : State).nextQueue 0 0).getD default)
def a2_1 := (match (qun (qs1 0 8) : State).nextCommand 0 queue2_0 with | some (.error a) => a | _ => default)
def queue3_2 := (((qp (qs1 0 8) : State).nextQueue 0 0).getD default)
def queue4_3 := (((qs1 0 8 : State).nextQueue 0 0).getD default)
def slots4_4 := (match (qs1 0 8 : State).nextCommand 0 queue4_3 with | some (.ok slots) => slots | _ => default)
def queue5_5 := (((bad (qs1 0 8) : State).nextQueue 0 0).getD default)
def slots5_6 := (match (bad (qs1 0 8) : State).nextCommand 0 queue5_5 with | some (.ok slots) => slots | _ => default)

theorem wit_QueueEvents :
    (∃ vf : Nat, ∃ value : Word, ∃ s : State, s.port.up = true ∧ s.linkOpen vf = true ∧ s.fnAnswers vf = true ∧ vf < 8 ∧ s.stagedBytes + 4 ≤ 8 * 2 ^ 20) ∧
    (∃ core : Nat, ∃ part : Nat, ∃ queue : Nat, ∃ s : State, s.pilotWorks core part = true ∧ qEnable (s.queue part queue) = true) ∧
    (∃ core : Nat, ∃ part : Nat, ∃ queue : Nat, ∃ s : State, s.pilotServes core part = true ∧ s.nextQueue part core = some queue ∧ ∃ a,
      s.nextCommand part queue = some (.error a)) ∧
    (∃ core : Nat, ∃ part : Nat, ∃ queue : Nat, ∃ s : State, s.pilotServes core part = true ∧ s.nextQueue part core = some queue ∧
      (s.part part).queueBad queue = true) ∧
    (∃ core : Nat, ∃ part : Nat, ∃ queue : Nat, ∃ s : State, ∃ slots : List (BitVec 512), s.pilotServes core part = true ∧
      s.nextQueue part core = some queue ∧ s.nextCommand part queue = some (.ok slots) ∧ let h := (slots.headD 0).toNat; (cmKind h = 1 ∨ cmBad h = false)) ∧
    (∃ core : Nat, ∃ part : Nat, ∃ queue : Nat, ∃ s : State, ∃ slots : List (BitVec 512), s.pilotServes core part = true ∧
      s.nextQueue part core = some queue ∧ s.nextCommand part queue = some (.ok slots) ∧ let h := (slots.headD 0).toNat; cmKind h ≠ 1 ∧ cmBad h = true) :=
  ⟨⟨0, 0, qun (qs1 0 8), by decide +kernel, by decide +kernel, by decide +kernel, by decide +kernel, by decide +kernel⟩,
   ⟨0, 0, 3, qun (qs1 0 8), by decide +kernel, by decide +kernel⟩,
   ⟨0, 0, queue2_0, qun (qs1 0 8), by decide +kernel, by decide +kernel, a2_1, by decide +kernel⟩,
   ⟨0, 0, queue3_2, qp (qs1 0 8), by decide +kernel, by decide +kernel, by decide +kernel⟩,
   ⟨0, 0, queue4_3, qs1 0 8, slots4_4, by decide +kernel, by decide +kernel, by decide +kernel, by decide +kernel⟩,
   ⟨0, 0, queue5_5, bad (qs1 0 8), slots5_6, by decide +kernel, by decide +kernel, by decide +kernel, by decide +kernel, by decide +kernel⟩⟩
end WQueueEvents

namespace WCommands
def qdes (tail head : Nat) : BitVec 512 := BitVec.ofNat 512 (0x10000 + 2^128 + 8 * 2^160 + tail * 2^192 + head * 2^224)
def cPin : Nat := 2 + 0x200000000 * 2^64 + 0x10000 * 2^128 + 2^194
def cPin1 : Nat := 2 + 2^31 * 2^64 + 2^30 * 2^128 + 2 * 2^192 + 2^194
def cPin2 : Nat := 2 + 2^31 * 2^64 + 2^30 * 2^128 + 2 * 2^192 + 2^194 + 2^199 + 2^256 * 2^32
def cPinBad : Nat := 2 + 0x200000123 * 2^64 + 0x10000 * 2^128
def cUnpin : Nat := 3 + 0 * 2^64 + 2^30 * 2^128
def cUnpinBad : Nat := 3 + 2^40 * 2^64 + 2^30 * 2^128
def cWait (a : Nat) : Nat := 4 + a * 2^64 + 5 * 2^128
def cSig (a k : Nat) : Nat := 5 + a * 2^64 + 5 * 2^128 + k * 2^192
def cNot : Nat := 6 + 77 * 2^64
def cBun : Nat := 1 + 1 * 2^8
def sub1 : Nat := 1 + 0x200 * 2^8 + 2*2^160+1*2^192+1*2^224 + 9 * 2^256
def ld1 (nv task : Nat) : Nat := 0x4C444A46 + 2^32 + 2^48 + 2 * 2^52 + (0x8000 + 2*2^64 + 1 * 2^69 + 3*2^74) * 2^64 + 2^576 + 4 * 2^595 + nv * 2^623 + (if nv = 1 then 1 * 2^640 else 0)
def cl (ns : List Nat) (st : Bool) : Claimed := { queue := 3, head := 5, core := 0, slots := ns.map (BitVec.ofNat 512), started := st }
def cst (c : Claimed) (sem : Nat) (ld : Nat) : State := { stateA with mem := { stateA.mem with dram := (((stateA.mem.writeDram 0x9000 8 sem false).writeDram 0x20000 256 ld false).writeDram 0x10000 512 (cNot + cWait 0x9000 * 2^512) false).dram }, parts := [(0, { partA with dram := 2^32, queues := [(3, qdes 6 5)], claimed := [{ queue := 7, head := 1, core := 0, slots := [], started := true }, c] })], port := { stateA.port with up := true } }
def cls : List Claimed := [cl [cPin1] false, cl [cPin2] false, cl [cPin] false, cl [cPinBad] false, cl [cUnpin] false, cl [cUnpinBad] false, cl [cWait 0x9000] false, cl [cWait 0x9001] false, cl [cWait 0x9000] true, cl [cSig 0x9000 0] false, cl [cSig 0x9000 1] false, cl [cSig 0x9004 1] false, cl [cNot] false, cl [cBun, sub1] false]
def allState : List State := (cls.map fun c => cst c 3 (ld1 0 0)) ++ (cls.map fun c => cst c 7 (ld1 1 0)) ++ [cst (cl [cBun, sub1] false) 0 0]
def state0 : State := ((allState)[2]?.getD default)
def claimed0 : Claimed := ((cls)[2]?.getD default)
def p0_0 := ((state0.pinRange 0 ((claimed0.slots.headD 0).toNat)).getD default)
def state3 : State := ((allState)[3]?.getD default)
def claimed3 : Claimed := ((cls)[3]?.getD default)
def state4 : State := ((allState)[4]?.getD default)
def claimed4 : Claimed := ((cls)[4]?.getD default)
def ps2_1 := ((state4.pagesIn 0 (cmDomain ((claimed4.slots.headD 0).toNat)) (cmVa ((claimed4.slots.headD 0).toNat) + cmValue ((claimed4.slots.headD 0).toNat)) (cmValue ((claimed4.slots.headD 0).toNat) / 2 ^ 16 + 1) (cmVa ((claimed4.slots.headD 0).toNat))).getD default)
def state5 : State := ((allState)[5]?.getD default)
def claimed5 : Claimed := ((cls)[5]?.getD default)
def state6 : State := ((allState)[6]?.getD default)
def claimed6 : Claimed := ((cls)[6]?.getD default)
def state7 : State := ((allState)[7]?.getD default)
def claimed7 : Claimed := ((cls)[7]?.getD default)
def state22 : State := ((allState)[22]?.getD default)
def claimed8 : Claimed := ((cls)[8]?.getD default)
def state9 : State := ((allState)[9]?.getD default)
def claimed9 : Claimed := ((cls)[9]?.getD default)
def p7_2 := ((state9.semaphore 0 ((claimed9.slots.headD 0).toNat) true).getD default)
def state11 : State := ((allState)[11]?.getD default)
def claimed11 : Claimed := ((cls)[11]?.getD default)
def state12 : State := ((allState)[12]?.getD default)
def claimed12 : Claimed := ((cls)[12]?.getD default)
def state28 : State := ((allState)[28]?.getD default)
def claimed13 : Claimed := ((cls)[13]?.getD default)
def r10_3 := ((state28.bundleCheck 0 claimed13.core claimed13.slots).getD default)
def state13 : State := ((allState)[13]?.getD default)

theorem wit_Commands :
    (∃ part : Nat, ∃ q : Nat, ∃ s : State, ∃ c : Claimed, let n := (c.slots.headD 0).toNat; s.MayStart part q 2 c ∧ ∃ p, s.pinRange part n = some p) ∧
    (∃ part : Nat, ∃ q : Nat, ∃ s : State, ∃ c : Claimed, let n := (c.slots.headD 0).toNat; let dom := cmDomain n; s.MayStart part q 2 c ∧
      (cmVa n % 2 ^ 16 ≠ 0 ∨ domValid ((s.part part).domain dom) = false)) ∧
    (∃ part : Nat, ∃ q : Nat, ∃ s : State, ∃ c : Claimed, let n := (c.slots.headD 0).toNat; let dom := cmDomain n; s.MayStart part q 3 c ∧ ∃ ps,
      s.pagesIn part dom (cmVa n + cmValue n) (cmValue n / 2 ^ 16 + 1) (cmVa n) = some ps) ∧
    (∃ part : Nat, ∃ q : Nat, ∃ s : State, ∃ c : Claimed, let n := (c.slots.headD 0).toNat; let dom := cmDomain n; s.MayStart part q 3 c ∧
      s.pagesIn part dom (cmVa n + cmValue n) (cmValue n / 2 ^ 16 + 1) (cmVa n) = none) ∧
    (∃ part : Nat, ∃ q : Nat, ∃ s : State, ∃ c : Claimed, let n := (c.slots.headD 0).toNat; s.MayStart part q 4 c ∧ s.semaphore part n false ≠ none) ∧
    (∃ part : Nat, ∃ q : Nat, ∃ s : State, ∃ c : Claimed, let n := (c.slots.headD 0).toNat; s.MayStart part q 4 c ∧ s.semaphore part n false = none) ∧
    (∃ part : Nat, ∃ q : Nat, ∃ s : State, ∃ c : Claimed, (((s.part part).claimed.find? fun e => e.queue = q ∧ e.started ∧
      cmKind (e.slots.headD 0).toNat = 4 ∧ s.waitMetCmd part (e.slots.headD 0).toNat) = some c)) ∧
    (∃ part : Nat, ∃ q : Nat, ∃ s : State, ∃ c : Claimed, let n := (c.slots.headD 0).toNat; s.MayStart part q 5 c ∧ ∃ p, s.semaphore part n true = some p ∧
      p.target = 0) ∧
    (∃ part : Nat, ∃ q : Nat, ∃ s : State, ∃ c : Claimed, let n := (c.slots.headD 0).toNat; s.MayStart part q 5 c ∧ s.semaphore part n true = none) ∧
    (∃ part : Nat, ∃ q : Nat, ∃ s : State, ∃ c : Claimed, s.MayStart part q 6 c) ∧
    (∃ part : Nat, ∃ q : Nat, ∃ s : State, ∃ c : Claimed, s.MayStart part q 1 c ∧ ∃ r, s.bundleCheck part c.core c.slots = some r) ∧
    (∃ part : Nat, ∃ q : Nat, ∃ s : State, ∃ c : Claimed, s.MayStart part q 1 c ∧ s.bundleCheck part c.core c.slots = none ∧
      s.floorWaits part c.slots = false) :=
  ⟨⟨0, 3, state0, claimed0, ⟨by decide +kernel, by decide +kernel, by decide +kernel, by decide +kernel⟩, p0_0, by decide +kernel⟩,
   ⟨0, 3, state3, claimed3, ⟨by decide +kernel, by decide +kernel, by decide +kernel, by decide +kernel⟩, by decide +kernel⟩,
   ⟨0, 3, state4, claimed4, ⟨by decide +kernel, by decide +kernel, by decide +kernel, by decide +kernel⟩, ps2_1, by decide +kernel⟩,
   ⟨0, 3, state5, claimed5, ⟨by decide +kernel, by decide +kernel, by decide +kernel, by decide +kernel⟩, by decide +kernel⟩,
   ⟨0, 3, state6, claimed6, ⟨by decide +kernel, by decide +kernel, by decide +kernel, by decide +kernel⟩, by decide +kernel⟩,
   ⟨0, 3, state7, claimed7, ⟨by decide +kernel, by decide +kernel, by decide +kernel, by decide +kernel⟩, by decide +kernel⟩,
   ⟨0, 3, state22, claimed8, by decide +kernel⟩,
   ⟨0, 3, state9, claimed9, ⟨by decide +kernel, by decide +kernel, by decide +kernel, by decide +kernel⟩, p7_2, by decide +kernel, by decide +kernel⟩,
   ⟨0, 3, state11, claimed11, ⟨by decide +kernel, by decide +kernel, by decide +kernel, by decide +kernel⟩, by decide +kernel⟩,
   ⟨0, 3, state12, claimed12, ⟨by decide +kernel, by decide +kernel, by decide +kernel, by decide +kernel⟩⟩,
   ⟨0, 3, state28, claimed13, ⟨by decide +kernel, by decide +kernel, by decide +kernel, by decide +kernel⟩, r10_3, by decide +kernel⟩,
   ⟨0, 3, state13, claimed13, ⟨by decide +kernel, by decide +kernel, by decide +kernel, by decide +kernel⟩, by decide +kernel, by decide +kernel⟩⟩
end WCommands

namespace WTeamEvents
def qdes (tail head : Nat) : BitVec 512 := BitVec.ofNat 512 (0x10000 + 2^128 + 8 * 2^160 + tail * 2^192 + head * 2^224)
def cBun : Nat := 1 + 1 * 2^8
def ld1 (nv task : Nat) : Nat := 0x4C444A46 + 2^32 + 2^48 + 2 * 2^52 + (0x8000 + 2*2^64 + 1 * 2^69 + 3*2^74) * 2^64 + 2^576 + 4 * 2^595 + nv * 2^623 + (if nv = 1 then 1 * 2^640 else 0)
def gr (nv task : Nat) : Grid := { id := 11, bundle := 8, part := 0, queue := 3, desc := BitVec.ofNat 2048 (ld1 nv task), x := 2, y := 1, z := 1, args := [1,2,3,4,5,6,7,8], task := task = 1, ticket := 0, aux := 0x6000 }
def rsv : Reserved := { unit := 0, pilot := 0, rooms := [{}], seen := [] }
def rsv1 : Reserved := { unit := 1, pilot := 0, rooms := [{}], seen := [(0,true)] }
def bun : Bundle := { id := 8, queue := 3, stream := 99 }
def bcl : Claimed := { queue := 3, head := 5, core := 0, slots := [BitVec.ofNat 512 cBun, 0], started := true, bundle := some 8 }
def gs (gs : List Grid) : State := { stateA with parts := [(0, { partA with dram := 2^32, grids := gs, bundles := [bun], claimed := [bcl], queues := [(3, qdes 6 6)], beats := [(0, 7)] })], grp := {st := .free, key := ⟨0,2^20⟩}, cur := {}, team := {}, mem := (stateA.mem.writeSpad 0 0x100 4 77 false) }
def grs : List Grid := [gr 0 0, gr 0 1, gr 1 0, { gr 0 0 with ticket := 2 }, { gr 0 0 with ticket := 1 }, { gr 0 0 with ticket := 1, reserved := [rsv] }, { gr 1 0 with ticket := 2, reserved := [rsv1], board := [(0,true)] }, { gr 1 0 with ticket := 1, reserved := [{rsv with unit := 0}] }, {gr 0 0 with ticket := 2, retired := 1}, {gr 1 0 with ticket := 2, retired := 0}]
def tm (st : TState) (n : Nat) : Team := { stream := 5, part := 0, grid := 11, number := n, st := st, size := 16384 }
def ret (g : Grid) (st : TState) (gst : GState) (fls : List Flight) : State := { gs [g] with teams := [tm st 0], groups := [{ key := ⟨5,0⟩, st := gst }, { key := ⟨6,0⟩, st := gst }], flights := fls }
def q1 : State := { gs [{gr 0 0 with ticket := 2, retired := 2, complete := true}] with teams := [] }
def allState : List State := (grs.map fun g => gs [g]) ++ [ret (grs.getD 8 {}) .admitted .ended [], ret (grs.getD 9 {}) .retiring .ended [], ret (grs.getD 8 {}) .admitted .ended [fl 2 3], q1]
def state0 : State := ((allState)[0]?.getD default)
def state2 : State := ((allState)[2]?.getD default)
def state5 : State := ((allState)[5]?.getD default)
def r3_0 := (((((state5.grid? 0 11).getD default).reserved.find? fun x => x.unit = 0)).getD default)
def state10 : State := ((allState)[10]?.getD default)
def g5_1 := ((state10.grid? ((state10.team? 5).getD default).part ((state10.team? 5).getD default).grid).getD default)
def state12 : State := ((allState)[12]?.getD default)
def g6_2 := ((state12.grid? ((state12.team? 5).getD default).part ((state12.team? 5).getD default).grid).getD default)
def state13 : State := ((allState)[13]?.getD default)

theorem wit_TeamEvents :
    (∃ core : Nat, ∃ part : Nat, ∃ grid : Nat, ∃ s : State, ∃ g : Grid, ∃ room : Room, s.grid? part grid = some g ∧ s.pilotServes core part = true ∧
      g.complete = false ∧ g.saved = [] ∧ g.ticket + 1 ≤ g.units ∧ ldCluster g.d = 1 ∧ s.holdUnits part core g [g.ticket] [] = some [(g.ticket, [room])] ∧
      ldNvec g.d = 0) ∧
    (∃ core : Nat, ∃ part : Nat, ∃ grid : Nat, ∃ s : State, ∃ g : Grid, ∃ room : Room, s.grid? part grid = some g ∧ s.pilotServes core part = true ∧
      g.complete = false ∧ g.saved = [] ∧ g.ticket + 1 ≤ g.units ∧ ldCluster g.d = 1 ∧ s.holdUnits part core g [g.ticket] [] = some [(g.ticket, [room])] ∧
      ldNvec g.d ≠ 0) ∧
    (∃ core : Nat, ∃ s : State, (s.core core).pilot = true) ∧
    (∃ part : Nat, ∃ grid : Nat, ∃ unit : Nat, ∃ s : State, ∃ g : Grid, ∃ r : Reserved, s.grid? part grid = some g ∧
      ((g.reserved.find? fun x => x.unit = unit) = some r) ∧ (s.core r.pilot).pilot = true ∧ r.rooms ≠ [] ∧ (∀ c ∈ g.members unit, ∀ n ∈ g.preds c,
      sget false r.seen n = true) ∧ (∀ x ∈ r.rooms, (s.withFloors part x.core grid (s.holders part x.core [])).isSome = true)) ∧
    (∃ core : Nat, ∃ p : Nat, ∃ s : State, s.partOf core = some p ∧ (s.core core).pilot = true) ∧
    (∃ stream : Nat, ∃ s : State, ∃ T : Team, ∃ g : Grid, s.team? stream = some T ∧ stream ≠ 0 ∧ (T.st = .admitted ∨ T.st = .retiring) ∧
      s.grid? T.part T.grid = some g ∧ g.task = false ∧ s.groupsEnded stream = true ∧
      let s2 := s.modTeam stream fun t => { t with st := .retiring, preempt := false }; (s2.pilotWorks T.core T.part && s2.teamQuiet T) = true) ∧
    (∃ stream : Nat, ∃ s : State, ∃ T : Team, ∃ g : Grid, s.team? stream = some T ∧ stream ≠ 0 ∧ (T.st = .admitted ∨ T.st = .retiring) ∧
      s.grid? T.part T.grid = some g ∧ g.task = false ∧ s.groupsEnded stream = true ∧
      let s2 := s.modTeam stream fun t => { t with st := .retiring, preempt := false }; (s2.pilotWorks T.core T.part && s2.teamQuiet T) = false) ∧
    (∃ part : Nat, ∃ bundle : Nat, ∃ s : State, ∃ b : Bundle, ∃ c : Claimed, ((s.part part).bundles.find? (fun b => b.id = bundle) = some b) ∧
      ((s.part part).claimed.find? (fun c => c.started ∧ c.bundle = some bundle) = some c) ∧ s.bundleQuiet part b = true ∧ (s.part part).halt.state = 0 ∧
      c.queue = b.queue) :=
  ⟨⟨0, 0, 11, state0, ((state0.grid? 0 11).getD default), {}, by decide +kernel, by decide +kernel, by decide +kernel, by decide +kernel,
      by decide +kernel, by decide +kernel, by decide +kernel, by decide +kernel⟩,
   ⟨0, 0, 11, state2, ((state2.grid? 0 11).getD default), {}, by decide +kernel, by decide +kernel, by decide +kernel, by decide +kernel,
      by decide +kernel, by decide +kernel, by decide +kernel, by decide +kernel⟩,
   ⟨0, state0, by decide +kernel⟩,
   ⟨0, 11, 0, state5, ((state5.grid? 0 11).getD default), r3_0, by decide +kernel, by decide +kernel, by decide +kernel, by decide +kernel,
      by decide +kernel, by decide +kernel⟩,
   ⟨0, ((state0.partOf 0).getD default), state0, by decide +kernel, by decide +kernel⟩,
   ⟨5, state10, ((state10.team? 5).getD default), g5_1, by decide +kernel, by decide +kernel, by decide +kernel, by decide +kernel, by decide +kernel,
      by decide +kernel, by decide +kernel⟩,
   ⟨5, state12, ((state12.team? 5).getD default), g6_2, by decide +kernel, by decide +kernel, by decide +kernel, by decide +kernel, by decide +kernel,
      by decide +kernel, by decide +kernel⟩,
   ⟨0, 8, state13, bun, bcl, by decide +kernel, by decide +kernel, by decide +kernel, by decide +kernel, by decide +kernel⟩⟩
end WTeamEvents

namespace WPreemption
def qdes (tail head : Nat) : BitVec 512 := BitVec.ofNat 512 (0x10000 + 2^128 + 8 * 2^160 + tail * 2^192 + head * 2^224)
def ld1 (nv task : Nat) : Nat := 0x4C444A46 + 2^32 + 2^48 + 2 * 2^52 + (0x8000 + 2*2^64 + 1 * 2^69 + 3*2^74) * 2^64 + 2^576 + 4 * 2^595 + nv * 2^623 + (if nv = 1 then 1 * 2^640 else 0)
def ldb : Nat := 0x4C444A46 + 2^32 + 2^48 + 2 * 2^52 + (0x8000 + 2*2^64 + 1 * 2^69 + 3*2^74) * 2^64 + 256 * 2^576 + 4 * 2^595
def gA (sv : List Nat) : Grid := { id := 11, bundle := 8, part := 0, queue := 3, priority := 2, desc := BitVec.ofNat 2048 ldb, x := 1, ticket := 1, saved := sv }
def gB : Grid := { id := 12, bundle := 8, part := 0, queue := 3, priority := 0, desc := BitVec.ofNat 2048 (ld1 0 0), x := 1, ticket := 0 }
def tv (st : TState) (pre : Bool) (im : Option SaveImage) : Team := { stream := 5, part := 0, grid := 11, st := st, size := 4096, priority := 2, preempt := pre, image := im }
def im0 : SaveImage := {}
def im1 : SaveImage := { spad := [(5, 9), (70, 3)], full := [(2, true)], bytes := 5000000 }
def ps (T : Team) (gst : GState) (gs : List Grid) (fls : List Flight) : State := { stateA with parts := [(0, { partA with dram := 2^32, pool := 2^30, grids := gs, queues := [(3, qdes 6 6)] })], grp := {st := .free, key := ⟨0,2^20⟩}, cur := {}, team := {}, mem := stateA.mem.writeSpad 0 0x100 4 77 false, teams := [T], groups := [{ key := ⟨5,0⟩, st := gst, lanes := 64, budget := 32, units := [{ mask := 3, pc := 0x8000 }] }], flights := fls, cores := [(0, {pilot := true, copies := [{ id := 3, stream := 5 }, {id := 4, stream := 77}]})] }
def state0 : State := ps (tv .admitted false none) .live [gA [], gB] []
def team0 : Team := tv .admitted false none
def state1 : State := ps (tv .admitted true none) .live [gA [], gB] [fl 2 3]
def state2 : State := (fun (s : State) => { s with parts := s.parts.map fun p => (p.1, { p.2 with pool := 132*1024 }) }) (ps (tv .saving false (some im0)) .saved [gA [], gB] [])
def im2_0 := ((((state2.team? 5).getD default).image).getD default)
def g2_1 := ((state2.grid? ((state2.team? 5).getD default).part ((state2.team? 5).getD default).grid).getD default)
def team2 : Team := tv .saving false (some im0)
def state3 : State := ps (tv .saved false (some im1)) .saved [gA [0], {gB with complete := true}] []
def im4_2 := ((((state3.team? 5).getD default).image).getD default)
def g4_3 := ((state3.grid? ((state3.team? 5).getD default).part ((state3.team? 5).getD default).grid).getD default)
def room4_4 := (match state3.unitRoom ((state3.team? 5).getD default).part 0 g4_3.id [{ needOf g4_3.d with chans := im4_2.chans.length }] [] with | some [room] => room | _ => default)

theorem wit_Preemption :
    (∃ core : Nat, ∃ part : Nat, ∃ grid : Nat, ∃ s : State, ∃ g : Grid, ∃ v : Team, s.grid? part grid = some g ∧ s.pilotServes core part = true ∧
      g.complete = false ∧ (g.saved ≠ [] ∨ g.ticket < g.units) ∧ s.anyRoom part grid (s.nextNeed part g) [] = false ∧
      ((s.allTeams.filter fun t => decide (t.part = part ∧ g.priority < t.priority) && s.canPreempt t && !t.preempt) = [v]) ∧ s.crew v = [v] ∧
      s.imageBytes v ≤ (s.part part).poolFree) ∧
    (∃ stream : Nat, ∃ s : State, ∃ T : Team, s.team? stream = some T ∧ stream ≠ 0 ∧ s.canPreempt T = true ∧ T.preempt = true ∧
      (s.part T.part).halt.state = 0 ∧ s.crew T = [T]) ∧
    (∃ stream : Nat, ∃ s : State, ∃ T : Team, ∃ im : SaveImage, ∃ g : Grid, s.team? stream = some T ∧ T.image = some im ∧ stream ≠ 0 ∧ T.st = .saving ∧
      (s.part T.part).halt.state = 0 ∧ s.arrivedAt T = true ∧ s.grid? T.part T.grid = some g) ∧
    (∃ core : Nat, ∃ stream : Nat, ∃ s : State, ∃ T : Team, ∃ x : Team, s.team? stream = some T ∧ x ∈ s.unitTeams T.part T.grid T.cluster ∧
      x.st = .saving ∧ s.groupsEnded x.stream = false) ∧
    (∃ core : Nat, ∃ stream : Nat, ∃ s : State, ∃ T : Team, ∃ im : SaveImage, ∃ g : Grid, ∃ room : Room, s.team? stream = some T ∧ T.image = some im ∧
      stream ≠ 0 ∧ T.st = .saved ∧ s.grid? T.part T.grid = some g ∧ g.saved.head? = some T.cluster ∧ s.pilotServes core T.part = true ∧
      (((s.unitTeams T.part T.grid T.cluster).filter fun x => x.st == .saved) = [T]) ∧ (∀ x ∈ s.unitTeams T.part T.grid T.cluster,
      x.st = .saved ∨ x.st = .retiring ∨ x.st = .retired) ∧ s.unitRoom T.part core g.id [{ needOf g.d with chans := im.chans.length }] [] = some [room] ∧
      s.carries room.core T = true ∧ scanon 0 im.spad = true ∧ scanon false im.full = true) :=
  ⟨⟨0, 0, 12, state0, ((state0.grid? 0 12).getD default), team0, by decide +kernel, by decide +kernel, by decide +kernel, by decide +kernel,
      by decide +kernel, by decide +kernel, by decide +kernel, by decide +kernel⟩,
   ⟨5, state1, ((state1.team? 5).getD default), by decide +kernel, by decide +kernel, by decide +kernel, by decide +kernel, by decide +kernel,
      by decide +kernel⟩,
   ⟨5, state2, ((state2.team? 5).getD default), im2_0, g2_1, by decide +kernel, by decide +kernel, by decide +kernel, by decide +kernel,
      by decide +kernel, by decide +kernel, by decide +kernel⟩,
   ⟨0, 5, state2, ((state2.team? 5).getD default), team2, by decide +kernel, by decide +kernel, by decide +kernel, by decide +kernel⟩,
   ⟨0, 5, state3, ((state3.team? 5).getD default), im4_2, g4_3, room4_4, by decide +kernel, by decide +kernel, by decide +kernel, by decide +kernel,
      by decide +kernel, by decide +kernel, by decide +kernel, by decide +kernel, by decide +kernel, by decide +kernel, by decide +kernel,
      by decide +kernel, by decide +kernel⟩⟩
end WPreemption

namespace WHostAccesses
def sa : State := { stateA with parts := [(0, { partA with wbase := 0, k := 30, queues := [(3, 5)], table := 0x20000 })], port := { stateA.port with up := true }, plat := { stateA.plat with bootStatus := 0x10 }, mem := stateA.mem.writeDram 0x9000 8 0x1122334455667788 false }
def wp (r : Nat) (rel : Option Nat) (ack : Bool) : WritePart := { route := r, pa := if r = 4 then 0 else 0x9010, reg := if r = 4 then some 0x100 else none, bytes := (List.range 48).map (fun i => BitVec.ofNat 8 (i+1)), released := rel, acked := ack }
def iw (fn : Nat) (ps : List WritePart) : InWrite := { id := 4, fn := fn, parts := ps }
def w1 := iw 0 [wp 0 none false]
def w2 := iw 0 [wp 0 (some 3) false]
def w3 := iw 0 [wp 0 (some 3) false, wp 1 none false]
def w4 := iw 8 [{wp 4 (some 3) false with bytes := [1,2,3,4]}]
def w5 := iw 0 [{ wp 4 (some 3) false with reg := some 0, bytes := bytesOf 3 4 }]
def w6 := { iw 0 [wp 0 (some 3) false] with poisoned := true }
def w7 := iw 0 [{wp 0 (some 3) false with poison := [0x9020/32]}]
def w8 := iw 0 [{wp 0 (some 3) false with pa := 0x20000 + 0xD0, reg := some 0x20D0, bytes := [1,2,3,4,5,6,7,8]}]
def w9 := { w8 with poisoned := true }
def wa := { iw 0 [wp 1 none false] with id := 2 }
def wb := { iw 0 [wp 0 none false] with id := 2 }
def wc := { iw 0 [wp 1 (some 1) true] with id := 2 }
def sw (w : InWrite) : State := { sa with port := { sa.port with inWrites := [w] } }
def fo : Flight := { id := 3, serial := 5, who := u0, part := 0, place := .host 0x4000, kind := .load, width := 4, dst := some 6, nregs := 1, chan := none }
def outs : List State := [{ sa with flights := [fo] }, { sa with flights := [{fo with performed := false, rtag := some 4}] }, { sa with flights := [{fo with kind := .store, performed := true, done := 2, chan := some 2, key := some ⟨5,2,4⟩}], port := { sa.port with posted := [.access 3] } }, { sa with flights := [fo], port := { sa.port with ideKeys := [(0,7)] } }, { sa with flights := [fo], port := { sa.port with ideKeys := [(0,7)], insecure := [(0,true)] } }]
def allState : List State := [sa] ++ [w1,w2,w3,w4,w5,w6,w7,w8,w9].map sw ++ [{ sa with parts := [(0, { partA with wbase := 2^30, k := 30 })] }] ++ ([w1,w2].flatMap fun w => [wa,wb,wc].map fun z => { sw w with port := { (sw w).port with inWrites := [z,w] } }) ++ [{ sa with mem := sa.mem.writeDram 0x9020 1 0 true }, {sw w6 with mem := sa.mem.writeDram 0x9020 1 0 true}, {sw w2 with mem := sa.mem.writeDram 0x9020 1 0 true}, {sw w2 with mem := sa.mem.writeDram 0x9010 1 0 true}] ++ outs
def hostReq1 : HostReq := {fn := 0, bar0 := true, offset := 0x40, bytes := [1,2,3,4], len := 4}
def state0 : State := ((allState)[0]?.getD default)
def hostReq5 : HostReq := {fn := 0, bar0 := true, offset := 0x2040, bytes := [1,2,3,4], len := 4}
def hostReq0 : HostReq := {fn := 0, bar0 := true, offset := 0x27F0, bytes := List.replicate 64 7, len := 4}
def hostReq2 : HostReq := {fn := 0, offset := 0x9000, bytes := [9,8,7], len := 8, op := 0, operand := 5}
def hostReq6 : HostReq := {fn := 0, offset := 0x97FE, bytes := [9,8,7,6], len := 4, poisoned := true}
def pa4_0 := ((state0.windowPa hostReq6.fn ((state0.part hostReq6.fn).wbase + hostReq6.offset) true).getD default)
def pb4_1 := ((state0.windowPa hostReq6.fn (((state0.part hostReq6.fn).wbase + hostReq6.offset) + (2048 - ((state0.part hostReq6.fn).wbase + hostReq6.offset) % 2048)) true).getD default)
def state10 : State := ((allState)[10]?.getD default)
def state1 : State := ((allState)[1]?.getD default)
def hostReq9 : HostReq := {fn := 0, offset := 2^30-2, bytes := [9,8,7,6], len := 4}
def state11 : State := ((allState)[11]?.getD default)
def state2 : State := ((allState)[2]?.getD default)
def n14_2 := ((((w2.parts[0]?).getD default).released).getD default)
def state4 : State := ((allState)[4]?.getD default)
def n15_3 := ((((w4.parts[0]?).getD default).released).getD default)
def state5 : State := ((allState)[5]?.getD default)
def n16_4 := ((((w5.parts[0]?).getD default).released).getD default)
def state8 : State := ((allState)[8]?.getD default)
def n17_5 := ((((w8.parts[0]?).getD default).released).getD default)
def off17_6 := ((((w8.parts[0]?).getD default).reg).getD default)
def state21 : State := ((allState)[21]?.getD default)
def state25 : State := ((allState)[25]?.getD default)
def state24 : State := ((allState)[24]?.getD default)
def a21_7 := (match ((state21.flight? 3).getD default).place with | .host a => a | _ => default)
def state23 : State := ((allState)[23]?.getD default)
def c23_8 := ((((state23.flight? 3).getD default).chan).getD default)
def T23_9 := ((state23.team? ((state23.flight? 3).getD default).who.group.stream).getD default)

theorem wit_HostAccesses_1 :
    (∃ r : HostReq, ∃ s : State, s.Answers r ∧ r.bytes ≠ [] ∧ r.bytes.length ≤ 512 ∧ s.stagedBytes + r.bytes.length ≤ 8 * 2 ^ 20 ∧ r.bar0 = true ∧
      (r.fn = 8 ∨ r.offset + r.bytes.length ≤ 0x2000 ∨ 0x3000 ≤ r.offset)) ∧
    (∃ r : HostReq, ∃ s : State, s.Answers r ∧ r.bytes ≠ [] ∧ r.bytes.length ≤ 512 ∧ s.stagedBytes + r.bytes.length ≤ 8 * 2 ^ 20 ∧ r.bar0 = true ∧
      r.fn < 8 ∧ 0x2000 ≤ r.offset ∧ r.offset + r.bytes.length ≤ 0x3000 ∧ let pa := (s.part r.fn).table + (r.offset - 0x2000); let n := 2048 - pa % 2048;
      r.bytes.length ≤ n) ∧
    (∃ r : HostReq, ∃ s : State, s.Answers r ∧ r.bytes ≠ [] ∧ r.bytes.length ≤ 512 ∧ s.stagedBytes + r.bytes.length ≤ 8 * 2 ^ 20 ∧ r.bar0 = true ∧
      r.fn < 8 ∧ 0x2000 ≤ r.offset ∧ r.offset + r.bytes.length ≤ 0x3000 ∧ let pa := (s.part r.fn).table + (r.offset - 0x2000); let n := 2048 - pa % 2048;
      n < r.bytes.length) ∧
    (∃ r : HostReq, ∃ s : State, s.Answers r ∧ r.bytes ≠ [] ∧ r.bytes.length ≤ 512 ∧ s.stagedBytes + r.bytes.length ≤ 8 * 2 ^ 20 ∧ ∃ pa,
      s.InWindow r r.bytes.length true pa) ∧
    (∃ r : HostReq, ∃ s : State, s.Answers r ∧ let va := (s.part r.fn).wbase + r.offset; r.bytes ≠ [] ∧ r.bytes.length ≤ 512 ∧
      s.stagedBytes + r.bytes.length ≤ 8 * 2 ^ 20 ∧ ∃ pa, ∃ pb, r.fn ≠ 8 ∧ r.bar0 = false ∧ r.offset + r.bytes.length ≤ 2 ^ (s.part r.fn).k ∧
      let n := 2048 - va % 2048; n < r.bytes.length ∧ s.windowPa r.fn va true = some pa ∧ s.windowPa r.fn (va + n) true = some pb) ∧
    (∃ r : HostReq, ∃ s : State, s.Answers r ∧ let va := (s.part r.fn).wbase + r.offset; r.bytes ≠ [] ∧ r.bytes.length ≤ 512 ∧
      s.stagedBytes + r.bytes.length ≤ 8 * 2 ^ 20 ∧ r.fn ≠ 8 ∧ r.bar0 = false ∧ va % 2048 + r.bytes.length ≤ 2048 ∧ r.poisoned = false ∧
      s.windowPa r.fn va true = none) ∧
    (∃ r : HostReq, ∃ s : State, s.Answers r ∧ let who := if r.ido then some r.requester else none; (r.relaxed = false ∧ ∃ e ∈ s.port.inWrites,
      e.fn = r.fn ∧ e.requester = who)) ∧
    (∃ r : HostReq, ∃ s : State, s.Answers r ∧ let who := if r.ido then some r.requester else none; (∃ e ∈ s.port.inWrites, e.fn = r.fn ∧
      e.requester = who)) ∧
    (∃ r : HostReq, ∃ s : State, s.Answers r ∧ let who := if r.ido then some r.requester else none; (r.relaxed = true ∨ ∀ e ∈ s.port.inWrites,
      e.domain ≠ (r.fn, who)) ∧ 0 < r.len ∧ r.len ≤ 4096 ∧ r.bar0 = true) ∧
    (∃ r : HostReq, ∃ s : State, s.Answers r ∧ let who := if r.ido then some r.requester else none; (r.relaxed = true ∨ ∀ e ∈ s.port.inWrites,
      e.domain ≠ (r.fn, who)) ∧ 0 < r.len ∧ r.len ≤ 4096 ∧ r.fn ≠ 8 ∧ r.bar0 = false ∧ 2 ^ (s.part r.fn).k < r.offset + r.len) ∧
    (∃ r : HostReq, ∃ s : State, s.Answers r ∧ let who := if r.ido then some r.requester else none; (r.relaxed = true ∨ ∀ e ∈ s.port.inWrites,
      e.domain ≠ (r.fn, who)) ∧ 0 < r.len ∧ r.len ≤ 4096 ∧ ∃ pa, s.InWindow r r.len false pa) ∧
    (∃ r : HostReq, ∃ s : State, s.Answers r ∧ let who := if r.ido then some r.requester else none; (∀ e ∈ s.port.inWrites, e.domain ≠ (r.fn, who)) ∧ ∃ pa,
      s.InWindow r r.len true pa ∧ (r.len = 4 ∨ r.len = 8) ∧ r.offset % r.len = 0 ∧ r.op ≤ 2) :=
  ⟨⟨hostReq1, state0, ⟨by decide +kernel, by decide +kernel, by decide +kernel⟩, by decide +kernel, by decide +kernel, by decide +kernel,
      by decide +kernel, by decide +kernel⟩,
   ⟨hostReq5, state0, ⟨by decide +kernel, by decide +kernel, by decide +kernel⟩, by decide +kernel, by decide +kernel, by decide +kernel,
      by decide +kernel, by decide +kernel, by decide +kernel, by decide +kernel, by decide +kernel⟩,
   ⟨hostReq0, state0, ⟨by decide +kernel, by decide +kernel, by decide +kernel⟩, by decide +kernel, by decide +kernel, by decide +kernel,
      by decide +kernel, by decide +kernel, by decide +kernel, by decide +kernel, by decide +kernel⟩,
   ⟨hostReq2, state0, ⟨by decide +kernel, by decide +kernel, by decide +kernel⟩, by decide +kernel, by decide +kernel, by decide +kernel, 36864,
      ⟨by decide +kernel, by decide +kernel, by decide +kernel, by decide +kernel⟩⟩,
   ⟨hostReq6, state0, ⟨by decide +kernel, by decide +kernel, by decide +kernel⟩, by decide +kernel, by decide +kernel, by decide +kernel, pa4_0, pb4_1,
      by decide +kernel, by decide +kernel, by decide +kernel, by decide +kernel, by decide +kernel, by decide +kernel⟩,
   ⟨hostReq2, state10, ⟨by decide +kernel, by decide +kernel, by decide +kernel⟩, by decide +kernel, by decide +kernel, by decide +kernel,
      by decide +kernel, by decide +kernel, by decide +kernel, by decide +kernel, by decide +kernel⟩,
   ⟨hostReq0, state1, ⟨by decide +kernel, by decide +kernel, by decide +kernel⟩, by decide +kernel⟩,
   ⟨hostReq0, state1, ⟨by decide +kernel, by decide +kernel, by decide +kernel⟩, by decide +kernel⟩,
   ⟨hostReq0, state0, ⟨by decide +kernel, by decide +kernel, by decide +kernel⟩, by decide +kernel, by decide +kernel, by decide +kernel,
      by decide +kernel⟩,
   ⟨hostReq9, state0, ⟨by decide +kernel, by decide +kernel, by decide +kernel⟩, by decide +kernel, by decide +kernel, by decide +kernel,
      by decide +kernel, by decide +kernel, by decide +kernel⟩,
   ⟨hostReq2, state0, ⟨by decide +kernel, by decide +kernel, by decide +kernel⟩, by decide +kernel, by decide +kernel, by decide +kernel, 36864,
      ⟨by decide +kernel, by decide +kernel, by decide +kernel, by decide +kernel⟩⟩,
   ⟨hostReq2, state0, ⟨by decide +kernel, by decide +kernel, by decide +kernel⟩, by decide +kernel, 36864, ⟨by decide +kernel, by decide +kernel,
      by decide +kernel, by decide +kernel⟩, by decide +kernel, by decide +kernel, by decide +kernel⟩⟩
theorem wit_HostAccesses_2 :
    (∃ id : Nat, ∃ part : Nat, ∃ s : State, ∃ w : InWrite, ∃ q : WritePart, ((s.port.inWrites.find? fun w => w.id = id) = some w) ∧
      w.parts[part]? = some q ∧
      let holds (e : InWrite) : Prop := e.fn = w.fn ∧ e.requester = w.requester ∧ e.id < w.id ∧ ∃ x ∈ e.parts, (x.route = q.route ∧ x.released = none) ∨ (x.route ≠ q.route ∧ x.acked = false);
      w.relaxed = false ∧ (∃ e ∈ s.port.inWrites, holds e)) ∧
    (∃ id : Nat, ∃ part : Nat, ∃ s : State, ∃ w : InWrite, ∃ q : WritePart, ((s.port.inWrites.find? fun w => w.id = id) = some w) ∧
      w.parts[part]? = some q ∧
      let holds (e : InWrite) : Prop := e.fn = w.fn ∧ e.requester = w.requester ∧ e.id < w.id ∧ ∃ x ∈ e.parts, (x.route = q.route ∧ x.released = none) ∨ (x.route ≠ q.route ∧ x.acked = false);
      q.released = none ∧ (w.relaxed = true ∨ (∀ e ∈ s.port.inWrites, ¬ holds e))) ∧
    (∃ id : Nat, ∃ part : Nat, ∃ s : State, ∃ w : InWrite, ∃ q : WritePart, ((s.port.inWrites.find? fun w => w.id = id) = some w) ∧
      w.parts[part]? = some q ∧ ∃ n, q.released = some n ∧ q.acked = false ∧ (∀ e ∈ s.port.inWrites, ∀ x ∈ e.parts, ∀ m,
      x.route = q.route → x.acked = false → x.released = some m → n ≤ m) ∧ let n := q.bytes.length; q.reg = none ∧ n ≠ 0) ∧
    (∃ id : Nat, ∃ part : Nat, ∃ s : State, ∃ w : InWrite, ∃ q : WritePart, ((s.port.inWrites.find? fun w => w.id = id) = some w) ∧
      w.parts[part]? = some q ∧ ∃ n, q.released = some n ∧ q.acked = false ∧ (∀ e ∈ s.port.inWrites, ∀ x ∈ e.parts, ∀ m,
      x.route = q.route → x.acked = false → x.released = some m → n ≤ m) ∧ q.route = 4 ∧ w.poisoned = false ∧ q.poison = [] ∧ w.fn = 8 ∧ q.reg = some 0x100) ∧
    (∃ id : Nat, ∃ part : Nat, ∃ s : State, ∃ w : InWrite, ∃ q : WritePart, ((s.port.inWrites.find? fun w => w.id = id) = some w) ∧
      w.parts[part]? = some q ∧ ∃ n, q.released = some n ∧ q.acked = false ∧ (∀ e ∈ s.port.inWrites, ∀ x ∈ e.parts, ∀ m,
      x.route = q.route → x.acked = false → x.released = some m → n ≤ m) ∧ q.route = 4 ∧ w.poisoned = false ∧ q.poison = [] ∧ w.fn < 8 ∧ q.reg = some 0 ∧
      s.port.pba = [] ∧ ∃ v, q.bytes = bytesOf v 4) ∧
    (∃ id : Nat, ∃ part : Nat, ∃ s : State, ∃ w : InWrite, ∃ q : WritePart, ((s.port.inWrites.find? fun w => w.id = id) = some w) ∧
      w.parts[part]? = some q ∧ ∃ n, q.released = some n ∧ q.acked = false ∧ (∀ e ∈ s.port.inWrites, ∀ x ∈ e.parts, ∀ m,
      x.route = q.route → x.acked = false → x.released = some m → n ≤ m) ∧ let n := q.bytes.length; ∃ off, q.route ≠ 4 ∧ q.reg = some off ∧ w.fn < 8 ∧
      0x2000 ≤ off ∧ off + n ≤ 0x3000) ∧
    (∃ id : Nat, ∃ s : State, ∃ f : Flight, s.flight? id = some f ∧ ∃ status : Nat, ∃ data : List Byte, s.port.up = true ∧ s.linkOpen f.part = true ∧
      f.waitsFlush = false ∧ s.wentOut f = true ∧ status ≠ 0 ∧ status < 8) ∧
    (∃ id : Nat, ∃ s : State, ∃ f : Flight, s.flight? id = some f ∧ ∃ status : Nat, ∃ data : List Byte, ∃ poison : Bool, s.port.up = true ∧
      sget (0 : BitVec 256) s.port.ideKeys f.part ≠ 0 ∧ sget false s.port.insecure f.part = true) ∧
    (∃ id : Nat, ∃ s : State, ∃ f : Flight, s.flight? id = some f ∧ ∃ status : Nat, ∃ data : List Byte, ∃ poison : Bool, s.port.up = true ∧
      sget (0 : BitVec 256) s.port.ideKeys f.part ≠ 0 ∧ sget false s.port.insecure f.part = false ∧ 8 ≤ status) ∧
    (∃ id : Nat, ∃ s : State, ∃ f : Flight, s.flight? id = some f ∧ ∃ data : List Byte, ∃ a, s.port.up = true ∧ s.linkOpen f.part = true ∧
      f.waitsFlush = false ∧ s.wentOut f = true ∧ data.length = f.width ∧ f.place = .host a ∧ f.kind = .load ∧ f.flag = none ∧ f.returned = false) ∧
    (∃ id : Nat, ∃ s : State, ∃ f : Flight, s.flight? id = some f ∧ f.waitsFlush = false ∧ s.wentOut f = true) ∧
    (∃ id : Nat, ∃ s : State, ∃ f : Flight, s.flight? id = some f ∧ f.waitsFlush = true ∧ ∃ c, ∃ T, f.chan = some c ∧ c < 16 ∧
      s.team? f.who.group.stream = some T) :=
  ⟨⟨4, 0, state11, w1, ((w1.parts[0]?).getD default), by decide +kernel, by decide +kernel, by decide +kernel, by decide +kernel⟩,
   ⟨4, 0, state1, w1, ((w1.parts[0]?).getD default), by decide +kernel, by decide +kernel, by decide +kernel, by decide +kernel⟩,
   ⟨4, 0, state2, w2, ((w2.parts[0]?).getD default), by decide +kernel, by decide +kernel, n14_2, by decide +kernel, by decide +kernel,
      released_of (by decide +kernel), by decide +kernel, by decide +kernel⟩,
   ⟨4, 0, state4, w4, ((w4.parts[0]?).getD default), by decide +kernel, by decide +kernel, n15_3, by decide +kernel, by decide +kernel,
      released_of (by decide +kernel), by decide +kernel, by decide +kernel, by decide +kernel, by decide +kernel, by decide +kernel⟩,
   ⟨4, 0, state5, w5, ((w5.parts[0]?).getD default), by decide +kernel, by decide +kernel, n16_4, by decide +kernel, by decide +kernel,
      released_of (by decide +kernel), by decide +kernel, by decide +kernel, by decide +kernel, by decide +kernel, by decide +kernel, by decide +kernel, 3,
      by decide +kernel⟩,
   ⟨4, 0, state8, w8, ((w8.parts[0]?).getD default), by decide +kernel, by decide +kernel, n17_5, by decide +kernel, by decide +kernel,
      released_of (by decide +kernel), off17_6, by decide +kernel, by decide +kernel, by decide +kernel, by decide +kernel, by decide +kernel⟩,
   ⟨3, state21, ((state21.flight? 3).getD default), by decide +kernel, 1, [1,2,3,4], by decide +kernel, by decide +kernel, by decide +kernel,
      by decide +kernel, by decide +kernel, by decide +kernel⟩,
   ⟨3, state25, ((state25.flight? 3).getD default), by decide +kernel, 8, [1,2,3,4], false, by decide +kernel, by decide +kernel, by decide +kernel⟩,
   ⟨3, state24, ((state24.flight? 3).getD default), by decide +kernel, 8, [1,2,3,4], false, by decide +kernel, by decide +kernel, by decide +kernel,
      by decide +kernel⟩,
   ⟨3, state21, ((state21.flight? 3).getD default), by decide +kernel, [1,2,3,4], a21_7, by decide +kernel, by decide +kernel, by decide +kernel,
      by decide +kernel, by decide +kernel, by decide +kernel, by decide +kernel, by decide +kernel, by decide +kernel⟩,
   ⟨3, state21, ((state21.flight? 3).getD default), by decide +kernel, by decide +kernel, by decide +kernel⟩,
   ⟨3, state23, ((state23.flight? 3).getD default), by decide +kernel, by decide +kernel, c23_8, T23_9, by decide +kernel, by decide +kernel,
      by decide +kernel⟩⟩
end WHostAccesses

namespace WHostRegisters
def sa : State := { stateA with parts := [(0, { partA with wbase := 0, k := 30, queues := [(3, 5)] }), (2, { partA with created := true, queues := [(3, BitVec.ofNat 512 (2^512-1))], queuePoison := [(6,true)] })], port := { up := true }, plat := { bootStatus := 0x10 } }
def desc (c : Nat) (a : Nat) (s : State) : State := { s with mem := s.mem.writeHost a 1 c }
def out1 (pf : Bool) : Flight := { id := 3, serial := 5, who := u0, part := 0, place := .host 0x4000, kind := .load, width := 4, dst := some 6, nregs := 1, performed := pf, rtag := some 1 }
def sts : List State := [sa, { sa with port := { sa.port with ideKeys := [(0,5),(8,9)] } }, desc 5 0x40 sa, desc 0x14 0x40 sa, desc 0x15 0x40 sa, desc 5 0x40 { sa with plat := { sa.plat with busy := true } }, { sa with port := { sa.port with ideKeys := [(0, 5)], insecure := [(0,true)], up := true } }, { sa with port := {} }, { sa with flights := [out1 true, { out1 false with id := 9, kind := .store, rtag := none, performed := true, done := 2 }], port := { sa.port with posted := [.access 3, .access 9] } }, { sa with flights := [out1 false] , port := { sa.port with posted := [.access 3] }}, { sa with port := { sa.port with msixTable := [(2^16+5, 9)] } }, { sa with flights := [{ out1 false with rtag := none, kind := .atom 0 }, { out1 true with id := 4, place := .dram 77 }], port := { sa.port with posted := [.access 3], inWrites := [{ id := 4, fn := 0, parts := [{ route := 0, pa := 0x9000, bytes := [1] }] }] }, teams := [teamA] }]
def state0 : State := ((sts)[0]?.getD default)
def state1 : State := ((sts)[1]?.getD default)
def regWrite1 : RegWrite := ⟨0, 0x2040, [1,2], false⟩

theorem wit_HostRegisters :
    (∃ s : State, s.registersFree 8 = true ∧ s.fnAnswers 8 = true) ∧
    (∃ s : State, ∃ vf : Nat, ∃ i : Nat, ∃ b : Byte, s.port.up = true ∧ s.linkOpen vf = true ∧ s.fnAnswers vf = true ∧ vf < 8 ∧ i < 4096 ∧
      s.stagedBytes < 8 * 2 ^ 20) ∧
    (∃ s : State, ∃ w : RegWrite, s.port.up = true ∧ sget (0 : BitVec 256) s.port.ideKeys w.fn ≠ 0 ∧ sget false s.port.insecure w.fn = false ∧
      w.ideOk = false) ∧
    (∃ s : State, ∃ vf : Nat, ∃ i : Nat, ∃ b : Byte, s.registersFree vf = true ∧ s.fnAnswers vf = true ∧ vf < 8 ∧ i < 16 * 2048 ∧ s.port.pba = []) ∧
    (∃ s : State, s.port.up = true ∧ s.flights = []) ∧
    (∃ s : State, s.plat.bootStatus = 0x10) :=
  ⟨⟨state0, by decide +kernel, by decide +kernel⟩,
   ⟨state0, 0, 0, 0, by decide +kernel, by decide +kernel, by decide +kernel, by decide +kernel, by decide +kernel, by decide +kernel⟩,
   ⟨state1, regWrite1, by decide +kernel, by decide +kernel, by decide +kernel, by decide +kernel⟩,
   ⟨state0, 0, 0, 0, by decide +kernel, by decide +kernel, by decide +kernel, by decide +kernel, by decide +kernel⟩,
   ⟨state0, by decide +kernel, by decide +kernel⟩,
   ⟨state0, by decide +kernel⟩⟩
end WHostRegisters

namespace WMArgs
def cmd (code d : Nat) (s : State) : State := { s with plat := { s.plat with pending := some (code, 0x40), busy := true }, mem := s.mem.writeHost 0x40 64 (code + d) }
def m0 : State := { stateA with port := { up := true }, plat := { bootStatus := 0x10 }, parts := [] }

theorem wit_ManagementArguments :
    (∃ s : State, ∃ desc : DWord, s.plat.pending ≠ some (1, desc)) ∧
    (∃ s : State, ∃ desc : DWord, s.plat.pending = some (1, desc) ∧ s.port.up = true ∧ s.linkOpen 8 = true ∧
      ∃ b, 64 ≤ b ∧ b < 448 ∧ (s.mem.readHost desc.toNat 64).testBit b = true ∧ ∀ r ∈ [(64, 64)], b < r.1 ∨ r.1 + r.2 ≤ b) ∧
    (∃ s : State, ∃ desc : DWord, s.plat.pending = some (20, desc) ∧ s.port.up = true ∧ s.linkOpen 8 = true ∧
      ∃ b, 64 ≤ b ∧ b < 448 ∧ (s.mem.readHost desc.toNat 64).testBit b = true ∧
        ∀ r ∈ [(64, 4), (72, 1), (96, 160)], b < r.1 ∨ r.1 + r.2 ≤ b) :=
  ⟨⟨m0, 0x40, by decide +kernel⟩,
   ⟨cmd 1 (2 ^ 447) m0, 0x40, by decide +kernel, by decide +kernel, by decide +kernel, 447, by decide +kernel, by decide +kernel, by decide +kernel, by decide +kernel⟩,
   ⟨cmd 20 (2 ^ 68) m0, 0x40, by decide +kernel, by decide +kernel, by decide +kernel, 68, by decide +kernel, by decide +kernel, by decide +kernel, by decide +kernel⟩⟩
end WMArgs

namespace WManagementPartitions
def cmd (code d : Nat) (s : State) : State := { s with plat := { s.plat with pending := some (code, 0x40), busy := true }, mem := s.mem.writeHost 0x40 64 (code + d) }
def m0 : State := { stateA with port := { up := true }, plat := { bootStatus := 0x10 }, parts := [] }
def blk (cores dram pool wbase tick k dom : Nat) : Nat := cores + dram * 2^256 + pool * 2^320 + wbase * 2^384 + tick * 2^448 + k * 2^456 + dom * 2^512
def setup (b : Nat) (s : State) : State := { s with mem := (s.mem.writeHost 0x1000 128 b).writeHost 0x3000 1024 (1 + 0xFFFF * 2^48) }
def b1 := blk 6 (2^32) (3*65536) 0x3000000 1 30 0x3000
def grd : Grid := { id := 9, bundle := 7, queue := 3, reserved := [{ unit := 1, pilot := 0, rooms := [{ core := 1 }] }, { unit := 2, pilot := 2, rooms := [{ core := 3 }] }] }
def p2 : Partition := { partA with cores := 0xF, k := 30, pool := 3*65536, wbase := 0, gates := [(1, 5)], queues := [(3, BitVec.ofNat 512 (0x10000 + 2^128 + 8 * 2^160 + 6 * 2^192 + 5 * 2^224)), (4, 77)], claimed := [{ queue := 3, head := 5, core := 0, slots := [1] }, { queue := 3, head := 4, core := 1, slots := [1], started := true, bundle := some 7 }, { queue := 4, head := 9, core := 1 }, { queue := 4, head := 8, core := 0, started := true }], bundles := [{ id := 7, queue := 3 }, { id := 8, queue := 4 }], grids := [grd, { grd with id := 10, bundle := 8, queue := 4 }], halt := { seq := 4 } }
def w2 (s : State) : State := { s with parts := [(0, p2), (1, { partA with cores := 0xF0 })], cores := [(0, {pilot := true}), (1, {pilot := true}), (2, { pilot := false })], groups := [pilotOf 0, pilotOf 1] }
def tm1 (st : TState) (g : Nat) : Team := { teamA with stream := 6, st := st, grid := g, core := 1, part := 0 }
def grp6 : Group := { key := ⟨6, 0⟩, core := 1, units := [{ mask := 1, id := 0 }] }
def tms (s : State) (ts : List Team) : State := { s with team := { s.team with part := 3 }, teams := ts, groups := s.groups ++ [grp6] }
def w3 (s : State) : State := tms (w2 s) [tm1 .admitted 9]
def m3 : State := { m0 with plat := { m0.plat with m1 := 1 } }
def cp (part : Nat) := 0x1000 * 2^64 + part * 256
def cq (q pr slots base : Nat) : Nat := q * 2^64 + pr * 2^72 + slots * 2^96 + base * 2^128
def sts : List State := [setup b1 (cmd 1 (cp 0) m0), setup b1 (cmd 1 (cp 0) (w2 m0)), setup (blk 0x10 (2^32) (3*65536) 0 0 30 0x3000) (cmd 1 (cp 3) (w2 m0)), setup (blk 0x800 (2^32) (3*65536) 0 0 31 0x3000) (cmd 1 (cp 3) (w2 m0)), cmd 2 0 m0, cmd 2 0 (w2 m0), cmd 2 0 (w3 m0), cmd 2 256 (w2 m0),
  cmd 3 (cq 5 2 8 0x40000) (w2 m0), cmd 3 (cq 5 2 9 0x40000) (w2 m0), cmd 3 (cq 5 2 8 0x40040) (w2 m0), cmd 3 (cq 63 3 (2^20) 0x10000) (w2 m0), cmd 4 0 (w2 m0), cmd 4 0 (w3 m0), cmd 4 0 (tms (w2 m0) [tm1 .saved 9]), cmd 4 0 (tms (w2 m0) [tm1 .retiring 9, { tm1 .admitted 9 with stream := 9 }]),
  cmd 0xD (3*2^64) (w2 m0), cmd 0xD (3*2^64) (w3 m0), cmd 0xD (5*2^64) (w2 m0), cmd 0xD (4*2^64) (w2 m0), cmd 0xE (3*2^64) (w2 m0), cmd 0xE (3*2^64) (w2 m3), cmd 0xE (0xF*2^64) (w3 m0), cmd 0xE (8*2^64) (w3 m0), cmd 0xE (8*2^64) (w3 m3), { cmd 0xE (1*2^64) (w3 m3) with health := { fenced := [(0,true)] } },
  cmd 0xF 0 (w2 m0), cmd 0xF 0 (w3 m0), cmd 0xF 0 (tms (w2 m0) [tm1 .saved 9])]
def state1 : State := ((sts)[1]?.getD default)
def state2 : State := ((sts)[2]?.getD default)
def state0 : State := ((sts)[0]?.getD default)
def state4 : State := ((sts)[4]?.getD default)
def state5 : State := ((sts)[5]?.getD default)
def state9 : State := ((sts)[9]?.getD default)
def state8 : State := ((sts)[8]?.getD default)
def state14 : State := ((sts)[14]?.getD default)
def state12 : State := ((sts)[12]?.getD default)
def state16 : State := ((sts)[16]?.getD default)
def state20 : State := ((sts)[20]?.getD default)
def state26 : State := ((sts)[26]?.getD default)

theorem wit_ManagementPartitions :
    (∃ desc : DWord, ∃ s : State, ∃ d : Nat, let part := d / 2 ^ 8 % 8; let p := s.part part; s.Runs 1 desc [(64, 64)] d ∧ p.created = true) ∧
    (∃ desc : DWord, ∃ s : State, ∃ d : Nat, let part := d / 2 ^ 8 % 8; let p := s.part part; let block := s.mem.readHost (d / 2 ^ 64 % 2 ^ 64) 128;
      let records := (List.range 16).map fun i => (i, BitVec.ofNat 512 (s.mem.readHost (block / 2 ^ 512 + 64 * i) 64));
      let blockFine : Prop := block / 2 ^ 512 < 2 ^ 64 ∧ blockOk block = true ∧ (∀ r ∈ records, domainOk r.2.toNat = true) ∧ domValid (BitVec.ofNat 512 (s.mem.readHost (block / 2 ^ 512) 64)) = true;
      s.Runs 1 desc [(64, 64)] d ∧ p.created = false ∧ blockFine ∧ s.coreTaken part (block % 2 ^ 256) = true) ∧
    (∃ desc : DWord, ∃ s : State, ∃ d : Nat, let part := d / 2 ^ 8 % 8; let p := s.part part; let block := s.mem.readHost (d / 2 ^ 64 % 2 ^ 64) 128;
      let records := (List.range 16).map fun i => (i, BitVec.ofNat 512 (s.mem.readHost (block / 2 ^ 512 + 64 * i) 64));
      let blockFine : Prop := block / 2 ^ 512 < 2 ^ 64 ∧ blockOk block = true ∧ (∀ r ∈ records, domainOk r.2.toNat = true) ∧ domValid (BitVec.ofNat 512 (s.mem.readHost (block / 2 ^ 512) 64)) = true;
      s.Runs 1 desc [(64, 64)] d ∧ p.created = false ∧ blockFine ∧ s.coreTaken part (block % 2 ^ 256) = false ∧ s.makePartition part d block records ≠ none) ∧
    (∃ desc : DWord, ∃ s : State, ∃ d : Nat, let part := d / 2 ^ 8 % 8; let p := s.part part; s.Runs 2 desc [] d ∧ p.created = false) ∧
    (∃ desc : DWord, ∃ s : State, ∃ d : Nat, let part := d / 2 ^ 8 % 8; let p := s.part part; s.Runs 2 desc [] d ∧ p.created = true ∧ s.flights = [] ∧
      s.port.inWrites = []) ∧
    (∃ desc : DWord, ∃ s : State, ∃ d : Nat, let part := d / 2 ^ 8 % 8; let p := s.part part; let q := d / 2 ^ 64 % 64; s.Runs 3 desc [(64, 6), (72, 2),
      (96, 96)] d ∧ p.created = true ∧ qEnable (s.queue part q) = false ∧ let slots := d / 2 ^ 96 % 2 ^ 32; let base := d / 2 ^ 128 % 2 ^ 64; ((∀ i,
      i < 18 → slots ≠ 8 * 2 ^ i) ∨ base % 4096 ≠ 0)) ∧
    (∃ desc : DWord, ∃ s : State, ∃ d : Nat, let part := d / 2 ^ 8 % 8; let p := s.part part; let q := d / 2 ^ 64 % 64; s.Runs 3 desc [(64, 6), (72, 2),
      (96, 96)] d ∧ p.created = true ∧ qEnable (s.queue part q) = false ∧ let slots := d / 2 ^ 96 % 2 ^ 32; let base := d / 2 ^ 128 % 2 ^ 64; ∃ i, i < 18 ∧
      slots = 8 * 2 ^ i ∧ base % 4096 = 0 ∧ base + 64 * slots ≤ 2 ^ 57 ∧ (∀ a,
      base / 65536 * 65536 ≤ a → a < base + 64 * slots → s.pinnedAt part 0 a = true)) ∧
    (∃ desc : DWord, ∃ s : State, ∃ d : Nat, let part := d / 2 ^ 8 % 8; let p := s.part part; s.Runs 4 desc [] d ∧ p.created = true ∧ p.halt.state = 0 ∧
      (∀ T ∈ s.allTeams, T.part = part → T.st ≠ .admitted ∧ T.st ≠ .saving)) ∧
    (∃ desc : DWord, ∃ s : State, ∃ d : Nat, let part := d / 2 ^ 8 % 8; let p := s.part part; s.Runs 4 desc [] d ∧ p.created = true ∧ p.halt.state = 0 ∧
      s.plat.begun = false ∧ (∃ T ∈ s.allTeams, T.part = part ∧ s.canPreempt T = true)) ∧
    (∃ desc : DWord, ∃ s : State, ∃ d : Nat, let part := d / 2 ^ 8 % 8; let p := s.part part; s.Runs 0x0D desc [(64, 6)] d ∧ p.created = true) ∧
    (∃ desc : DWord, ∃ s : State, ∃ d : Nat, let part := d / 2 ^ 8 % 8; let p := s.part part; s.Runs 0x0E desc [(64, 256)] d ∧ p.created = true ∧
      (BitVec.ofNat 256 (d / 2 ^ 64) &&& ~~~ p.cores) = 0) ∧
    (∃ desc : DWord, ∃ s : State, ∃ d : Nat, let part := d / 2 ^ 8 % 8; let p := s.part part; s.Runs 0x0F desc [] d ∧ p.created = true) :=
  ⟨⟨64, state1, 75557863725914323419137, runs_of (by decide +kernel) (by decide +kernel) (by decide +kernel) (by decide +kernel) (by decide +kernel),
      by decide +kernel⟩,
   ⟨64, state2, 75557863725914323419905, runs_of (by decide +kernel) (by decide +kernel) (by decide +kernel) (by decide +kernel) (by decide +kernel),
      by decide +kernel, by decide +kernel, by decide +kernel⟩,
   ⟨64, state0, 75557863725914323419137, runs_of (by decide +kernel) (by decide +kernel) (by decide +kernel) (by decide +kernel) (by decide +kernel),
      by decide +kernel, by decide +kernel, by decide +kernel, by decide +kernel⟩,
   ⟨64, state4, 2, runs_of (by decide +kernel) (by decide +kernel) (by decide +kernel) (by decide +kernel) (by decide +kernel), by decide +kernel⟩,
   ⟨64, state5, 2, runs_of (by decide +kernel) (by decide +kernel) (by decide +kernel) (by decide +kernel) (by decide +kernel), by decide +kernel,
      by decide +kernel, by decide +kernel⟩,
   ⟨64, state9, 89202980794123205619615038436317895757660163,
      runs_of (by decide +kernel) (by decide +kernel) (by decide +kernel) (by decide +kernel) (by decide +kernel), by decide +kernel, by decide +kernel,
      by decide +kernel⟩,
   ⟨64, state8, 89202980794123126391452524171980302213709827,
      runs_of (by decide +kernel) (by decide +kernel) (by decide +kernel) (by decide +kernel) (by decide +kernel), by decide +kernel, by decide +kernel, 0,
      by decide +kernel, by decide +kernel, by decide +kernel, by decide +kernel, between_of (by decide +kernel)⟩,
   ⟨64, state14, 4, runs_of (by decide +kernel) (by decide +kernel) (by decide +kernel) (by decide +kernel) (by decide +kernel), by decide +kernel,
      by decide +kernel, by decide +kernel⟩,
   ⟨64, state12, 4, runs_of (by decide +kernel) (by decide +kernel) (by decide +kernel) (by decide +kernel) (by decide +kernel), by decide +kernel,
      by decide +kernel, by decide +kernel, by decide +kernel⟩,
   ⟨64, state16, 55340232221128654861, runs_of (by decide +kernel) (by decide +kernel) (by decide +kernel) (by decide +kernel) (by decide +kernel),
      by decide +kernel⟩,
   ⟨64, state20, 55340232221128654862, runs_of (by decide +kernel) (by decide +kernel) (by decide +kernel) (by decide +kernel) (by decide +kernel),
      by decide +kernel, by decide +kernel⟩,
   ⟨64, state26, 15, runs_of (by decide +kernel) (by decide +kernel) (by decide +kernel) (by decide +kernel) (by decide +kernel), by decide +kernel⟩⟩
end WManagementPartitions

theorem target_of {s : State} {part dom va : Nat} (h : (match s.translate part dom va with | .ok ph => decide (ph.target ≠ 0) | .error _ => true) = true) :
    ∀ ph, s.translate part dom va = .ok ph → ph.target ≠ 0 := fun ph e => by
  rw [e] at h; simpa using h
namespace WManagementTables
def cmd (code d : Nat) (s : State) : State := { s with plat := { s.plat with pending := some (code, 0x40), busy := true }, mem := s.mem.writeHost 0x40 64 (code + d) }
def m0 : State := { stateA with port := { up := true }, plat := { bootStatus := 0x10 }, parts := [] }
def grd : Grid := { id := 9, bundle := 7, queue := 3, reserved := [{ unit := 1, pilot := 0, rooms := [{ core := 1 }] }, { unit := 2, pilot := 2, rooms := [{ core := 3 }] }] }
def p2 : Partition := { partA with cores := 0xF, k := 30, pool := 3*65536, wbase := 0, gates := [(1, 5)], queues := [(3, BitVec.ofNat 512 (0x10000 + 2^128 + 8 * 2^160 + 6 * 2^192 + 5 * 2^224)), (4, 77)], claimed := [{ queue := 3, head := 5, core := 0, slots := [1] }, { queue := 3, head := 4, core := 1, slots := [1], started := true, bundle := some 7 }, { queue := 4, head := 9, core := 1 }, { queue := 4, head := 8, core := 0, started := true }], bundles := [{ id := 7, queue := 3 }, { id := 8, queue := 4 }], grids := [grd, { grd with id := 10, bundle := 8, queue := 4 }], halt := { seq := 4 } }
def w2 (s : State) : State := { s with parts := [(0, p2), (1, { partA with cores := 0xF0 })], cores := [(0, {pilot := true}), (1, {pilot := true}), (2, { pilot := false })], groups := [pilotOf 0, pilotOf 1] }
def c64 (code d : Nat) : State := cmd code d (w2 m0)
def hw (a n x : Nat) (s : State) : State := { s with mem := s.mem.writeHost a n x }
def dcp (dom dir len va host : Nat) : Nat := dom * 2^64 + dir * 2^72 + len * 2^96 + va * 2^128 + host * 2^192
def mtr : State := { w2 m0 with mem := (w2 m0).mem.writeDram 0x10000 16 0x112233445566778899AA false }
def sts : List State := [c64 5 (1 * 2^64 + 5 * 2^128), c64 5 (9 * 2^64 + (2^127 + 0x8000) * 2^128), c64 6 (1 * 2^64 + 5 * 2^128), c64 6 (2 * 2^64 + (2^127 + 5 * 2^94 + 0x10000) * 2^128), c64 7 (3 * 2^64 + (2^127+ 0xFFFF) * 2^128),
  { c64 7 (3 * 2^64) with iod := { peers := [(3, { entry := 5, lost := true, epoch := 3 })] } }, hw 0x5000 144 0x123456789 (c64 8 (2 * 2^64 + 0x5000 * 2^128)), c64 9 (3 * 2^64), { c64 9 (3 * 2^64) with iod := { peers := [(3, { entry := BitVec.ofNat 128 (2^127+0xFFFF) })] } , plat := { (c64 9 0).plat with bootStatus := 0x10, trust := [(0, some (0,0,0))] }}, 
  c64 0xA (0x5000 * 2^64 + 77 * 2^128), c64 0xA (256 * 7 + 0x5000 * 2^64 + 77 * 2^128), c64 0xB (0x5000 * 2^64 + 100 * 2^128), c64 0xB (0x5000 * 2^64 + 3 * 2^128), c64 0xC (0x5000 * 2^64), { c64 0xC (0x5000 * 2^64 + 2^128) with health := { counters := [(3, 9)] } }, c64 0x11 (0x5000 * 2^64), { c64 0x11 (0x5000 * 2^64 + 2^128) with iod := { lanes := [(3, { up := true, tagFail := 3, replays := 9, downs := 1, refused := 5 })] } }, c64 0x12 (0x5000 * 2^64), hw 0x5000 64 (0x43464744 + 2^32) (c64 0x13 (0x5000 * 2^64)), hw 0x5000 64 (2^512-1) (c64 0x13 (0x5000 * 2^64)), c64 0x10 0, cmd 0x10 0 mtr,
  cmd 0x14 (dcp 0 1 16 0x10000 0x5000) mtr, hw 0x5000 16 0xFFEEDDCCBBAA9988 (cmd 0x14 (dcp 0 0 12 0x10004 0x5000) mtr), cmd 0x14 (dcp 0 0 12 (2^30) 0x5000) mtr, cmd 0x14 (dcp 0 1 12 (2^32) 0x5000) mtr, cmd 0x14 (dcp 3 1 12 0x10000 0x5000) mtr]
def state0 : State := ((sts)[0]?.getD default)
def state2 : State := ((sts)[2]?.getD default)
def state4 : State := ((sts)[4]?.getD default)
def state6 : State := ((sts)[6]?.getD default)
def state8 : State := ((sts)[8]?.getD default)
def state7 : State := ((sts)[7]?.getD default)
def state9 : State := ((sts)[9]?.getD default)
def state14 : State := ((sts)[14]?.getD default)
def state16 : State := ((sts)[16]?.getD default)
def state17 : State := ((sts)[17]?.getD default)
def state18 : State := ((sts)[18]?.getD default)
def state20 : State := ((sts)[20]?.getD default)
def state22 : State := ((sts)[22]?.getD default)
def ph14_0 := (match state22.translate (128555043540719222065657712585824898993916908371156154678509588 / 2 ^ 8 % 8) (128555043540719222065657712585824898993916908371156154678509588 / 2 ^ 64 % 16) (128555043540719222065657712585824898993916908371156154678509588 / 2 ^ 128 % 2 ^ 64) with | .ok ph => ph | _ => default)
def state23 : State := ((sts)[23]?.getD default)
def ph15_1 := (match state23.translate (128555043540719222065659073715292265835115982445752637930340372 / 2 ^ 8 % 8) (128555043540719222065659073715292265835115982445752637930340372 / 2 ^ 64 % 16) (128555043540719222065659073715292265835115982445752637930340372 / 2 ^ 128 % 2 ^ 64) with | .ok ph => ph | _ => default)

theorem wit_ManagementTables_1 :
    (∃ desc : DWord, ∃ s : State, ∃ d : Nat, let part := d / 2 ^ 8 % 8; let entry := d / 2 ^ 128 % 2 ^ 128; s.Runs 5 desc [(64, 8), (128, 128)] d ∧
      (s.part part).created = true ∧ entry / 2 ^ 120 % 32 = 0 ∧ entry / 2 ^ 59 % 8 = 0) ∧
    (∃ desc : DWord, ∃ s : State, ∃ d : Nat, let entry := d / 2 ^ 128 % 2 ^ 128; s.Runs 6 desc [(64, 6), (128, 128)] d ∧ entry / 2 ^ 57 % 2 ^ 37 = 0 ∧
      (entry.testBit 127 = true → sgSize entry ≠ 0 ∧ sgBase entry % 65536 = 0)) ∧
    (∃ desc : DWord, ∃ s : State, ∃ d : Nat, let entry := d / 2 ^ 128 % 2 ^ 128; s.Runs 7 desc [(64, 10), (128, 128)] d ∧ entry / 2 ^ 124 % 4 = 0 ∧
      entry / 2 ^ 64 % 2 ^ 24 = 0) ∧
    (∃ desc : DWord, ∃ s : State, ∃ d : Nat, s.Runs 8 desc [(64, 4), (128, 64)] d) ∧
    (∃ desc : DWord, ∃ s : State, ∃ d : Nat, s.Runs 9 desc [(64, 10)] d ∧ let n := d / 2 ^ 64 % 1024; s.canShake n = true) ∧
    (∃ desc : DWord, ∃ s : State, ∃ d : Nat, s.Runs 9 desc [(64, 10)] d ∧ let n := d / 2 ^ 64 % 1024; s.canShake n = false) ∧
    (∃ desc : DWord, ∃ s : State, ∃ d : Nat, let part := d / 2 ^ 8 % 8; s.Runs 0x0A desc [(64, 320)] d ∧ ((s.part part).created = true ∨ part = 0)) ∧
    (∃ desc : DWord, ∃ s : State, ∃ d : Nat, s.Runs 0x0C desc [(64, 64), (128, 1)] d ∧ d.testBit 128 = true) ∧
    (∃ desc : DWord, ∃ s : State, ∃ d : Nat, s.Runs 0x11 desc [(64, 64), (128, 1)] d ∧ d.testBit 128 = true) ∧
    (∃ desc : DWord, ∃ s : State, ∃ d : Nat, s.Runs 0x12 desc [(64, 64)] d) :=
  ⟨⟨64, state0, 1701411834604692317335319781232550608901,
      runs_of (by decide +kernel) (by decide +kernel) (by decide +kernel) (by decide +kernel) (by decide +kernel), by decide +kernel, by decide +kernel,
      by decide +kernel⟩,
   ⟨64, state2, 1701411834604692317335319781232550608902,
      runs_of (by decide +kernel) (by decide +kernel) (by decide +kernel) (by decide +kernel) (by decide +kernel), by decide +kernel, by decide +kernel⟩,
   ⟨64, state4, 57896044618658097711785492504343976227039908496522485092039030277107431243783,
      runs_of (by decide +kernel) (by decide +kernel) (by decide +kernel) (by decide +kernel) (by decide +kernel), by decide +kernel, by decide +kernel⟩,
   ⟨64, state6, 6968982874540819731729948853690760389722120,
      runs_of (by decide +kernel) (by decide +kernel) (by decide +kernel) (by decide +kernel) (by decide +kernel)⟩,
   ⟨64, state8, 55340232221128654857, runs_of (by decide +kernel) (by decide +kernel) (by decide +kernel) (by decide +kernel) (by decide +kernel),
      by decide +kernel⟩,
   ⟨64, state7, 55340232221128654857, runs_of (by decide +kernel) (by decide +kernel) (by decide +kernel) (by decide +kernel) (by decide +kernel),
      by decide +kernel⟩,
   ⟨64, state9, 26201742252912262064469163401817769377802,
      runs_of (by decide +kernel) (by decide +kernel) (by decide +kernel) (by decide +kernel) (by decide +kernel), by decide +kernel⟩,
   ⟨64, state14, 340282366920938841252693237003385307148,
      runs_of (by decide +kernel) (by decide +kernel) (by decide +kernel) (by decide +kernel) (by decide +kernel), by decide +kernel⟩,
   ⟨64, state16, 340282366920938841252693237003385307153,
      runs_of (by decide +kernel) (by decide +kernel) (by decide +kernel) (by decide +kernel) (by decide +kernel), by decide +kernel⟩,
   ⟨64, state17, 377789318629571617095698, runs_of (by decide +kernel) (by decide +kernel) (by decide +kernel) (by decide +kernel) (by decide +kernel)⟩⟩
theorem wit_ManagementTables_2 :
    (∃ desc : DWord, ∃ s : State, ∃ d : Nat, s.Runs 0x13 desc [(64, 64)] d) ∧
    (∃ desc : DWord, ∃ s : State, ∃ d : Nat, s.Runs 0x10 desc [] d) ∧
    (∃ desc : DWord, ∃ s : State, ∃ d : Nat, let part := d / 2 ^ 8 % 8; s.Runs 0x14 desc [(64, 4), (72, 1), (96, 160)] d ∧ (s.part part).created = true ∧
      let len := d / 2 ^ 96 % 2 ^ 32; let va := d / 2 ^ 128 % 2 ^ 64; let host := d / 2 ^ 192 % 2 ^ 64; let dom := d / 2 ^ 64 % 16; 4 ≤ len ∧ len % 4 = 0 ∧
      va % 2048 + len ≤ 2048 ∧ va + len ≤ 2 ^ 57 ∧ ∃ ph, s.translate part dom va = .ok ph ∧ ph.target = 0 ∧
      (host + len ≤ desc.toNat + 56 ∨ desc.toNat + 64 ≤ host) ∧ d.testBit 72 = true) ∧
    (∃ desc : DWord, ∃ s : State, ∃ d : Nat, let part := d / 2 ^ 8 % 8; s.Runs 0x14 desc [(64, 4), (72, 1), (96, 160)] d ∧ (s.part part).created = true ∧
      let len := d / 2 ^ 96 % 2 ^ 32; let va := d / 2 ^ 128 % 2 ^ 64; let host := d / 2 ^ 192 % 2 ^ 64; let dom := d / 2 ^ 64 % 16; 4 ≤ len ∧ len % 4 = 0 ∧
      va % 2048 + len ≤ 2048 ∧ va + len ≤ 2 ^ 57 ∧ ∃ ph, s.translate part dom va = .ok ph ∧ ph.target = 0 ∧
      (host + len ≤ desc.toNat + 56 ∨ desc.toNat + 64 ≤ host) ∧ d.testBit 72 = false) :=
  ⟨⟨64, state18, 377789318629571617095699, runs_of (by decide +kernel) (by decide +kernel) (by decide +kernel) (by decide +kernel) (by decide +kernel)⟩,
   ⟨64, state20, 16, runs_of (by decide +kernel) (by decide +kernel) (by decide +kernel) (by decide +kernel) (by decide +kernel)⟩,
   ⟨64, state22, 128555043540719222065657712585824898993916908371156154678509588,
      runs_of (by decide +kernel) (by decide +kernel) (by decide +kernel) (by decide +kernel) (by decide +kernel), by decide +kernel, by decide +kernel,
      by decide +kernel, by decide +kernel, by decide +kernel, ph14_0, by decide +kernel, by decide +kernel, by decide +kernel, by decide +kernel⟩,
   ⟨64, state23, 128555043540719222065659073715292265835115982445752637930340372,
      runs_of (by decide +kernel) (by decide +kernel) (by decide +kernel) (by decide +kernel) (by decide +kernel), by decide +kernel, by decide +kernel,
      by decide +kernel, by decide +kernel, by decide +kernel, ph15_1, by decide +kernel, by decide +kernel, by decide +kernel, by decide +kernel⟩⟩
/-- GET_CERTS: a length of 0 is less than any two certificates need; 2^32 - 1 is the longest length a descriptor can give (how long the certificates
are is a value of the configuration). DOMAIN_COPY: an address of a domain that maps nothing there, and one that a domain without an entry gives. -/
theorem wit_ManagementTables_3 :
    (∃ desc : DWord, ∃ s : State, ∃ d : Nat, s.Runs 0x0B desc [(64, 96)] d ∧
      let a := Config.identityCert
      let b := Config.attestationCert s.plat.akeyPub
      d / 2 ^ 128 % 2 ^ 32 < (bytesOf a.length 4 ++ a ++ bytesOf b.length 4 ++ b).length) ∧
    (∃ desc : DWord, ∃ s : State, ∃ d : Nat, s.Runs 0x0B desc [(64, 96)] d ∧ d / 2 ^ 128 % 2 ^ 32 = 2 ^ 32 - 1) ∧
    (∃ desc : DWord, ∃ s : State, ∃ d : Nat, let part := d / 2 ^ 8 % 8; s.Runs 0x14 desc [(64, 4), (72, 1), (96, 160)] d ∧ (s.part part).created = true ∧
      let len := d / 2 ^ 96 % 2 ^ 32; let va := d / 2 ^ 128 % 2 ^ 64; let dom := d / 2 ^ 64 % 16; 4 ≤ len ∧ len % 4 = 0 ∧
      va % 2048 + len ≤ 2048 ∧ va + len ≤ 2 ^ 57 ∧ ∀ ph, s.translate part dom va = .ok ph → ph.target ≠ 0) :=
  ⟨⟨64, c64 0xB (0x5000 * 2 ^ 64), 0xB + 0x5000 * 2 ^ 64,
      runs_of (by decide +kernel) (by decide +kernel) (by decide +kernel) (by decide +kernel) (by decide +kernel), by
      show 0 < _
      simp only [List.length_append, bytesOf, List.length_cons]; omega⟩,
   ⟨64, c64 0xB (0x5000 * 2 ^ 64 + (2 ^ 32 - 1) * 2 ^ 128), 0xB + 0x5000 * 2 ^ 64 + (2 ^ 32 - 1) * 2 ^ 128,
      runs_of (by decide +kernel) (by decide +kernel) (by decide +kernel) (by decide +kernel) (by decide +kernel), by decide +kernel⟩,
   ⟨64, cmd 0x14 (dcp 0 1 12 (2 ^ 32) 0x5000) mtr, 0x14 + dcp 0 1 12 (2 ^ 32) 0x5000,
      runs_of (by decide +kernel) (by decide +kernel) (by decide +kernel) (by decide +kernel) (by decide +kernel), by decide +kernel, by decide +kernel,
      by decide +kernel, by decide +kernel, by decide +kernel, target_of (by decide +kernel)⟩⟩
end WManagementTables

namespace WBootAndResets
def m0 : State := { stateA with port := { up := true }, plat := { bootStatus := 0x10 }, parts := [] }
def grd : Grid := { id := 9, bundle := 7, queue := 3, reserved := [{ unit := 1, pilot := 0, rooms := [{ core := 1 }] }, { unit := 2, pilot := 2, rooms := [{ core := 3 }] }] }
def p2 : Partition := { partA with cores := 0xF, k := 30, pool := 3*65536, wbase := 0, gates := [(1, 5)], queues := [(3, BitVec.ofNat 512 (0x10000 + 2^128 + 8 * 2^160 + 6 * 2^192 + 5 * 2^224)), (4, 77)], claimed := [{ queue := 3, head := 5, core := 0, slots := [1] }, { queue := 3, head := 4, core := 1, slots := [1], started := true, bundle := some 7 }, { queue := 4, head := 9, core := 1 }, { queue := 4, head := 8, core := 0, started := true }], bundles := [{ id := 7, queue := 3 }, { id := 8, queue := 4 }], grids := [grd, { grd with id := 10, bundle := 8, queue := 4 }], halt := { seq := 4 } }
def w2 (s : State) : State := { s with parts := [(0, p2), (1, { partA with cores := 0xF0 })], cores := [(0, {pilot := true}), (1, {pilot := true}), (2, { pilot := false })], groups := [pilotOf 0, pilotOf 1] }
def tm1 (st : TState) (g : Nat) : Team := { teamA with stream := 6, st := st, grid := g, core := 1, part := 0 }
def grp6 : Group := { key := ⟨6, 0⟩, core := 1, units := [{ mask := 1, id := 0 }] }
def tms (s : State) (ts : List Team) : State := { s with team := { s.team with part := 3 }, teams := ts, groups := s.groups ++ [grp6] }
def w3 (s : State) : State := tms (w2 s) [tm1 .admitted 9]
def bs (n : Nat) : State := { w3 m0 with plat := { (w3 m0).plat with bootStatus := n, belowMs := 3, clkNow := 1200 }, health := { fenced := [(1, true)], status := 7, counters := [(3,4)], history := [[{}]] }, free := 9, serial := 33, flights := [fl 2 3], iod := { lanes := [(3, { up := false, downs := 4 })] } }
def flsh (n x : Nat) : State := { bs n with plat := { (bs n).plat with flash := BitVec.ofNat 512 x } }
def sts : List State := [bs 0, bs 1, bs 2, bs 3, bs 4, bs 5, bs 0x10, bs 0xE1, flsh 2 (0x43464744 + 2^32), flsh 2 (0x43464744 + 2*2^32 + (2^400-1) * 2^64), flsh 2 defaultConfig.toNat, flsh 2 (0x43464744 + 2^32 + 3 * 2^64 + 5 * 2^128), flsh 1 7]
def state0 : State := ((sts)[0]?.getD default)
def state1 : State := ((sts)[1]?.getD default)
def state2 : State := ((sts)[2]?.getD default)
def state3 : State := ((sts)[3]?.getD default)
def state4 : State := ((sts)[4]?.getD default)
def state5 : State := ((sts)[5]?.getD default)
def state7 : State := ((sts)[7]?.getD default)
def hostReq0 : HostReq := {fn := 0, bar0 := true, offset := 0x40, bytes := [1,2,3,4], len := 4}

theorem wit_BootAndResets :
    (∃ s : State, s.plat.bootStatus = 0) ∧
    (∃ s : State, s.plat.bootStatus ≠ 0) ∧
    (∃ s : State, s.plat.bootStatus = 1) ∧
    (∃ s : State, s.plat.bootStatus = 2) ∧
    (∃ s : State, s.plat.bootStatus = 3) ∧
    (∃ s : State, s.plat.bootStatus = 4) ∧
    (∃ s : State, s.plat.bootStatus = 5) ∧
    (∃ s : State, (s.plat.bootStatus = 1 ∨ s.plat.bootStatus = 3)) ∧
    (∃ s : State, s.plat.bootStatus = 0xE1 ∧ s.port.inWrites = [] ∧ ∃ r : HostReq, sget (0 : BitVec 256) s.port.ideKeys r.fn = 0 ∧ 0 < r.len ∧ r.len ≤ 4096) :=
  ⟨⟨state0, by decide +kernel⟩,
   ⟨state1, by decide +kernel⟩,
   ⟨state1, by decide +kernel⟩,
   ⟨state2, by decide +kernel⟩,
   ⟨state3, by decide +kernel⟩,
   ⟨state4, by decide +kernel⟩,
   ⟨state5, by decide +kernel⟩,
   ⟨state1, by decide +kernel⟩,
   ⟨state7, by decide +kernel, by decide +kernel, hostReq0, by decide +kernel, by decide +kernel, by decide +kernel⟩⟩
end WBootAndResets

namespace WPowerAndHealth
def m0 : State := { stateA with port := { up := true }, plat := { bootStatus := 0x10 }, parts := [] }
def grd : Grid := { id := 9, bundle := 7, queue := 3, reserved := [{ unit := 1, pilot := 0, rooms := [{ core := 1 }] }, { unit := 2, pilot := 2, rooms := [{ core := 3 }] }] }
def p2 : Partition := { partA with cores := 0xF, k := 30, pool := 3*65536, wbase := 0, gates := [(1, 5)], queues := [(3, BitVec.ofNat 512 (0x10000 + 2^128 + 8 * 2^160 + 6 * 2^192 + 5 * 2^224)), (4, 77)], claimed := [{ queue := 3, head := 5, core := 0, slots := [1] }, { queue := 3, head := 4, core := 1, slots := [1], started := true, bundle := some 7 }, { queue := 4, head := 9, core := 1 }, { queue := 4, head := 8, core := 0, started := true }], bundles := [{ id := 7, queue := 3 }, { id := 8, queue := 4 }], grids := [grd, { grd with id := 10, bundle := 8, queue := 4 }], halt := { seq := 4 } }
def w2 (s : State) : State := { s with parts := [(0, p2), (1, { partA with cores := 0xF0 })], cores := [(0, {pilot := true}), (1, {pilot := true}), (2, { pilot := false })], groups := [pilotOf 0, pilotOf 1] }
def tm1 (st : TState) (g : Nat) : Team := { teamA with stream := 6, st := st, grid := g, core := 1, part := 0 }
def grp6 : Group := { key := ⟨6, 0⟩, core := 1, units := [{ mask := 1, id := 0 }] }
def tms (s : State) (ts : List Team) : State := { s with team := { s.team with part := 3 }, teams := ts, groups := s.groups ++ [grp6] }
def w3 (s : State) : State := tms (w2 s) [tm1 .admitted 9]
def hh (n a b : Nat) : List (List MonitorReading) := (List.range n).map fun i => (List.range 17).map fun u => { age := if u = 3 then a - i * b else 0, em := if u = 4 then 9999 else if u = 5 then 10000 else 0, vmin := if u = 3 then 20 - i % 2 else 0, eye := 0 }
def ps (st p lim bel : Nat) : State := { w3 m0 with plat := { (w3 m0).plat with bootStatus := st, belowMs := bel, clkNow := p, pwrLimit := lim }, iod := { lanes := [(3, { up := false, downs := 4 }), (4, { up := true })] } }
def hs (h : List (List MonitorReading)) (thr : Nat) : State := { ps 0x10 1900 3200 0 with health := { history := h, threshold := thr, status := 0 } }
def sts : List State := [ps 3 1900 3200 0, ps 0x10 960 3200 9, ps 0x10 1890 3200 10, ps 0x10 950 1200 3, ps 2 1900 3200 0, hs [] 90, hs (hh 1 5000 3) 90, hs (hh 24 5000 3) 3650, hs (hh 25 5000 3) 1, hs (hh 25 9999 99) 1, hs (hh 2 9999 99) 1, hs (hh 721 5000 5) 30, hs (hh 721 10000 5) 30, hs (hh 25 5000 0) 900]
def state0 : State := ((sts)[0]?.getD default)
def state6 : State := ((sts)[6]?.getD default)
def new2_0 := (match state6.health.history with | new :: _ => new | _ => default)
def past2_1 := (match state6.health.history with | _ :: past => past | _ => default)
def state1 : State := ((sts)[1]?.getD default)

theorem wit_PowerAndHealth :
    (∃ mw : Nat, ∃ hot : Bool, ∃ s : State, 3 ≤ s.plat.bootStatus) ∧
    (∃ readings : List MonitorReading, ∃ s : State, 3 ≤ s.plat.bootStatus ∧ readings.length = 17 ∧ (∀ r ∈ readings, r.age ≤ 10000 ∧ r.em ≤ 10000 ∧
      r.vmin ≤ 10000 ∧ r.eye ≤ 10000)) ∧
    (∃ s : State, ∃ u : Nat, ∃ new : List MonitorReading, ∃ past : List (List MonitorReading), s.health.history = new :: past ∧ past.length ≤ 720) ∧
    (∃ lane : Nat, ∃ s : State, (s.lane lane).up = false ∧ lane < 128 ∧ s.plat.bootStatus = 0x10) :=
  ⟨⟨0, true, state0, by decide +kernel⟩,
   ⟨(((hh 1 6000 1) ++ (hh 1 10000 0) ++ (hh 1 10001 1) ++ [[]])[0]?.getD default), state0, by decide +kernel, by decide +kernel, by decide +kernel⟩,
   ⟨state6, 0, new2_0, past2_1, by decide +kernel, by decide +kernel⟩,
   ⟨0, state1, by decide +kernel, by decide +kernel, by decide +kernel⟩⟩
end WPowerAndHealth

namespace WEccErrors
def m0 : State := { stateA with port := { up := true }, plat := { bootStatus := 0x10 }, parts := [] }
def grd : Grid := { id := 9, bundle := 7, queue := 3, reserved := [{ unit := 1, pilot := 0, rooms := [{ core := 1 }] }, { unit := 2, pilot := 2, rooms := [{ core := 3 }] }] }
def p2 : Partition := { partA with cores := 0xF, k := 30, pool := 3*65536, wbase := 0, gates := [(1, 5)], queues := [(3, BitVec.ofNat 512 (0x10000 + 2^128 + 8 * 2^160 + 6 * 2^192 + 5 * 2^224)), (4, 77)], claimed := [{ queue := 3, head := 5, core := 0, slots := [1] }, { queue := 3, head := 4, core := 1, slots := [1], started := true, bundle := some 7 }, { queue := 4, head := 9, core := 1 }, { queue := 4, head := 8, core := 0, started := true }], bundles := [{ id := 7, queue := 3 }, { id := 8, queue := 4 }], grids := [grd, { grd with id := 10, bundle := 8, queue := 4 }], halt := { seq := 4 } }
def w2 (s : State) : State := { s with parts := [(0, p2), (1, { partA with cores := 0xF0 })], cores := [(0, {pilot := true}), (1, {pilot := true}), (2, { pilot := false })], groups := [pilotOf 0, pilotOf 1] }
def tm1 (st : TState) (g : Nat) : Team := { teamA with stream := 6, st := st, grid := g, core := 1, part := 0 }
def grp6 : Group := { key := ⟨6, 0⟩, core := 1, units := [{ mask := 1, id := 0 }] }
def tms (s : State) (ts : List Team) : State := { s with team := { s.team with part := 3 }, teams := ts, groups := s.groups ++ [grp6] }
def w3 (s : State) : State := tms (w2 s) [tm1 .admitted 9]
def tl (va : Nat) : TlbEntry := { part := 0, domain := 0, va := va, size := 65536 }
def big : State := { w3 m0 with team := { teamA with stream := 5 }, grp := { groupA with core := 1, r := { v := [(0,⟨1,false⟩),(259,⟨4,false⟩)], s := [(3,⟨3,false⟩)] } }, cores := [(1, { pilot := true, tlb := [tl 0x10000, tl 0x20000], pipeTlb := [(2, [tl 0x10000])], l1 := [{ key := 0x8000, bytes := [1] }, { key := 0x8080, bytes := [1] }], hqs := [(3, { items := [⟨1,false⟩,⟨2,false⟩] })], mctx := [(0, { tiles := [(3, ⟨1,false⟩)] })] })], iod := { ptes := [tl 0x10000], out := [{}] }, port := { up := true, inWrites := [{ id := 4, fn := 0, parts := [{ route := 0, pa := 0x9000, bytes := [1] }] }] }, flights := [fl 2 1] }
def sites : List EccSite := [.mainReg ⟨5,0⟩ 0 0, .mainReg ⟨5,0⟩ 1 3, .mainReg ⟨6,0⟩ 0 0, .regionReg ⟨5,0⟩ 0 0, .uniformReg ⟨5,0⟩ 3, .uniformReg ⟨5,0⟩ 99, .spad 1 4, .spad 255 262143, .spad 256 0, .fullBit 1 4, .tile 1 0 3, .tile 2 1 5, .queue 1 3 0, .queue 1 3 1, .queue 1 3 7, .l1 1 0x8000, .l1 2 0x8000, .tlb 1 none 0x10000, .tlb 1 (some 2) 0x10000, .pte 0x10000, .pte 5, .xlate ⟨5,0⟩ 1, .cleanLine 0x8000, .dram 0x9010, .dram (2^41), .staging 4 0 0, .retransmit 0, .stored ⟨0,5,2⟩ 3, .control 1 none, .control 1 (some ⟨5,0⟩), .control 1 (some ⟨6,0⟩), .control 1 (some ⟨0,1⟩)]
def allEccEvent : List EccEvent := sites.flatMap fun x => [{ corrected := true, site := x }, { corrected := false, site := x, part := some 0 }, { corrected := false, site := x, offset := 12 }]
def eccEvent0 : EccEvent := ((allEccEvent)[0]?.getD default)
def eccEvent1 : EccEvent := ((allEccEvent)[1]?.getD default)

theorem wit_EccErrors :
    (∃ e : EccEvent, ∃ s : State, s.siteOk e.site = true ∧ e.corrected = true) ∧
    (∃ e : EccEvent, ∃ s : State, s.siteOk e.site = true ∧ e.corrected = false) :=
  ⟨⟨eccEvent0, big, by decide +kernel, by decide +kernel⟩,
   ⟨eccEvent1, big, by decide +kernel, by decide +kernel⟩⟩
end WEccErrors

namespace WFrames
def pe : BitVec 128 := BitVec.ofNat 128 (2 ^ 127 + 2 ^ 126 + (2 ^ 36 - 1) * 2 ^ 88 + 0xFFFF)
def p3 : Peer := { entry := pe, epoch := 1, sendKey := 5, recvKey := 6, prevEpoch := 3, prevRecvKey := 9, prevSendKey := 8, prevValid := true, counters := [(1, 7)], lastPlane := 0 }
def ln : Lane := { up := true, linkSeq := 4095, recvSeq := 4095, used := [(2, 3)], pool := [(2, 1)], granted := [(2, 5)], tagFail := 2 }
def fs : State := { stateA with port := { up := true }, plat := { stateA.plat with bootStatus := 0x10, device := 1 }, iod := { peers := [(1, { entry := pe }), (3, p3), (4, { entry := pe, kxSeq := 65535 }), (0, { entry := pe })], lanes := [(1, ln), (2, { ln with up := false }), (9, ln)], segments := [(3, BitVec.ofNat 128 (2 ^ 127 + 2 ^ 126 + 2 ^ 125 + 1 * 2 ^ 94 + 0x10000))] }, cycle := 123456789, cores := [(0, { pilot := true, chans := [{ key := ⟨5, 2, 19⟩, ackSeq := 3, unacked := 4, nextSeq := 7 }] })] }
def op (d vc k n : Nat) : OutPacket := { dest := d, vc := vc, packet := { stream := 5, chan := vc, seq := 3, kind := k, length := n, segment := 3, offset := 0x20, payload := (List.range n).map (BitVec.ofNat 8) }, key := if k ≤ 4 then some ⟨5, vc, 15⟩ else none }
def out (os : List OutPacket) : State := { fs with iod := { fs.iod with out := os } }
def body (ps : List Packet) : List Byte := let c := ps.flatMap packetBytes; c ++ zeros (ceilDiv (max 1 c.length) 64 * 64 - c.length)
/-- A frame with the trailer of its link: the number expected, and its own CRC. -/
def lk (seq : Nat) (f : Frame) : Frame := { f with link := { seq := BitVec.ofNat 12 seq, crc := frameCrc f, fec := true } }
theorem lk_crc (seq : Nat) (f : Frame) : (lk seq f).link.crc = frameCrc (lk seq f) := rfl
def fr (vc epoch : Nat) (ps : List Packet) : Frame := { src := 3, dst := 1, plane := 1, vc := vc, epoch := epoch, counter := 4, gmac := decide (epoch ≠ 0), body := body ps }
def pk (k : Nat) (q : Nat) (so : Bool) (n : Nat) : Packet := { stream := if k = 0 then 77 else 5, chan := 2, seq := q, kind := k, sos := so, length := n, segment := 3, offset := 0x20, payload := (List.range n).map (BitVec.ofNat 8) }
/-- A frame that carries one packet, under epoch 1. -/
def fk (vc : Nat) (ps : List Packet) : Frame := lk 4095 (fr vc 1 ps)
def s2 : State := out [op 3 2 0 16]
def s35 : State := out [{ op 3 35 10 200 with epoch := 0 }]
def s8 : State := out [op 1 2 0 16]

theorem wit_Frames_1 :
    (∃ dest vc : Nat, ∃ s : State, ∃ n : Nat, let took := takeBody (s.waitingFor dest vc) 960; took ≠ [] ∧ dest ≠ s.plat.device ∧
      (s.peer dest).lost = false ∧ (s.nextLane dest vc (ceilDiv ((took.map fun o => packetSize o.packet).sum) 64 + 1) = some n) ∧
      sget 0 (s.peer dest).counters n + 1 < 2 ^ 39 ∧ vc ≠ 35 ∧ s.keyed dest = true) ∧
    (∃ dest vc : Nat, ∃ s : State, ∃ n : Nat, let took := takeBody (s.waitingFor dest vc) 960; took ≠ [] ∧ dest ≠ s.plat.device ∧
      (s.peer dest).lost = false ∧ (s.nextLane dest vc (ceilDiv ((took.map fun o => packetSize o.packet).sum) 64 + 1) = some n) ∧
      sget 0 (s.peer dest).counters n + 1 < 2 ^ 39 ∧ vc = 35 ∧ (∀ o ∈ took, o.epoch = 0)) ∧
    (∃ vc : Nat, ∃ s : State, ∃ o : OutPacket, s.iod.out = [o] ∧ o.dest = s.plat.device ∧ o.vc = vc ∧ o.sent = false ∧ packetSize o.packet ≤ 960 ∧
      o.packet.kind = 0 ∧ ∃ pa, s.requestPlace s.plat.device o.packet = .ok pa ∧ o.packet.length = o.packet.payload.length) :=
  ⟨⟨3, 2, s2, (s2.nextLane 3 2 2).getD 0, by decide +kernel, by decide +kernel, by decide +kernel, by decide +kernel, by decide +kernel, by decide +kernel,
      by decide +kernel⟩,
   ⟨3, 35, s35, (s35.nextLane 3 35 5).getD 0, by decide +kernel, by decide +kernel, by decide +kernel, by decide +kernel, by decide +kernel, by decide +kernel,
      by decide +kernel⟩,
   ⟨2, s8, op 1 2 0 16, by decide +kernel, by decide +kernel, by decide +kernel, by decide +kernel, by decide +kernel, by decide +kernel,
      (match s8.requestPlace s8.plat.device (op 1 2 0 16).packet with | .ok pa => pa | _ => 0), by decide +kernel, by decide +kernel⟩⟩

/-- What the last clause group asks of every frame that the link takes. -/
def Taken (lane : Nat) (f : Frame) (s : State) : Prop := (s.lane lane).up = true ∧ f.link.fec = true ∧ f.link.crc = frameCrc f ∧
  (f.link.seq.toNat + 4096 - (s.lane lane).recvSeq) % 4096 = 0 ∧ f.plane = lane ∧ f.dst = s.plat.device ∧ f.src ≠ s.plat.device ∧
  peValid (s.peer f.src).entry = true ∧ (s.peer f.src).lost = false ∧ f.body.length % 64 = 0 ∧ 64 ≤ f.body.length ∧ f.body.length ≤ 960
theorem taken_of {vc epoch : Nat} {ps : List Packet} (h : (body ps).length % 64 = 0 ∧ 64 ≤ (body ps).length ∧ (body ps).length ≤ 960) :
    Taken 1 (lk 4095 (fr vc epoch ps)) fs :=
  ⟨by decide +kernel, rfl, lk_crc _ _, (by decide +kernel : (4095 + 4096 - (fs.lane 1).recvSeq) % 4096 = 0), rfl, (by decide +kernel : 1 = fs.plat.device),
    (by decide +kernel : 3 ≠ fs.plat.device), (by decide +kernel : peValid (fs.peer 3).entry = true), (by decide +kernel : (fs.peer 3).lost = false), h.1, h.2.1, h.2.2⟩

theorem wit_Frames_2 :
    (∃ lane : Nat, ∃ f : Frame, ∃ s : State, (s.lane lane).up = true ∧ (f.link.fec = false ∨ f.link.crc ≠ frameCrc f)) ∧
    (∃ lane : Nat, ∃ f : Frame, ∃ s : State, (s.lane lane).up = true ∧ let ahead := (f.link.seq.toNat + 4096 - (s.lane lane).recvSeq) % 4096;
      f.link.fec = true ∧ f.link.crc = frameCrc f ∧ ahead ≠ 0 ∧ ahead < 2048) ∧
    (∃ lane : Nat, ∃ f : Frame, ∃ s : State, (s.lane lane).up = true ∧ let ahead := (f.link.seq.toNat + 4096 - (s.lane lane).recvSeq) % 4096;
      f.link.fec = true ∧ f.link.crc = frameCrc f ∧ ahead ≠ 0 ∧ 2048 ≤ ahead) ∧
    (∃ lane : Nat, ∃ f : Frame, ∃ s : State, Taken lane f s ∧ f.epoch = 0 ∧ f.vc = 35 ∧ f.tag = 0 ∧ f.gmac = false ∧ ∃ p, packetsOf 30 f.body = [p] ∧
      p.kind = 10 ∧ p.sos = true ∧ p.payload.length < 256 ∧ (s.peer f.src).kxEarly = []) ∧
    (∃ lane : Nat, ∃ f : Frame, ∃ s : State, Taken lane f s ∧ f.epoch = 0 ∧ f.vc = 35 ∧ f.tag = 0 ∧ f.gmac = false ∧ ∃ p, packetsOf 30 f.body = [p] ∧
      p.kind ≠ 10) ∧
    (∃ lane : Nat, ∃ f : Frame, ∃ s : State, Taken lane f s ∧ ¬ (f.epoch = 0 ∧ f.vc = 35) ∧ (s.peer f.src).clearBody f = none ∧
      (((s.peer f.src).tagFails.filter fun x => decide (s.micros < x + 1000)).length + 1 < 8)) :=
  ⟨⟨1, { fk 2 [] with link := { fec := false } }, fs, by decide +kernel, Or.inl (by decide +kernel)⟩,
   ⟨1, lk 3 (fr 2 1 []), fs, by decide +kernel, rfl, lk_crc _ _, (by decide +kernel : (3 + 4096 - (fs.lane 1).recvSeq) % 4096 ≠ 0),
      (by decide +kernel : (3 + 4096 - (fs.lane 1).recvSeq) % 4096 < 2048)⟩,
   ⟨1, lk 4000 (fr 2 1 []), fs, by decide +kernel, rfl, lk_crc _ _, (by decide +kernel : (4000 + 4096 - (fs.lane 1).recvSeq) % 4096 ≠ 0),
      (by decide +kernel : 2048 ≤ (4000 + 4096 - (fs.lane 1).recvSeq) % 4096)⟩,
   ⟨1, lk 4095 (fr 35 0 [pk 10 7 true 100]), fs, taken_of (by decide +kernel), rfl, rfl, rfl, rfl, (packetsOf 30 (body [pk 10 7 true 100])).headI, by decide +kernel,
      by decide +kernel, by decide +kernel, by decide +kernel, by decide +kernel⟩,
   ⟨1, lk 4095 (fr 35 0 [pk 0 0 true 16]), fs, taken_of (by decide +kernel), rfl, rfl, rfl, rfl, (packetsOf 30 (body [pk 0 0 true 16])).headI, by decide +kernel,
      by decide +kernel⟩,
   ⟨1, lk 4095 (fr 2 7 []), fs, taken_of (by decide +kernel), (by decide : ¬ (7 = 0 ∧ 2 = 35)), rfl, by decide +kernel⟩⟩

theorem clear_of {vc : Nat} {ps : List Packet} (hv : peGmac (fs.peer 3).entry vc = true)
    (h : (Config.gcmOpen 6 (frameIv (fk vc ps)) (frameAad (fk vc ps) ++ (fk vc ps).body) [] (fk vc ps).tag).isSome = true) :
    (fs.peer (fk vc ps).src).clearBody (fk vc ps) = some (body ps) := by
  have hk : (fs.peer (fk vc ps).src).keyFor (fk vc ps).epoch = some 6 := by show (fs.peer 3).keyFor 1 = _; decide +kernel
  have hg : (fk vc ps).gmac = true := rfl
  have hp : peGmac (fs.peer (fk vc ps).src).entry (fk vc ps).vc = true := hv
  obtain ⟨x, hx⟩ := Option.isSome_iff_exists.1 h
  rw [Peer.clearBody, hk, hp]
  simp only [hg, Bool.not_true, Bool.and_false, Bool.false_eq_true, if_false, openFrame, if_true, hx, Option.map_some]
  rfl

/-- The frames whose tag must verify: whether a tag does is a free value (Config.gcmOpen), so the witness says what it is taken to answer. -/
theorem wit_Frames_3 (tags : ∀ f ∈ [fk 2 [], fk 33 [pk 6 4 false 0], fk 33 [pk 6 3 false 0], fk 34 [pk 8 4 false 0], fk 2 [pk 0 0 true 16]],
      (Config.gcmOpen 6 (frameIv f) (frameAad f ++ f.body) [] f.tag).isSome = true) :
    (∃ lane : Nat, ∃ f : Frame, ∃ s : State, Taken lane f s ∧ ¬ (f.epoch = 0 ∧ f.vc = 35) ∧ ∃ body, (s.peer f.src).clearBody f = some body ∧ packetsOf 30 body = []) ∧
    (∃ lane : Nat, ∃ f : Frame, ∃ s : State, Taken lane f s ∧ ¬ (f.epoch = 0 ∧ f.vc = 35) ∧ ∃ body p, (s.peer f.src).clearBody f = some body ∧ packetsOf 30 body = [p] ∧
      p.kind = 6 ∧ p.stream ≠ 0 ∧ ∃ e, s.keyEntry ⟨p.stream, p.chan, f.src * 5 + 4⟩ = some e ∧ e.key = ⟨p.stream, p.chan, f.src * 5 + 4⟩ ∧
      1 ≤ (p.seq + 65536 - e.ackSeq) % 65536 ∧ (p.seq + 65536 - e.ackSeq) % 65536 ≤ e.unacked) ∧
    (∃ lane : Nat, ∃ f : Frame, ∃ s : State, Taken lane f s ∧ ¬ (f.epoch = 0 ∧ f.vc = 35) ∧ ∃ body p, (s.peer f.src).clearBody f = some body ∧ packetsOf 30 body = [p] ∧
      p.kind = 6 ∧ p.stream ≠ 0 ∧ ∃ e, s.keyEntry ⟨p.stream, p.chan, f.src * 5 + 4⟩ = some e ∧ e.key = ⟨p.stream, p.chan, f.src * 5 + 4⟩ ∧
      ((p.seq + 65536 - e.ackSeq) % 65536 = 0 ∨ e.unacked < (p.seq + 65536 - e.ackSeq) % 65536)) ∧
    (∃ lane : Nat, ∃ f : Frame, ∃ s : State, Taken lane f s ∧ ¬ (f.epoch = 0 ∧ f.vc = 35) ∧ ∃ body p, (s.peer f.src).clearBody f = some body ∧ packetsOf 30 body = [p] ∧
      (p.kind = 7 ∨ p.kind = 8 ∨ p.kind = 9)) ∧
    (∃ lane : Nat, ∃ f : Frame, ∃ s : State, Taken lane f s ∧ ¬ (f.epoch = 0 ∧ f.vc = 35) ∧ ∃ body p, (s.peer f.src).clearBody f = some body ∧ packetsOf 30 body = [p] ∧
      p.kind = 0 ∧ p.seq = 0 ∧ p.sos = true ∧ s.seqState ⟨f.src, p.stream, p.chan⟩ = none ∧ ⟨f.src, p.stream, p.chan⟩ ∉ s.iod.refused ∧ s.iod.keys.length < 262144 ∧
      ∃ pa, s.requestPlace f.src p = .ok pa ∧ p.payload.length = p.length) :=
  ⟨⟨1, _, fs, taken_of (ps := []) (by decide +kernel), (by decide : ¬ (1 = 0 ∧ 2 = 35)), _, clear_of (ps := []) (vc := 2) (by decide +kernel) (tags _ (by simp)), by decide +kernel⟩,
   ⟨1, _, fs, taken_of (by decide +kernel), (by decide : ¬ (1 = 0 ∧ 33 = 35)), _, (packetsOf 30 (body [pk 6 4 false 0])).headI,
      clear_of (ps := [pk 6 4 false 0]) (vc := 33) (by decide +kernel) (tags _ (by simp)), by decide +kernel, by decide +kernel, by decide +kernel,
      (fs.keyEntry ⟨5, 2, 19⟩).getD default, (by decide +kernel), by decide +kernel, by decide +kernel, by decide +kernel⟩,
   ⟨1, _, fs, taken_of (by decide +kernel), (by decide : ¬ (1 = 0 ∧ 33 = 35)), _, (packetsOf 30 (body [pk 6 3 false 0])).headI,
      clear_of (ps := [pk 6 3 false 0]) (vc := 33) (by decide +kernel) (tags _ (by simp)), by decide +kernel, by decide +kernel, by decide +kernel,
      (fs.keyEntry ⟨5, 2, 19⟩).getD default, by decide +kernel, by decide +kernel, by decide +kernel⟩,
   ⟨1, _, fs, taken_of (by decide +kernel), (by decide : ¬ (1 = 0 ∧ 34 = 35)), _, (packetsOf 30 (body [pk 8 4 false 0])).headI,
      clear_of (ps := [pk 8 4 false 0]) (vc := 34) (by decide +kernel) (tags _ (by simp)), by decide +kernel, by decide +kernel⟩,
   ⟨1, _, fs, taken_of (by decide +kernel), (by decide : ¬ (1 = 0 ∧ 2 = 35)), _, (packetsOf 30 (body [pk 0 0 true 16])).headI,
      clear_of (ps := [pk 0 0 true 16]) (vc := 2) (by decide +kernel) (tags _ (by simp)), by decide +kernel, by decide +kernel, by decide +kernel, by decide +kernel,
      by decide +kernel, by decide +kernel, by decide +kernel, (match fs.requestPlace 3 (packetsOf 30 (body [pk 0 0 true 16])).headI with | .ok pa => pa | _ => 0),
      by decide +kernel, by decide +kernel⟩⟩
end WFrames

namespace WResynchronisation
def pe : BitVec 128 := BitVec.ofNat 128 (2^127 + 0xFFFF)
def p3 : Peer := { entry := pe, epoch := 1, sendKey := 5, recvKey := 6, prevEpoch := 3, prevRecvKey := 9, prevSendKey := 8, prevValid := true, counters := [(1, 7)], lastPlane := 0 }
def ln : Lane := { up := true, linkSeq := 4095, recvSeq := 4095, used := [(2, 3)], pool := [(2, 1)], granted := [(2, 5)], tagFail := 2 }
def fs : State := { stateA with port := { up := true }, plat := { stateA.plat with bootStatus := 0x10, device := 1 }, iod := { peers := [(1, { entry := pe }), (3, p3), (4, { entry := pe, kxSeq := 65535 }), (0, { entry := pe })], lanes := [(1, ln), (2, { ln with up := false }), (9, ln)], segments := [(3, BitVec.ofNat 128 (2^127 + 2^126 + 2^125 + 1 * 2^94 + 0x10000))] }, cycle := 123456789 }
def out (os : List OutPacket) : State := { fs with iod := { fs.iod with out := os } }
def K : ChanKey := ⟨5,2,19⟩
def en (u a : Nat) (x nr : Bool) : ChanEntry := { key := K, unacked := u, ackSeq := a, nextSeq := (a + u) % 65536, exchange := x, noRoom := nr }
def pkt (k q : Nat) (pl : List Byte) : Packet := { stream := 5, chan := 2, seq := q, kind := k, length := pl.length, payload := pl }
def rs (e : ChanEntry) (ib : List (Nat × Packet)) (os : List OutPacket) : State := { fs with cores := [(0, { chans := [e] }), (1, { chans := [{ en 4 9 false false with key := ⟨5,2,15⟩ }] })], iod := { fs.iod with inbox := ib, out := os, streams := [(5, 0)], keys := [{ key := ⟨3,5,2⟩, expected := 9, heard := 4 }, { key := ⟨3,6,2⟩, expected := 7, stored := [(1, pkt 0 9 [])] }, { key := ⟨3,7,2⟩, heard := 61728 - 10000 },{ key := ⟨3,8,2⟩, heard := 61728 - 9999 }] } }
def oq (q : Nat) (sent : Bool) : OutPacket := { dest := 3, vc := 2, key := some K, sent := sent, packet := { pkt 0 q [1,2] with kind := 0 } }
def saved (s : State) : State := { s with cores := [], teams := [{ teamA with st := .saved, stream := 5, image := some { chans := [en 3 65534 true false] } }], team := { teamA with stream := 99 } }
def lf : Flight := { fl 2 3 with id := 3, kind := .load, place := .fabric 3 3 0, rtag := some 0, done := 3, performed := false, nregs := 1, dst := some 3 }
def sts : List State := [rs (en 3 65534 true false) [(3, pkt 9 0 [2])] [oq 65534 true, oq 65535 true, oq 0 false], rs { en 3 65534 true false with lostPackets := [65535] } [(3, pkt 9 0 [2])] [oq 65534 true, oq 65535 true, oq 0 false], rs (en 3 65534 false false) [(3, pkt 7 0 [3]), (3, pkt 7 0 [])] [], rs (en 3 65534 true false) [(3, pkt 9 1 []), (3, pkt 9 65534 []), (3, pkt 9 65535 []), (3, pkt 9 0 [])] [oq 65534 true, oq 65535 true, oq 0 false], rs (en 3 65534 false true) [] [oq 65534 true], rs (en 3 65534 true false) [] [{ dest := 3, vc := 34, packet := pkt 8 65534 [] }], rs (en 0 5 true true) [] [], rs (en 3 5 false false) [(3, pkt 8 4 []), (3, pkt 8 4 [1]), (3, { pkt 8 4 [] with stream := 99 }), (9, pkt 8 4 [])] [{ dest := 3, packet := { pkt 6 3 [] with stream := 7 } }], saved (rs (en 3 65534 true false) [(3, pkt 9 1 [])] [oq 65534 true]), saved (rs (en 3 65534 true false) [(3, pkt 7 1 [3])] [oq 65534 true]), { rs (en 3 5 false false) [] [] with flights := [lf], health := { logged := 9 } }]
def allPacket : List Packet := (sts.flatMap fun s => s.iod.inbox.map (·.2)).dedup
def packet1 : Packet := ((allPacket)[1]?.getD default)
def state2 : State := ((sts)[2]?.getD default)
def e0_0 := ((state2.keyEntry (⟨packet1.stream, packet1.chan, 3 * 5 + 4⟩)).getD default)
def packet2 : Packet := ((allPacket)[2]?.getD default)
def e1_1 := ((state2.keyEntry (⟨packet2.stream, packet2.chan, 3 * 5 + 4⟩)).getD default)
def state4 : State := ((sts)[4]?.getD default)
def state0 : State := ((sts)[0]?.getD default)
def packet6 : Packet := ((allPacket)[6]?.getD default)
def state7 : State := ((sts)[7]?.getD default)
def packet8 : Packet := ((allPacket)[8]?.getD default)
def x6_2 := ((state7.seqState (⟨3, packet8.stream, packet8.chan⟩)).getD default)
def packet7 : Packet := ((allPacket)[7]?.getD default)
def packet3 : Packet := ((allPacket)[3]?.getD default)
def state3 : State := ((sts)[3]?.getD default)
def e8_3 := ((state3.keyEntry (⟨packet3.stream, packet3.chan, 3 * 5 + 4⟩)).getD default)
def packet0 : Packet := ((allPacket)[0]?.getD default)
def e9_4 := ((state0.keyEntry (⟨packet0.stream, packet0.chan, 3 * 5 + 4⟩)).getD default)
def state1 : State := ((sts)[1]?.getD default)
def e10_5 := ((state1.keyEntry (⟨packet0.stream, packet0.chan, 3 * 5 + 4⟩)).getD default)
def state10 : State := ((sts)[10]?.getD default)
def x12_6 := ((state0.seqState (⟨3,6,2⟩ : SeqKey)).getD default)
def x13_7 := ((state0.seqState (⟨3,5,2⟩ : SeqKey)).getD default)

theorem wit_Resynchronisation_1 :
    (∃ src : Nat, ∃ p : Packet, ∃ s : State, ∃ e : ChanEntry, (src, p) ∈ s.iod.inbox ∧ p.kind = 7 ∧ let k : ChanKey := ⟨p.stream, p.chan, src * 5 + 4⟩;
      s.keyEntry k = some e ∧ e.key = k ∧ e.unacked ≠ 0 ∧ p.payload = [3]) ∧
    (∃ src : Nat, ∃ p : Packet, ∃ s : State, ∃ e : ChanEntry, (src, p) ∈ s.iod.inbox ∧ p.kind = 7 ∧ let k : ChanKey := ⟨p.stream, p.chan, src * 5 + 4⟩;
      s.keyEntry k = some e ∧ e.key = k ∧ e.unacked ≠ 0 ∧ p.payload ≠ [3] ∧ e.exchange = false ∧ s.remoteKey k = true) ∧
    (∃ k : ChanKey, ∃ s : State, ∃ e : ChanEntry, s.keyEntry k = some e ∧ e.key = k ∧ e.noRoom = true) ∧
    (∃ k : ChanKey, ∃ s : State, ∃ e : ChanEntry, s.keyEntry k = some e ∧ e.key = k ∧ s.sentKey k = true ∧ e.exchange = false ∧ e.unacked ≠ 0 ∧
      s.remoteKey k = true) ∧
    (∃ k : ChanKey, ∃ s : State, ∃ e : ChanEntry, s.keyEntry k = some e ∧ e.key = k ∧ e.exchange = true ∧ e.unacked ≠ 0 ∧ s.remoteKey k = true ∧
      (∀ o ∈ s.iod.out, ¬ (o.dest = k.die / 5 ∧ o.packet.kind = 8 ∧ o.packet.stream = k.stream ∧ o.packet.chan = k.chan))) ∧
    (∃ src : Nat, ∃ p : Packet, ∃ s : State, (src, p) ∈ s.iod.inbox ∧ p.kind = 8 ∧ p.payload = [1]) ∧
    (∃ src : Nat, ∃ p : Packet, ∃ s : State, (src, p) ∈ s.iod.inbox ∧ p.kind = 8 ∧ let k : SeqKey := ⟨src, p.stream, p.chan⟩; p.payload ≠ [1] ∧ ∃ x,
      s.seqState k = some x) ∧
    (∃ src : Nat, ∃ p : Packet, ∃ s : State, (src, p) ∈ s.iod.inbox ∧ p.kind = 8 ∧ let k : SeqKey := ⟨src, p.stream, p.chan⟩; p.payload ≠ [1] ∧
      s.seqState k = none) ∧
    (∃ src : Nat, ∃ p : Packet, ∃ s : State, ∃ e : ChanEntry, (src, p) ∈ s.iod.inbox ∧ p.kind = 9 ∧ p.payload ≠ [2] ∧
      let k : ChanKey := ⟨p.stream, p.chan, src * 5 + 4⟩; s.keyEntry k = some e ∧ e.key = k ∧ e.exchange = true ∧ e.lostPackets = [] ∧ e.ackSeq < 65536 ∧
      ∃ n, n ≤ e.unacked ∧ n < 65536 ∧ p.seq = (e.ackSeq + n) % 65536) ∧
    (∃ src : Nat, ∃ p : Packet, ∃ s : State, ∃ e : ChanEntry, (src, p) ∈ s.iod.inbox ∧ p.kind = 9 ∧ p.payload = [2] ∧
      let k : ChanKey := ⟨p.stream, p.chan, src * 5 + 4⟩; s.keyEntry k = some e ∧ e.key = k ∧ e.exchange = true ∧ e.lostPackets = []) ∧
    (∃ src : Nat, ∃ p : Packet, ∃ s : State, ∃ e : ChanEntry, (src, p) ∈ s.iod.inbox ∧ p.kind = 9 ∧ p.payload = [2] ∧
      let k : ChanKey := ⟨p.stream, p.chan, src * 5 + 4⟩; s.keyEntry k = some e ∧ e.key = k ∧ e.exchange = true ∧ e.lostPackets ≠ []) ∧
    (∃ id : Nat, ∃ s : State, ∃ f : Flight, s.flight? id = some f ∧ f.rtag.isSome = true ∧ f.kind.returns = true ∧ f.performed = false ∧ 3 ≤ f.done) :=
  ⟨⟨3, packet1, state2, e0_0, by decide +kernel, by decide +kernel, by decide +kernel, by decide +kernel, by decide +kernel, by decide +kernel⟩,
   ⟨3, packet2, state2, e1_1, by decide +kernel, by decide +kernel, by decide +kernel, by decide +kernel, by decide +kernel, by decide +kernel,
      by decide +kernel, by decide +kernel⟩,
   ⟨K, state4, ((state4.keyEntry K).getD default), by decide +kernel, by decide +kernel, by decide +kernel⟩,
   ⟨K, state4, ((state4.keyEntry K).getD default), by decide +kernel, by decide +kernel, by decide +kernel, by decide +kernel, by decide +kernel,
      by decide +kernel⟩,
   ⟨K, state0, ((state0.keyEntry K).getD default), by decide +kernel, by decide +kernel, by decide +kernel, by decide +kernel, by decide +kernel,
      by decide +kernel⟩,
   ⟨3, packet6, state7, by decide +kernel, by decide +kernel, by decide +kernel⟩,
   ⟨3, packet8, state7, by decide +kernel, by decide +kernel, by decide +kernel, x6_2, by decide +kernel⟩,
   ⟨3, packet7, state7, by decide +kernel, by decide +kernel, by decide +kernel, by decide +kernel⟩,
   ⟨3, packet3, state3, e8_3, by decide +kernel, by decide +kernel, by decide +kernel, by decide +kernel, by decide +kernel, by decide +kernel,
      by decide +kernel, by decide +kernel, 0, by decide +kernel, by decide +kernel, by decide +kernel⟩,
   ⟨3, packet0, state0, e9_4, by decide +kernel, by decide +kernel, by decide +kernel, by decide +kernel, by decide +kernel, by decide +kernel,
      by decide +kernel⟩,
   ⟨3, packet0, state1, e10_5, by decide +kernel, by decide +kernel, by decide +kernel, by decide +kernel, by decide +kernel, by decide +kernel,
      by decide +kernel⟩,
   ⟨3, state10, ((state10.flight? 3).getD default), by decide +kernel, by decide +kernel, by decide +kernel, by decide +kernel, by decide +kernel⟩⟩
theorem wit_Resynchronisation_2 :
    (∃ k : SeqKey, ∃ s : State, ∃ x : SeqState, s.seqState k = some x ∧
      let acking : Prop := ∃ o ∈ s.iod.out, o.dest = k.src ∧ o.packet.kind = 6 ∧ o.packet.stream = k.stream ∧ o.packet.chan = k.chan;
      let due : Prop := x.heard + (if s.iod.keys.length < 262144 then 10000 else 3000) ≤ s.micros; (x.stored ≠ [] ∨ acking ∨ ¬ due)) ∧
    (∃ k : SeqKey, ∃ s : State, ∃ x : SeqState, s.seqState k = some x ∧
      let acking : Prop := ∃ o ∈ s.iod.out, o.dest = k.src ∧ o.packet.kind = 6 ∧ o.packet.stream = k.stream ∧ o.packet.chan = k.chan;
      let due : Prop := x.heard + (if s.iod.keys.length < 262144 then 10000 else 3000) ≤ s.micros; x.stored = [] ∧ ¬ acking ∧ due) :=
  ⟨⟨⟨3,6,2⟩, state0, x12_6, by decide +kernel, by decide +kernel⟩,
   ⟨⟨3,5,2⟩, state0, x13_7, by decide +kernel, by decide +kernel, by decide +kernel, by decide +kernel⟩⟩
end WResynchronisation

namespace WFabricLinks
def pe : BitVec 128 := BitVec.ofNat 128 (2^127 + 0xFFFF)
def p3 : Peer := { entry := pe, epoch := 1, sendKey := 5, recvKey := 6, prevEpoch := 3, prevRecvKey := 9, prevSendKey := 8, prevValid := true, counters := [(1, 7)], lastPlane := 0 }
def ln : Lane := { up := true, linkSeq := 4095, recvSeq := 4095, used := [(2, 3)], pool := [(2, 1)], granted := [(2, 5)], tagFail := 2 }
def fs : State := { stateA with port := { up := true }, plat := { stateA.plat with bootStatus := 0x10, device := 1 }, iod := { peers := [(1, { entry := pe }), (3, p3), (4, { entry := pe, kxSeq := 65535 }), (0, { entry := pe })], lanes := [(1, ln), (2, { ln with up := false }), (9, ln)], segments := [(3, BitVec.ofNat 128 (2^127 + 2^126 + 2^125 + 1 * 2^94 + 0x10000))] }, cycle := 123456789 }
def op (d vc k n : Nat) : OutPacket := { dest := d, vc := vc, packet := { stream := 5, chan := vc, seq := 3, kind := k, length := n, segment := 3, offset := 0x20, payload := (List.range n).map (BitVec.ofNat 8) }, key := if k ≤ 4 then some ⟨5,vc,15⟩ else none }
def out (os : List OutPacket) : State := { fs with iod := { fs.iod with out := os } }
def rp (n : Nat) : List (Nat × Frame) := (List.range n).map fun i => ((4094 + i) % 4096, { src := i })
def fl2 (l : Lane) : State := { fs with iod := { fs.iod with lanes := [(0, ln), (3, l)], out := [{ op 3 2 0 16 with sent := true, lane := 3 }], peers := [(3, { p3 with excluded := [3, 9, 3] })] } , cores := [(0, { chans := [{ key := ⟨5,2,15⟩, unacked := 2 }] })] }
def state2 : State := fl2 { ln with replay := rp 5 }
def state1 : State := fl2 { ln with replay := rp 1 }
def state3 : State := fl2 { ln with replay := rp 5, fails := 3 }
def state6 : State := fl2 { ln with up := false, retrained := true, lost := true }

theorem wit_FabricLinks :
    (∃ lane : Nat, ∃ s : State, let l := s.lane lane; ∃ seq : Nat, ∃ a : List (Nat × Frame), ∃ b : List (Nat × Frame), ∃ f : Frame, l.replay = a ++ (seq,
      f) :: b ∧ (∀ x ∈ a, x.1 ≠ seq)) ∧
    (∃ lane : Nat, ∃ s : State, let l := s.lane lane; ∃ i ∈ ([.linkNackReceived lane, .linkAckTimeout lane] : List Instr), l.replay = []) ∧
    (∃ lane : Nat, ∃ s : State, let l := s.lane lane; ∃ i ∈ ([.linkNackReceived lane, .linkAckTimeout lane] : List Instr), l.replay ≠ [] ∧ l.fails < 3) ∧
    (∃ lane : Nat, ∃ s : State, let l := s.lane lane; ∃ i ∈ ([.linkNackReceived lane, .linkAckTimeout lane] : List Instr), l.replay ≠ [] ∧ 3 ≤ l.fails) ∧
    (∃ lane : Nat, ∃ s : State, let l := s.lane lane; l.up = true) ∧
    (∃ lane : Nat, ∃ s : State, let l := s.lane lane; l.up = false ∧ lane < 128 ∧ s.plat.bootStatus = 0x10) ∧
    (∃ lane : Nat, ∃ s : State, let l := s.lane lane; l.up = false ∧ l.retrained = true) :=
  ⟨⟨3, state2, 0, rp 2, ((rp 5).drop 3), { src := 2 }, by decide +kernel, by decide +kernel⟩,
   ⟨0, fl2 ln, .linkNackReceived 0, by decide +kernel, by decide +kernel⟩,
   ⟨3, state1, .linkNackReceived 3, by decide +kernel, by decide +kernel, by decide +kernel⟩,
   ⟨3, state3, .linkNackReceived 3, by decide +kernel, by decide +kernel, by decide +kernel⟩,
   ⟨0, fl2 ln, by decide +kernel⟩,
   ⟨1, fl2 ln, by decide +kernel, by decide +kernel, by decide +kernel⟩,
   ⟨3, state6, by decide +kernel, by decide +kernel⟩⟩
end WFabricLinks

namespace WHandshakes
def pe : BitVec 128 := BitVec.ofNat 128 (2 ^ 127 + 0xFFFF)
def kA : KxMessage := { nonce := 11, pub := 13, report := [1], certs := [5, 6] }
def mA : KxMessage := { nonce := 99, pub := 123, report := bytesOf 7 52 ++ bytesOf 1 48 ++ bytesOf 2 48 ++ bytesOf 3 48 ++ bytesOf 77 144 ++ bytesOf 5 96, certs := [7, 8, 9] }
def bd (m : KxMessage) : List Byte := bytesOf m.nonce.toNat 32 ++ bytesOf m.pub.toNat 96 ++ m.report
def ins : List (List Byte) := [bd mA ++ mA.certs, bd mA ++ bytesOf mA.sig.toNat 96 ++ mA.certs, bytesOf mA.sig.toNat 96]
def pq (k : KxState) (ini : Bool) : Peer := { entry := pe, epoch := 1, sendKey := 5, recvKey := 6, prevEpoch := 3, prevValid := true, counters := [(1, 7)], kx := k, initiator := ini, kx1 := kA, kx2 := { mA with nonce := 4 }, priv := 55, kxIn := ins, kxSeq := 9 }
def hs (p : Peer) (dev : Nat) (out : List OutPacket) : State := { stateA with port := { up := true }, cycle := 123456789, plat := { stateA.plat with bootStatus := 0x10, device := dev, m0 := 1, m1 := 2, m2 := 3 }, iod := { peers := [(1, { entry := pe }), (3, p)], out := out } }
/-- A state that trusts other measurements only. -/
def wary (s : State) : State := { s with plat := { s.plat with trust := [(0, some (9, 9, 9))] } }
theorem trusts_false {s : State} {r c : List Byte} (h : ((s.plat.trust.filterMap fun e => e.2) ≠ []) ∧ ((s.plat.trust.filterMap fun e => e.2).any fun e =>
    decide (BitVec.ofNat 384 (slice r (52 + 48 * 0) 48) = e.1 ∧ BitVec.ofNat 384 (slice r (52 + 48 * 1) 48) = e.2.1 ∧ BitVec.ofNat 384 (slice r (52 + 48 * 2) 48) = e.2.2)) = false) :
    s.trusts r c = false := by
  simp only [State.trusts, h.1, if_false, h.2, Bool.and_false]
theorem trusts_true {s : State} {r c : List Byte} (h1 : Config.chainOk c (reportKey r) = true)
    (h2 : Config.ecdsaVerify (reportKey r) (Config.sha384 (r.take 340)) (BitVec.ofNat 768 (slice r 340 96)) = true)
    (h : (s.plat.trust.filterMap fun e => e.2) = [] ∧ (BitVec.ofNat 384 (slice r (52 + 48 * 0) 48) = s.plat.m0 ∧ BitVec.ofNat 384 (slice r (52 + 48 * 1) 48) = s.plat.m1 ∧
      BitVec.ofNat 384 (slice r (52 + 48 * 2) 48) = s.plat.m2)) : s.trusts r c = true := by
  simp only [State.trusts, h1, h2, h.1, h.2, if_true, Bool.and_self, and_self, decide_true]

theorem wit_Handshakes_1 :
    (∃ d : Nat, ∃ s : State, ∃ m : KxMessage, s.canShake d = true ∧ d < s.plat.device ∧ m.report.length = 436 ∧ m.sig = 0 ∧ bd m ++ m.certs ∉ (s.peer d).kxIn) ∧
    (∃ d : Nat, ∃ s : State, ∃ m : KxMessage, s.canShake d = true ∧ d < s.plat.device ∧ m.report.length = 436 ∧ m.sig = 0 ∧ bd m ++ m.certs ∈ (s.peer d).kxIn ∧
      s.trusts m.report m.certs = false) ∧
    (∃ d : Nat, ∃ s : State, ∃ m : KxMessage, s.canShake d = true ∧ (s.peer d).kx = .sentKx1 ∧ m.report.length = 436 ∧
      bd m ++ bytesOf m.sig.toNat 96 ++ m.certs ∈ (s.peer d).kxIn ∧
      (s.trusts m.report m.certs && Config.ecdsaVerify (reportKey m.report) (kx2Digest (s.peer d).kx1 m) m.sig) = false) ∧
    (∃ d : Nat, ∃ s : State, (s.peer d).kx = .sentKx1 ∨ (s.peer d).kx = .sentKx2) ∧
    (∃ d : Nat, ∃ s : State, (s.peer d).kx = .failed ∧ (s.peer d).initiator = true ∧ s.canShake d = true ∧ s.plat.device < d) ∧
    (∃ d : Nat, ∃ s : State, s.lossDue d = true) ∧
    (∃ d : Nat, ∃ s : State, s.keyed d = true ∧ (s.peer d).lost = false ∧ (∀ o ∈ s.iod.out, o.dest = d → o.sent = true)) :=
  ⟨⟨3, hs { pq .idle false with kxIn := [] } 5 [], mA, by decide +kernel, by decide +kernel, by decide +kernel, rfl, by decide +kernel⟩,
   ⟨3, wary (hs (pq .idle false) 5 []), mA, by decide +kernel, by decide +kernel, by decide +kernel, rfl, by decide +kernel, trusts_false (by decide +kernel)⟩,
   ⟨3, wary (hs (pq .sentKx1 true) 1 []), mA, by decide +kernel, by decide +kernel, by decide +kernel, by decide +kernel, by
      rw [trusts_false (by decide +kernel), Bool.false_and]⟩,
   ⟨3, hs (pq .sentKx1 true) 1 [], by decide +kernel⟩,
   ⟨3, hs (pq .failed true) 1 [], by decide +kernel, by decide +kernel, by decide +kernel, by decide +kernel⟩,
   ⟨3, hs (pq .idle true) 1 [], by decide +kernel⟩,
   ⟨3, hs (pq .idle true) 1 [], by decide +kernel, by decide +kernel, by decide +kernel⟩⟩

/-- Messages that verify. Whether a certificate chain and a signature hold is a free value (Config.chainOk, Config.ecdsaVerify), so the witness says what the
two are taken to answer; of the signature of KX3 either answer meets one of the two clauses. -/
theorem wit_Handshakes_2 (chain : Config.chainOk mA.certs (reportKey mA.report) = true)
    (report : Config.ecdsaVerify (reportKey mA.report) (Config.sha384 (mA.report.take 340)) (BitVec.ofNat 768 (slice mA.report 340 96)) = true)
    (signed : Config.ecdsaVerify (reportKey mA.report) (kx2Digest kA mA) mA.sig = true) :
    (∃ d : Nat, ∃ s : State, ∃ m : KxMessage, s.canShake d = true ∧ d < s.plat.device ∧ m.report.length = 436 ∧ m.sig = 0 ∧ bd m ++ m.certs ∈ (s.peer d).kxIn ∧
      s.trusts m.report m.certs = true) ∧
    (∃ d : Nat, ∃ s : State, ∃ m : KxMessage, s.canShake d = true ∧ (s.peer d).kx = .sentKx1 ∧ m.report.length = 436 ∧
      bd m ++ bytesOf m.sig.toNat 96 ++ m.certs ∈ (s.peer d).kxIn ∧
      (s.trusts m.report m.certs && Config.ecdsaVerify (reportKey m.report) (kx2Digest (s.peer d).kx1 m) m.sig) = true) :=
  ⟨⟨3, hs (pq .idle false) 5 [], mA, by decide +kernel, by decide +kernel, by decide +kernel, rfl, by decide +kernel, trusts_true chain report (by decide +kernel)⟩,
   ⟨3, hs (pq .sentKx1 true) 1 [], mA, by decide +kernel, by decide +kernel, by decide +kernel, by decide +kernel, by
      rw [trusts_true chain report (by decide +kernel), Bool.true_and]; exact signed⟩⟩

theorem wit_Handshakes_3 : ∃ d : Nat, ∃ s : State, ∃ m : KxMessage, s.canShake d = true ∧ (s.peer d).kx = .sentKx2 ∧ bytesOf m.sig.toNat 96 ∈ (s.peer d).kxIn ∧
    (Config.ecdsaVerify (reportKey (s.peer d).kx1.report) (kx3Digest (s.peer d).kx1 (s.peer d).kx2) m.sig = true ∨
      Config.ecdsaVerify (reportKey (s.peer d).kx1.report) (kx3Digest (s.peer d).kx1 (s.peer d).kx2) m.sig = false) :=
  ⟨3, hs (pq .sentKx2 false) 5 [], mA, by decide +kernel, by decide +kernel, by decide +kernel, by cases Config.ecdsaVerify _ _ _ <;> simp⟩
end WHandshakes

end Sys2Proof.Tests
end

/-! Which values the register fields of a well-formed word take, for the entries that list no operand mode (09 R181, R187, Table 66). -/

namespace Sys2Proof

/-! ### Field classes -/

theorem Fld.ok_none_iff {long : Bool} {x : BitVec 8} : Fld.none.ok long x = true ↔ x = 0 := by
  simp [Fld.ok, ← BitVec.toNat_inj]

theorem Fld.ok_s2_iff {long : Bool} {x : BitVec 8} : Fld.s2.ok long x = true ↔ x.toNat ≤ 127 ∧ x.toNat % 2 = 0 := by
  simp [Fld.ok]

theorem Fld.ok_qd_iff {long : Bool} {x : BitVec 8} : Fld.qd.ok long x = true ↔ x.toNat < 16 := by
  simp [Fld.ok]; omega

/-! ### Fields of words -/

/-- The low bits of a number, as a field of it (00 R6). -/
theorem field_low (x hi : Nat) : field x hi 0 = x % 2 ^ (hi + 1) := by simp [field]

/-- The immediate of class I is the number that b and c spell (R185). -/
theorem Args.imm_eq_toNat_append (x : Args) : x.imm = (x.b ++ x.c).toNat := by
  rw [BitVec.toNat_append, ← Nat.shiftLeft_add_eq_or_of_lt x.c.isLt, Nat.shiftLeft_eq]; rfl

/-! ### Checks of an entry -/

/-- An entry that lists no operand mode and whose qualifier is the common one. -/
structure Form.NoModes (f : Form) : Prop where
  qualifier : f.qOwn = false
  indexA : f.xa = false
  indexB : f.xb = false
  lane : f.xl = false

/-- A word without an error passes the checks of its modifiers, its register fields and its entry (Table 66). -/
theorem Form.checks_of_error_none {f : Form} {x : Args} (h : f.error x = none) :
    modifiersOk f x = true ∧ fieldsOk f x = true ∧ f.extra x = true := by
  simp only [Form.error, ite_eq_iff, reduceCtorEq, and_false, false_or, and_true] at h
  obtain ⟨-, -, hm, -, -, hf, hx⟩ := h
  exact ⟨by simpa using hm, by simpa using hf, by simpa using hx⟩

/-- The operand mode of an entry that lists none is 0 (R187, R188). -/
theorem xmode_eq_zero_of_modifiersOk {f : Form} {x : Args} (h : modifiersOk f x = true) (hn : f.NoModes) : x.xmode = 0 := by
  obtain ⟨hq, ha, hb, hl⟩ := hn
  have hzero : x.q = 0 → x.xmode = 0 := fun h => by rw [Args.xmode, h]; rfl
  simp only [modifiersOk, hq, ha, hb, hl, Bool.false_eq_true, if_false] at h
  split at h
  · exact hzero (by simpa using h)
  · split at h
    · exact hzero (by simpa using h)
    · split at h
      · assumption
      all_goals simp at h

/-- The fields of a well-formed word of an entry that lists no operand mode lie in the classes that the entry names (R181). -/
theorem Form.fields_of_error_none {f : Form} {x : Args} (h : f.error x = none) (hn : f.NoModes) :
    f.d.ok x.long x.d = true ∧ f.a.ok x.long x.a = true ∧ (f.cls ≠ .I → f.b.ok x.long x.b = true) ∧
      (f.cls ≠ .I → x.c = 0 ∨ f.c.ok x.long x.c = true) := by
  obtain ⟨hm, hf, -⟩ := Form.checks_of_error_none h
  have hx := xmode_eq_zero_of_modifiersOk hm hn
  simp only [fieldsOk, hx, hn.qualifier, Nat.reduceBEq, Bool.and_false, Bool.false_eq_true, ↓reduceIte, beq_iff_eq, Bool.if_true_left,
    Bool.and_eq_true, Bool.or_eq_true, decide_eq_true_eq, Bool.ite_eq_true_distrib] at hf
  obtain ⟨⟨⟨⟨-, hd⟩, ha'⟩, hb'⟩, hc⟩ := hf
  refine ⟨hd, ha', fun hi => hb'.resolve_left hi, fun hi => ?_⟩
  have hc' := hc.resolve_left hi
  split at hc'
  · exact .inl hc'
  · exact .inr hc'

/-- An entry that leaves its a field unused reserves it. -/
theorem Form.unused_a {f : Form} {x : Args} (h : f.error x = none) (hn : f.NoModes) (ha : f.a = .none) : x.a = 0 := by
  obtain ⟨-, ha', -⟩ := Form.fields_of_error_none h hn
  exact Fld.ok_none_iff.1 (ha ▸ ha')

/-- An operation on pairs names even registers (R181, R218); whether its b field names a pair depends on the entry. -/
theorem Form.pairs_even {f : Form} {x : Args} {bIsPair : Prop} (h : f.error x = none) (hn : f.NoModes) (hd : f.d = .s2) (ha : f.a = .s2)
    (hb : bIsPair → f.b = .s2 ∧ f.cls ≠ .I) : x.d.toNat % 2 = 0 ∧ x.a.toNat % 2 = 0 ∧ (bIsPair → x.b.toNat % 2 = 0) := by
  obtain ⟨hd', ha', hb', -⟩ := Form.fields_of_error_none h hn
  refine ⟨(Fld.ok_s2_iff.1 (hd ▸ hd')).2, (Fld.ok_s2_iff.1 (ha ▸ ha')).2, fun hp => ?_⟩
  obtain ⟨hbp, hi⟩ := hb hp
  exact (Fld.ok_s2_iff.1 (hbp ▸ hb' hi)).2

/-- Predicate operations of one source reserve b (R219). -/
theorem qopOk_unused_b {x : Args} (h : qopOk x = true) (hcode : 5 ≤ x.sub.toNat % 8) : x.b = 0 := by
  simp only [qopOk, Bool.and_eq_true, Bool.or_eq_true, decide_eq_true_eq, beq_iff_eq] at h
  exact h.2.resolve_left (by omega)

end Sys2Proof

/-! The results of Tables 70 and 71 (10): the model's arithmetic on numbers is the arithmetic of bit vectors that the statements are written in. -/

namespace Sys2Proof.Machine

/-! ### At any width -/

theorem signedOf_eq_toInt_ofNat (x w : Nat) : signedOf x w = (BitVec.ofNat w x).toInt := by
  simp only [signedOf, BitVec.toInt_eq_toNat_cond, BitVec.toNat_ofNat]
  push_cast
  split <;> split <;> omega

theorem signedOf_toNat {w : Nat} (A : BitVec w) : signedOf A.toNat w = A.toInt := by
  rw [signedOf_eq_toInt_ofNat, BitVec.ofNat_toNat, BitVec.setWidth_eq]

theorem ofNat_wrapU_width (x : Int) (w : Nat) : BitVec.ofNat w (wrapU x w) = BitVec.ofInt w x := by
  apply BitVec.eq_of_toNat_eq
  have h : 0 ≤ x % (2 : Int) ^ w := Int.emod_nonneg _ (by positivity)
  have h' : x % (2 : Int) ^ w < 2 ^ w := Int.emod_lt_of_pos _ (by positivity)
  have hlt : (x % (2 : Int) ^ w).toNat < 2 ^ w := by zify; rwa [Int.toNat_of_nonneg h]
  simp [wrapU, Nat.mod_eq_of_lt hlt]

/-- Clamping by cases is clamping by minimum and maximum. -/
theorem satS_eq_max_min (x : Int) (w : Nat) : satS x w = max (-(2 ^ (w - 1))) (min (2 ^ (w - 1) - 1) x) := by
  have : (0 : Int) < 2 ^ (w - 1) := by positivity
  simp only [satS]
  generalize (2 : Int) ^ (w - 1) = h at *
  split <;> [skip; split] <;> omega

theorem ofNat_intResult_width (sat : Bool) (u v : Int) (w : Nat) :
    BitVec.ofNat w (intResult sat u v w) = if sat then satBits w v else BitVec.ofInt w u := by
  cases sat <;> simp [intResult, ofNat_wrapU_width, satS_eq_max_min, satBits]

theorem ofInt_sub_natCast {w : Nat} (A B : BitVec w) : BitVec.ofInt w ((A.toNat : Int) - B.toNat) = A - B := by
  simp [Int.sub_eq_add_neg, BitVec.ofInt_add, BitVec.ofInt_neg, BitVec.sub_eq_add_neg]

theorem ofInt_add_natCast {w : Nat} (A B : BitVec w) : BitVec.ofInt w ((A.toNat : Int) + B.toNat) = A + B := by
  simp [BitVec.ofInt_add]

/-! ### Sums and differences -/

section
variable (sat : Bool)

theorem ofNat_addResult (A B : Word) : BitVec.ofNat 32 (intResult sat (A.toNat + B.toNat) (s32 A.toNat + s32 B.toNat) 32) =
    if sat then satBits 32 (A.toInt + B.toInt) else A + B := by
  rw [ofNat_intResult, s32_toInt, s32_toInt, ofInt_add_toNat]

theorem ofNat_subResult (A B : Word) : BitVec.ofNat 32 (intResult sat ((A.toNat : Int) - B.toNat) (s32 A.toNat - s32 B.toNat) 32) =
    if sat then satBits 32 (A.toInt - B.toInt) else A - B := by
  rw [ofNat_intResult, s32_toInt, s32_toInt, ofInt_sub_toNat]

theorem ofNat_addResult64 (A B : DWord) : BitVec.ofNat 64 (intResult sat (A.toNat + B.toNat) (signedOf A.toNat 64 + signedOf B.toNat 64) 64) =
    if sat then satBits 64 (A.toInt + B.toInt) else A + B := by
  rw [ofNat_intResult_width, signedOf_toNat, signedOf_toNat, ofInt_add_natCast]

theorem ofNat_subResult64 (A B : DWord) : BitVec.ofNat 64 (intResult sat ((A.toNat : Int) - B.toNat) (signedOf A.toNat 64 - signedOf B.toNat 64) 64) =
    if sat then satBits 64 (A.toInt - B.toInt) else A - B := by
  rw [ofNat_intResult_width, signedOf_toNat, signedOf_toNat, ofInt_sub_natCast]

end

section
variable (A B C : Word)

/-! ### Shifts and rotation -/

/-- A right shift of a 32-bit value by more than 31 places is one by 31 places. -/
theorem ediv_two_pow_min {x : Int} (h : -2 ^ 31 ≤ x) (h' : x < 2 ^ 31) (k : Nat) : x / 2 ^ min k 31 = x / 2 ^ k := by
  rcases Nat.le_total k 31 with hk | hk
  · rw [Nat.min_eq_left hk]
  · have hp : (2 : Int) ^ 31 ≤ 2 ^ k := pow_le_pow_right₀ (by decide) hk
    rw [Nat.min_eq_right hk]
    rcases lt_or_ge x 0 with hx | hx
    · rw [Int.ediv_eq_neg_one_of_neg_of_le hx (by omega), Int.ediv_eq_neg_one_of_neg_of_le hx (by omega)]
    · rw [Int.ediv_eq_zero_of_lt hx h', Int.ediv_eq_zero_of_lt hx (by omega)]

theorem ofNat_sra32 : BitVec.ofNat 32 (sra32 A.toNat B.toNat) = A.sshiftRight B.toNat := by
  have hl := A.le_toInt
  have hh := A.toInt_lt
  rw [sra32, ofNat_wrapU, s32_toInt, ediv_two_pow_min hl hh, BitVec.sshiftRight, Int.shiftRight_eq_div_pow]
  norm_cast

/-- The high part of a rotation lies above its low part, so that their sum is their union. -/
theorem ofNat_rot32 : BitVec.ofNat 32 (rot32 A.toNat B.toNat) = A.rotateLeft B.toNat := by
  apply BitVec.eq_of_toNat_eq
  have hk : B.toNat % 32 < 32 := Nat.mod_lt _ (by decide)
  rw [rot32, BitVec.toNat_rotateLeft, BitVec.toNat_ofNat, Nat.mod_mod]
  generalize B.toNat % 32 = k at *
  have hlow : A.toNat >>> (32 - k) < 2 ^ k := by
    rw [Nat.shiftRight_eq_div_pow]
    apply Nat.div_lt_of_lt_mul
    rw [← Nat.pow_add, Nat.sub_add_cancel hk.le]
    exact A.isLt
  have hlow' : A.toNat >>> (32 - k) < 2 ^ 32 := hlow.trans (Nat.pow_lt_pow_right (by decide) hk)
  rw [← Nat.shiftRight_eq_div_pow, ← Nat.shiftLeft_eq, Nat.shiftLeft_add_eq_or_of_lt hlow, Nat.or_mod_two_pow, Nat.mod_eq_of_lt hlow']

/-! ### Bit fields -/

theorem bfPos_toNat : bfPos B.toNat = fieldAt B := by rw [bfPos, field_low]; rfl
theorem bfLen_toNat : bfLen B.toNat = fieldLen B := by
  simp [bfLen, fieldLen, bfPos_toNat, field, Nat.shiftRight_eq_div_pow]

/-- A field is cut at bit 31. -/
theorem fieldAt_add_fieldLen_le : fieldAt B + fieldLen B ≤ 32 := by
  simp only [fieldLen, fieldAt]; omega

/-- The mask of the low `k` bits. -/
theorem toNat_lowMask {k : Nat} (hk : k ≤ 32) : (BitVec.ofNat 32 (2 ^ k - 1)).toNat = 2 ^ k - 1 := by
  have : 2 ^ k ≤ 2 ^ 32 := Nat.pow_le_pow_right (by decide) hk
  rw [BitVec.toNat_ofNat]; exact Nat.mod_eq_of_lt (by have := Nat.two_pow_pos k; omega)

/-- A value of `k` bits that is shifted within the word loses no bit. -/
theorem toNat_shiftLeft_of_fits {p k : Nat} (hpk : p + k ≤ 32) (hA : A.toNat < 2 ^ k) : (A <<< p).toNat = A.toNat * 2 ^ p := by
  have h : A.toNat * 2 ^ p < 2 ^ 32 := calc
    A.toNat * 2 ^ p < 2 ^ k * 2 ^ p := Nat.mul_lt_mul_of_pos_right hA (Nat.two_pow_pos p)
    _ = 2 ^ (p + k) := by rw [← Nat.pow_add, Nat.add_comm]
    _ ≤ 2 ^ 32 := Nat.pow_le_pow_right (by decide) hpk
  rw [BitVec.toNat_shiftLeft, Nat.shiftLeft_eq, Nat.mod_eq_of_lt h]

theorem ofNat_bfe32 : BitVec.ofNat 32 (bfe32 A.toNat B.toNat) = fieldOut A B := by
  have hlen : fieldLen B ≤ 32 := by have := fieldAt_add_fieldLen_le B; omega
  apply BitVec.eq_of_toNat_eq
  rw [bfe32, bfPos_toNat, bfLen_toNat, fieldOut, BitVec.toNat_and, toNat_lowMask hlen, Nat.and_two_pow_sub_one_eq_mod, BitVec.toNat_ushiftRight,
    Nat.shiftRight_eq_div_pow, BitVec.toNat_ofNat]
  exact Nat.mod_eq_of_lt ((Nat.mod_lt _ (Nat.two_pow_pos _)).trans_le (Nat.pow_le_pow_right (by decide) hlen))

theorem ofNat_bfi32 : BitVec.ofNat 32 (bfi32 A.toNat B.toNat C.toNat) = fieldIn A B C := by
  have hfit := fieldAt_add_fieldLen_le B
  have hlen : fieldLen B ≤ 32 := by omega
  have hmask := toNat_lowMask hlen
  have hpos := Nat.two_pow_pos (fieldLen B)
  have hm := toNat_shiftLeft_of_fits (BitVec.ofNat 32 (2 ^ fieldLen B - 1)) hfit (by omega)
  have hlow : (A &&& BitVec.ofNat 32 (2 ^ fieldLen B - 1)).toNat = A.toNat % 2 ^ fieldLen B := by
    rw [BitVec.toNat_and, hmask, Nat.and_two_pow_sub_one_eq_mod]
  have hin := toNat_shiftLeft_of_fits (A &&& BitVec.ofNat 32 (2 ^ fieldLen B - 1)) hfit (hlow ▸ Nat.mod_lt _ hpos)
  have hval : bfi32 A.toNat B.toNat C.toNat = (fieldIn A B C).toNat := by
    simp only [bfi32, fieldIn, bfPos_toNat, bfLen_toNat, ← BitVec.shiftLeft_and_distrib, BitVec.toNat_or, BitVec.toNat_and C, BitVec.toNat_not,
      hm, hin, hmask, hlow]
  rw [hval, BitVec.ofNat_toNat, BitVec.setWidth_eq]

/-! ### Complement and bit counts -/

theorem ofNat_complement : BitVec.ofNat 32 (2 ^ 32 - 1 - A.toNat) = ~~~A := by
  rw [← BitVec.toNat_not, BitVec.ofNat_toNat, BitVec.setWidth_eq]

theorem ofNat_clz32 : BitVec.ofNat 32 (clz32 A.toNat) = A.clz := by
  by_cases hA : A = 0#32
  · subst hA; decide
  · have hne : A.toNat ≠ 0 := fun h => hA (BitVec.eq_of_toNat_eq h)
    have hle := BitVec.two_pow_sub_clz_le_toNat_of_ne_zero (by decide) hA
    have hlt := BitVec.toNat_lt_two_pow_sub_clz (x := A)
    have hclz : A.clz.toNat < 32 := by
      by_contra h
      rw [show 32 - A.clz.toNat = 0 by omega] at hlt
      omega
    have hlog : A.toNat.log2 = 31 - A.clz.toNat :=
      (Nat.log2_eq_iff hne).2 ⟨hle, (show 32 - A.clz.toNat = 31 - A.clz.toNat + 1 by omega) ▸ hlt⟩
    rw [clz32, if_neg hne, hlog, show 31 - (31 - A.clz.toNat) = A.clz.toNat by omega, BitVec.ofNat_toNat, BitVec.setWidth_eq]

theorem popCount_eq_length (x : Nat) : ∀ n, popCount x n = ((List.range n).filter x.testBit).length
  | 0 => rfl
  | n + 1 => by
    rw [popCount, popCount_eq_length x n, List.range_succ, List.filter_append, List.length_append, Nat.add_comm]
    cases h : x.testBit n <;> simp [h]

theorem popCount_toNat : popCount A.toNat 32 = onesIn A := popCount_eq_length A.toNat 32

/-! ### Immediates -/

theorem uImm_toInt (x : Args) : uImm x = (immWord x).toInt := by
  rw [uImm, immWord, Args.imm_eq_toNat_append]
  cases x.long
  · simp only [Bool.false_eq_true, if_false, signedOf_eq_toInt_ofNat, BitVec.toInt_signExtend_of_le (show 11 ≤ 32 by decide)]
  · simp only [if_true, signedOf_toNat, BitVec.toInt_signExtend_of_le (show 16 ≤ 32 by decide)]

theorem ofNat_wrapU_uImm (x : Args) : BitVec.ofNat 32 (wrapU (uImm x) 32) = immWord x := by
  rw [ofNat_wrapU, uImm_toInt, BitVec.ofInt_toInt]

/-- SADDI reads its immediate as a signed number, whichever way its sum is formed. -/
theorem ofNat_saddi (x : Args) : BitVec.ofNat 32 (intResult x.sat (A.toNat + uImm x) (s32 A.toNat + uImm x) 32) =
    if x.sat then satBits 32 (A.toInt + (immWord x).toInt) else A + immWord x := by
  rw [ofNat_intResult, s32_toInt, uImm_toInt, BitVec.ofInt_add, BitVec.ofInt_natCast, BitVec.ofInt_toInt, BitVec.ofNat_toNat, BitVec.setWidth_eq]

/-- SMOVH sets the high half of a word and keeps the low half. -/
theorem ofNat_smovh (x : Args) : BitVec.ofNat 32 (x.imm * 2 ^ 16 + A.toNat % 2 ^ 16) = (x.b ++ x.c) ++ A.truncate 16 := by
  have h : A.toNat % 2 ^ 16 < 2 ^ 16 := Nat.mod_lt _ (by decide)
  apply BitVec.eq_of_toNat_eq
  rw [BitVec.toNat_append, BitVec.truncate_eq_setWidth, BitVec.toNat_setWidth, ← Nat.shiftLeft_add_eq_or_of_lt h, Nat.shiftLeft_eq,
    ← Args.imm_eq_toNat_append, BitVec.toNat_ofNat]
  apply Nat.mod_eq_of_lt
  have := (x.b ++ x.c).isLt
  rw [← Args.imm_eq_toNat_append] at this
  omega

end

/-! ### Pairs -/

theorem State.spair_toNat (s : State) (n : Nat) : s.spair n = (s.pairS n).toNat := by
  rw [State.pairS, BitVec.toNat_append, ← Nat.shiftLeft_add_eq_or_of_lt (BitVec.isLt _), Nat.shiftLeft_eq, Nat.add_comm, Nat.mul_comm]; rfl

/-- A pair that is written by halves holds the whole number. -/
theorem append_ofNat_halves (v : Nat) : BitVec.ofNat 32 (v / 2 ^ 32) ++ BitVec.ofNat 32 (v % 2 ^ 32) = BitVec.ofNat 64 v := by
  apply BitVec.eq_of_toNat_eq
  rw [BitVec.toNat_append, ← Nat.shiftLeft_add_eq_or_of_lt (BitVec.isLt _), Nat.shiftLeft_eq]
  simp only [BitVec.toNat_ofNat]
  omega

theorem ofNat_mul_width {w : Nat} (A B : BitVec w) : BitVec.ofNat w (A.toNat * B.toNat % 2 ^ w) = A * B := by
  apply BitVec.eq_of_toNat_eq; simp

theorem ofNat_shift64 (A : DWord) (n : Int) : BitVec.ofNat 64 (shift64 A.toNat n) = shiftBy A n := by
  rw [shift64, shiftBy]
  by_cases hn : 0 ≤ n
  · by_cases hbig : 64 ≤ n
    · rw [if_pos (.inl hbig), if_pos hn, BitVec.shiftLeft_eq_zero (by omega)]
    · rw [if_neg (by omega), if_pos hn, if_pos hn]
      apply BitVec.eq_of_toNat_eq; simp [Nat.shiftLeft_eq]
  · by_cases hbig : n ≤ -64
    · rw [if_pos (.inr hbig), if_neg hn, BitVec.ushiftRight_eq_zero (by omega)]
    · rw [if_neg (by omega), if_neg hn, if_neg hn, ← Nat.shiftRight_eq_div_pow, ← BitVec.toNat_ushiftRight,
        BitVec.ofNat_toNat, BitVec.setWidth_eq]

/-! ### Conditions of Table 64 -/

theorem condInt_eq_meets (A B : Word) (code : Nat) : condInt code A.toNat B.toNat = meets code A B := by
  have heq : (A.toInt == B.toInt) = (A == B) := by
    rw [Bool.eq_iff_iff, beq_iff_eq, beq_iff_eq, BitVec.toInt_inj]
  match code with
  | 0 | 1 => simp only [condInt, meets, s32_toInt, bne, heq]
  | 2 | 3 | 4 | 5 => simp only [condInt, meets, s32_toInt, BitVec.slt_eq_decide, BitVec.sle_eq_decide, gt_iff_lt, ge_iff_le]
  | 6 | n + 7 => simp only [condInt, meets, BitVec.ult_eq_decide, BitVec.ule_eq_decide, ge_iff_le]

theorem condPred_eq_joins (code : Nat) (a b : Bool) : condPred code a b = joins code a b := by
  match code with
  | 0 | 1 | 2 | 3 | 4 | 5 | n + 6 => rfl

end Sys2Proof.Machine

/-! What the uniform operations (10 R216 to R219) do beyond Laws/Arith.lean: copies and pairs of s-registers. -/

namespace Sys2Proof.Machine

/-- Sources that hold no poison pass the one check of most uniform operations. -/
theorem State.CleanS.checks_pass {s : State} {regs : List Nat} (hc : s.CleanS regs) : ∀ c ∈ [s.poisonS regs], c = none := by
  simpa using State.poisonS_none.2 hc

theorem State.ofNat_sr (s : State) (n : Nat) : BitVec.ofNat 32 (s.sr n) = (s.sreg n).val := by
  rw [State.sr, BitVec.ofNat_toNat, BitVec.setWidth_eq]

/-- A uniform instruction that writes one s-register with its poison. -/
theorem uniformOp_setS {s : State} {x : Args} {faults : List (Option Code)} {d : Nat} {v : PWord} (hg : s.guardU x.gp x.gn = true)
    (hf : ∀ c ∈ faults, c = none) :
    ∃ t, uniformOp s x faults (fun t => t.setS d v) = .next t ∧ t.sreg d = v ∧ OnlyS s t x [d] := by
  refine ⟨_, uniformOp_next hg hf, ?_, rfl, fun n hn => ?_⟩
  · exact (State.sreg_setS s d d v).trans (if_pos rfl)
  · exact (State.sreg_setS s d n v).trans (if_neg (by simpa using hn))

/-- A uniform instruction that writes a pair of s-registers, as a 64-bit value. -/
theorem uniformOp_setPair {s : State} {x : Args} {regs : List Nat} {d v : Nat} {r : DWord} (hg : s.guardU x.gp x.gn = true)
    (hc : s.CleanS regs) (hr : BitVec.ofNat 64 v = r) :
    ∃ t, uniformOp s x [s.poisonS regs] (fun t => t.setSpair d v) = .next t ∧ t.pairS d = r ∧ (t.sreg d).poison = false ∧
      (t.sreg (d + 1)).poison = false ∧ OnlyS s t x [d, d + 1] := by
  obtain ⟨t, ht, hlo, hhi, honly⟩ := uniformOp_setSpair (d := d) (v := v) hg hc.checks_pass
  refine ⟨t, ht, ?_, by rw [hlo], by rw [hhi], honly⟩
  rw [State.pairS, hlo, hhi, append_ofNat_halves, hr]

/-- A uniform operation of two pairs. -/
theorem uni64_next {s : State} {x : Args} {f : Nat → Nat → Nat} {r : DWord} (hg : s.guardU x.gp x.gn = true)
    (hc : s.CleanS [x.a.toNat, x.a.toNat + 1, x.b.toNat, x.b.toNat + 1])
    (hr : BitVec.ofNat 64 (f (s.pairS x.a.toNat).toNat (s.pairS x.b.toNat).toNat) = r) :
    ∃ t, uni64 s x f = .next t ∧ t.pairS x.d.toNat = r ∧ (t.sreg x.d.toNat).poison = false ∧ (t.sreg (x.d.toNat + 1)).poison = false ∧
      OnlyS s t x [x.d.toNat, x.d.toNat + 1] :=
  uniformOp_setPair hg hc (by rw [State.spair_toNat, State.spair_toNat, hr])

end Sys2Proof.Machine

/-! The statements about the uniform set (10 R216 to R219). -/

namespace Sys2Proof.Machine

/-- Settles O7: each row of Table 70 is one of the shared shapes of uniform operations, and its result is a law of the arithmetic above. -/
theorem uniformResults : Obligations.UniformResults := by
  unfold Obligations.UniformResults
  intro x s hg
  simp only [List.forall_mem_cons]
  dsimp only [exec]
  refine ⟨⟨rfl, fun hc => uni2_next hg hc (ofNat_addResult _ _ _)⟩,
    ⟨rfl, fun hc => uni2_next hg hc (ofNat_subResult _ _ _)⟩,
    ⟨rfl, fun hc => uni2_next hg hc (ofNat_mul _ _)⟩,
    ⟨rfl, fun hc => uni2_next hg hc (ofNat_mulh32 _ _)⟩,
    ⟨rfl, fun hc => uni3_next hg hc (ofNat_mad _ _ _)⟩,
    ⟨rfl, fun hc => uni2_next hg hc (ofNat_sdiv32 _ _)⟩,
    ⟨rfl, fun hc => uni2_next hg hc (ofNat_srem32 _ _)⟩,
    ⟨rfl, fun hc => uni2_next hg hc (ofNat_land _ _)⟩,
    ⟨rfl, fun hc => uni2_next hg hc (ofNat_lor _ _)⟩,
    ⟨rfl, fun hc => uni2_next hg hc (ofNat_xor _ _)⟩,
    ⟨rfl, fun hc => uni2_next hg hc (ofNat_shl32 _ _)⟩,
    ⟨rfl, fun hc => uni2_next hg hc (ofNat_shr32 _ _)⟩,
    ⟨rfl, fun hc => uni2_next hg hc (ofNat_sra32 _ _)⟩,
    ⟨rfl, fun hc => uni2_next hg hc (ofNat_rot32 _ _)⟩,
    ⟨rfl, fun hc => uni2_next hg hc (ofNat_smin32 _ _)⟩,
    ⟨rfl, fun hc => uni2_next hg hc (ofNat_smax32 _ _)⟩,
    ⟨rfl, fun hc => uni2_next hg hc (ofNat_bfe32 _ _)⟩,
    ⟨rfl, fun hc => uni3_next hg hc (ofNat_bfi32 _ _ _)⟩,
    ⟨rfl, fun hc => uni1_next hg hc (ofNat_complement _)⟩,
    ⟨rfl, fun hc => uni1_next hg hc (ofNat_clz32 _)⟩,
    ⟨rfl, fun hc => uni1_next hg hc (congrArg _ (popCount_toNat _))⟩,
    ⟨rfl, fun hc => ?_⟩, List.forall_mem_nil _⟩
  -- SMOV copies a source that holds no poison.
  obtain ⟨t, ht, hd, honly⟩ := uniformOp_setS (d := x.d.toNat) (v := s.sreg x.a.toNat) hg (faults := []) (by simp)
  have hclean : (s.sreg x.a.toNat).poison = false := hc _ (by simp)
  exact ⟨t, ht, by rw [hd, ← hclean], honly⟩

/-- Settles O8: the immediate forms and the copy write one s-register, the 64-bit operations a pair, by shapes whose operands are read from the state
before the write; the fields of well-formed words lie in the classes of their entries. -/
theorem uniformMovesAndPairs : Obligations.UniformMovesAndPairs := by
  unfold Obligations.UniformMovesAndPairs
  intro x s hg
  simp only [List.forall_mem_cons]
  dsimp only [exec]
  refine ⟨⟨⟨rfl, fun hc => uni1_next hg hc (ofNat_saddi _ _)⟩, ⟨rfl, fun _ => ?_⟩, ⟨rfl, fun hc => ?_⟩,
      ⟨rfl, fun _ => uniformOp_setS hg (by simp)⟩, List.forall_mem_nil _⟩,
    ⟨fun hw => Form.unused_a hw.2 ⟨rfl, rfl, rfl, rfl⟩ rfl, fun hw => Form.unused_a hw.2 ⟨rfl, rfl, rfl, rfl⟩ rfl,
      List.forall_mem_nil _⟩,
    ⟨rfl, fun hw => Form.pairs_even hw.2 ⟨rfl, rfl, rfl, rfl⟩ rfl rfl fun _ => ⟨rfl, nofun⟩,
      fun hc => uni64_next hg hc (ofNat_addResult64 _ _ _)⟩,
    ⟨rfl, fun hw => Form.pairs_even hw.2 ⟨rfl, rfl, rfl, rfl⟩ rfl rfl fun _ => ⟨rfl, nofun⟩,
      fun hc => uni64_next hg hc (ofNat_subResult64 _ _ _)⟩,
    ⟨rfl, fun hw => Form.pairs_even hw.2 ⟨rfl, rfl, rfl, rfl⟩ rfl rfl fun _ => ⟨rfl, nofun⟩,
      fun hc => uni64_next hg hc (ofNat_mul_width _ _)⟩,
    ⟨rfl, fun hw => Form.pairs_even hw.2 ⟨rfl, rfl, rfl, rfl⟩ rfl rfl (by simp), fun hc =>
      uniformOp_setPair hg hc (by rw [State.spair_toNat, ofNat_shift64, State.sr, s32_toInt])⟩, List.forall_mem_nil _⟩
  · rw [← ofNat_wrapU_uImm]
    exact uniformOp_setSw hg (by simp)
  · rw [← ofNat_smovh]
    exact uniformOp_setSw hg hc.checks_pass

/-- Settles O9: the conditions and operations of Table 64 are those of the model, and the fields of well-formed words lie in the classes of their
entries. -/
theorem uniformPredicates : Obligations.UniformPredicates := by
  unfold Obligations.UniformPredicates
  intro x s hg
  have hcode : field x.sub.toNat 2 0 = x.sub.toNat % 8 := field_low _ _
  have hk : field x.c.toNat 3 0 = x.c.toNat % 16 := field_low _ _
  dsimp only [exec]
  refine ⟨rfl, rfl, rfl, fun hc hd => ?_, fun hd => ?_, fun hw => ?_, fun hw => ?_, fun hc => ?_⟩
  · rw [← hcode, ← condInt_eq_meets]
    exact uniformOp_setQ hd hg hc.checks_pass
  · rw [← hcode, ← condPred_eq_joins]
    exact uniformOp_setQ hd hg (by simp)
  · obtain ⟨hd, ha, hb, -⟩ := Form.fields_of_error_none hw.2 ⟨rfl, rfl, rfl, rfl⟩
    obtain ⟨-, -, hx⟩ := Form.checks_of_error_none hw.2
    exact ⟨Fld.ok_qd_iff.1 hd, Fld.ok_qd_iff.1 ha, Fld.ok_qd_iff.1 (hb nofun), qopOk_unused_b hx⟩
  · obtain ⟨-, -, -, hc⟩ := Form.fields_of_error_none hw.2 ⟨rfl, rfl, rfl, rfl⟩
    rcases hc nofun with hc | hc
    · simp [hc]
    · exact Fld.ok_qd_iff.1 hc
  · rw [← hk, ← State.ofNat_sr, ← State.ofNat_sr, ← apply_ite (BitVec.ofNat 32)]
    exact uniformOp_setSw hg hc.checks_pass

end Sys2Proof.Machine

/-! What the lane predicates (11 R253) and the reads and votes across lanes (R254 to R256) do beyond Laws/Exec.lean. -/

namespace Sys2Proof

theorem Fld.ok_p_iff {long : Bool} {x : BitVec 8} : Fld.p.ok long x = true ↔ x.toNat < 48 := by
  simp [Fld.ok]; omega

/-- An entry on lane predicates alone names p0 to p47, in b too where it uses b, and no operand mode (R253). -/
theorem Form.predicate_fields {f : Form} {x : Args} (h : f.error x = none) (hn : f.NoModes) (hi : f.cls ≠ .I) (hd : f.d = .p) (ha : f.a = .p)
    (hb : f.b = .p ∨ f.b = .none) : x.d.toNat < 48 ∧ x.a.toNat < 48 ∧ x.b.toNat < 48 ∧ x.xmode = 0 := by
  obtain ⟨hm, -, -⟩ := Form.checks_of_error_none h
  obtain ⟨hd', ha', hb', -⟩ := Form.fields_of_error_none h hn
  refine ⟨Fld.ok_p_iff.1 (hd ▸ hd'), Fld.ok_p_iff.1 (ha ▸ ha'), ?_, xmode_eq_zero_of_modifiersOk hm hn⟩
  rcases hb with hb | hb
  · exact Fld.ok_p_iff.1 (hb ▸ hb' hi)
  · have hzero : x.b = 0 := Fld.ok_none_iff.1 (hb ▸ hb' hi)
    simp [hzero]

end Sys2Proof

namespace Sys2Proof.Machine

/-! ### Results of lane instructions -/

/-- An instruction that names no v-register waits for none. -/
theorem State.waitsV_nil (s : State) : s.waitsV [] = false := by
  have hp : s.pendingV [] = false := by
    simp only [State.pendingV, State.pendingIn, List.map_nil, List.any_nil, List.any_eq_false]
    intro f _
    cases f.dst <;> simp
  have hl : s.loadingV [] = false := by
    unfold State.loadingV
    cases s.cur.region <;> simp
  rw [State.waitsV, hp, hl]; rfl

/-- A lane instruction on predicates alone. -/
theorem laneRun_predicates {s : State} {x : Args} {n : Nat} {ls : List Nat} {val : Nat → Bool} (hn : n < 48) :
    ∃ t, laneRun s x 1 [] [] [] (s.writePreds ls n val) = .next t ∧ (∀ l ∈ ls, t.p l n = val l) ∧ OnlyP s t x (s.laneCost 1 []) ls n :=
  laneRun_writePreds hn s.waitsV_nil (by simp) (by simp)

/-- The predicate operations of two sources, the first inverted under .NEG (R253). -/
theorem lanePred_next {s : State} {x : Args} {f : Bool → Bool → Bool} (hd : x.d.toNat < 48) :
    ∃ t, lanePred s x f = .next t ∧
      (∀ l ∈ s.lanesFor x, t.p l x.d.toNat = f (if x.neg then !s.p l x.a.toNat else s.p l x.a.toNat) (s.p l x.b.toNat)) ∧
      OnlyP s t x (s.laneCost 1 []) (s.lanesFor x) x.d.toNat := by
  have hneg : ∀ l, xor (s.p l x.a.toNat) x.neg = if x.neg then !s.p l x.a.toNat else s.p l x.a.toNat := fun l => by cases x.neg <;> simp
  simp only [← hneg]
  exact laneRun_predicates hd

/-- A lane instruction whose results are given as words. -/
theorem laneRun_writeLanes_word {s : State} {x : Args} {interval d : Nat} {named used : List Nat} {faults : List (Option Code)} {ls : List Nat}
    {val : Nat → Nat} {r : Nat → Word} (hw : s.waitsV used = false) (hb : ∀ r ∈ named, r < s.budget) (hf : ∀ c ∈ faults, c = none)
    (hr : ∀ l ∈ ls, BitVec.ofNat 32 (val l) = r l) :
    ∃ t, laneRun s x interval named used faults (s.writeLanes ls d val) = .next t ∧ (∀ l ∈ ls, t.vreg l d = ⟨r l, false⟩) ∧
      OnlyV s t x (s.laneCost interval used) (s.keysOf ls d) := by
  obtain ⟨t, ht, hv, honly⟩ := laneRun_writeLanes (ls := ls) (d := d) (val := val) hw hb hf
  exact ⟨t, ht, fun l hl => by rw [hv l hl, hr l hl], honly⟩

/-! ### Reads of named lanes -/

/-- A named lane delivers its register when it lies in the group and in the mask, and zero otherwise (R41). -/
theorem State.laneRead_eq (s : State) (m r : Nat) : s.laneRead m r = if m < s.grp.lanes ∧ s.cur.mask.getLsbD m then s.vreg m r else {} := by
  simp [State.laneRead, State.laneActive, BitVec.testBit_toNat]

/-- Registers that the named lanes deliver without poison pass the check of XLD and XSHF. -/
theorem State.poisonFrom_none {s : State} {ls : List Nat} {reg : Nat} {src : Nat → Option Nat} :
    s.poisonFrom ls reg src = none ↔ ∀ l ∈ ls, ∀ m, src l = some m → (s.laneRead m reg).poison = false := by
  simp only [State.poisonFrom, ite_eq_right_iff, reduceCtorEq, imp_false, List.any_eq_true, not_exists, not_and]
  refine forall₂_congr fun l _ => ?_
  cases src l <;> simp

/-- The lane that a shuffle pattern names, by the bits of the pattern (R255). -/
theorem shuffleLane_eq (pat l : Nat) :
    let K := pat % 2048
    let W := 2 ^ min (pat / 2 ^ 16 % 16) 10
    let i := l % W
    shuffleLane pat l =
      if pat / 2 ^ 12 % 4 = 0 then (if K ≤ i then some (l - i + (i - K)) else none)
      else if pat / 2 ^ 12 % 4 = 1 then (if i + K < W then some (l - i + (i + K)) else none)
      else if pat / 2 ^ 12 % 4 = 2 then (if i ^^^ K < W then some (l - i + (i ^^^ K)) else none)
      else some (l - i + (i + K) % W) := by
  intro K W i
  have hK : field pat 10 0 = K := field_low _ _
  have hW : 2 ^ min (field pat 19 16) 10 = W := by simp only [field, Nat.shiftRight_eq_div_pow]; rfl
  have hmode : field pat 13 12 = pat / 2 ^ 12 % 4 := by simp only [field, Nat.shiftRight_eq_div_pow]; rfl
  simp only [shuffleLane, hK, hW, hmode]
  generalize pat / 2 ^ 12 % 4 = mode
  match mode with
  | 0 | 1 | 2 | m + 3 => rfl

/-- XLD (R255): each executing lane receives the register of the lane that its register b names. -/
theorem execXld_next {s : State} {x : Args} (hr : s.Free [x.d.toNat, x.a.toNat, x.b.toNat]) (hb : s.Clean (s.lanesFor x) [x.b.toNat])
    (hp : ∀ l ∈ s.lanesFor x, (s.laneRead (s.v l x.b.toNat) x.a.toNat).poison = false) :
    ∃ t, execXld x s = .next t ∧
      (∀ l ∈ s.lanesFor x, t.vreg l x.d.toNat = ⟨(s.laneRead (s.v l x.b.toNat) x.a.toNat).val, false⟩) ∧
      OnlyV s t x (s.laneCost 1 [x.d.toNat, x.a.toNat, x.b.toNat]) (s.keysOf (s.lanesFor x) x.d.toNat) := by
  have hsrc : s.poisonFrom (s.lanesFor x) x.a.toNat (fun l => some (s.v l x.b.toNat)) = none :=
    State.poisonFrom_none.2 fun l hl m hm => Option.some.inj hm ▸ hp l hl
  exact laneRun_writeLanes_word hr.idle hr.inBudget (by simp [hsrc, State.poisonV_none.2 hb]) fun l _ => by simp

/-- XSHF (R255): each executing lane receives the register of the lane that the pattern names for it, and zero where it names none. -/
theorem execXshf_next {s : State} {x : Args} (hr : s.Free [x.d.toNat, x.a.toNat]) (hb : s.CleanS [x.b.toNat])
    (hp : ∀ l ∈ s.lanesFor x, ∀ m, shuffleLane (s.sr x.b.toNat) l = some m → (s.laneRead m x.a.toNat).poison = false) :
    ∃ t, execXshf x s = .next t ∧
      (∀ l ∈ s.lanesFor x,
        t.vreg l x.d.toNat = ⟨(shuffleLane (s.sr x.b.toNat) l).elim 0 fun m => (s.laneRead m x.a.toNat).val, false⟩) ∧
      OnlyV s t x (s.laneCost 1 [x.d.toNat, x.a.toNat]) (s.keysOf (s.lanesFor x) x.d.toNat) := by
  refine laneRun_writeLanes_word hr.idle hr.inBudget (by simp [State.poisonFrom_none.2 hp, State.poisonS_none.2 hb]) fun l _ => ?_
  cases shuffleLane (s.sr x.b.toNat) l with
  | none => rfl
  | some m => simp

/-! ### Votes -/

/-- Listing one bits is filtering the bit numbers, which makes the list ascending. -/
theorem onesFrom_eq_filter (x : Nat) : ∀ n k, onesFrom x k n = (List.range' k n).filter x.testBit
  | 0, _ => rfl
  | n + 1, k => by
    rw [onesFrom, onesFrom_eq_filter x n (k + 1), List.range'_succ, List.filter_cons]

/-- Executing lanes are listed in strictly ascending order. -/
theorem State.lanesFor_ascending (s : State) (x : Args) : (s.lanesFor x).Pairwise (· < ·) := by
  rw [State.lanesFor, State.execLanes, lanesOf, onesFrom_eq_filter]
  exact ((List.pairwise_lt_range' _ (by decide)).filter _).filter _

/-- The bits of ballot word `w` that lanes set. -/
def ballotBits (s : State) (ls : List Nat) (n w : Nat) : List Nat := (ls.filter fun l => decide (l / 32 = w) && s.p l n).map (· % 32)

theorem ballotWord_eq_sum (s : State) (n w : Nat) : ∀ ls, ballotWord s ls n w = ((ballotBits s ls n w).map fun i => 2 ^ i).sum
  | [] => rfl
  | l :: ls => by
    have ih := ballotWord_eq_sum s n w ls
    simp only [ballotWord, ballotBits, List.map_cons, List.sum_cons, List.filter_cons, Bool.and_eq_true, decide_eq_true_eq] at ih ⊢
    rw [ih]
    split <;> simp

theorem mem_ballotBits {s : State} {ls : List Nat} {n w i : Nat} (hi : i < 32) :
    i ∈ ballotBits s ls n w ↔ 32 * w + i ∈ ls ∧ s.p (32 * w + i) n = true := by
  simp only [ballotBits, List.mem_map, List.mem_filter, Bool.and_eq_true, decide_eq_true_eq]
  constructor
  · rintro ⟨l, ⟨hl, hw, hp⟩, rfl⟩
    have : 32 * w + l % 32 = l := by omega
    rw [this]; exact ⟨hl, hp⟩
  · rintro ⟨hl, hp⟩
    exact ⟨_, ⟨hl, by omega, hp⟩, by omega⟩

/-- Lanes of one word in ascending order set bits in ascending order. -/
theorem ballotBits_ascending {s : State} {ls : List Nat} {n w : Nat} (h : ls.Pairwise (· < ·)) : (ballotBits s ls n w).Pairwise (· < ·) := by
  rw [ballotBits, List.pairwise_map]
  refine (h.filter _).imp_of_mem fun {a b} ha hb hab => ?_
  simp only [List.mem_filter, Bool.and_eq_true, decide_eq_true_eq] at ha hb
  omega

/-- A bit of a ballot word stands for one lane: no two lanes add to the same bit (R256). -/
theorem testBit_ballotWord {s : State} {ls : List Nat} (h : ls.Pairwise (· < ·)) (n w : Nat) {i : Nat} (hi : i < 32) :
    (ballotWord s ls n w).testBit i = decide (32 * w + i ∈ ls ∧ s.p (32 * w + i) n = true) := by
  rw [Bool.eq_iff_iff, decide_eq_true_iff, ← mem_ballotBits hi, ← Nat.mem_bitIndices, ballotWord_eq_sum,
    Nat.bitIndices_sum_map_two_pow (ballotBits_ascending h).sortedLT]

/-- XBAL (R256): lane `l` receives the ballot word `l % 32`. -/
theorem execXbal_next {s : State} {x : Args} (hr : s.Free [x.d.toNat]) :
    ∃ t, execXbal x s = .next t ∧
      (∀ l ∈ s.lanesFor x, (t.vreg l x.d.toNat).poison = false ∧ ∀ i, i < 32 → (t.vreg l x.d.toNat).val.getLsbD i =
        decide (32 * (l % 32) + i ∈ s.lanesFor x ∧ s.p (32 * (l % 32) + i) x.a.toNat = true)) ∧
      OnlyV s t x (s.laneCost 1 [x.d.toNat]) (s.keysOf (s.lanesFor x) x.d.toNat) := by
  obtain ⟨t, ht, hv, honly⟩ := laneRun_writeLanes (faults := []) (ls := s.lanesFor x) (val := fun l => ballotWord s (s.lanesFor x) x.a.toNat (l % 32))
    hr.idle hr.inBudget (by simp)
  refine ⟨t, ht, fun l hl => ⟨by rw [hv l hl], fun i hi => ?_⟩, honly⟩
  rw [hv l hl, BitVec.getLsbD_ofNat, testBit_ballotWord (s.lanesFor_ascending x) _ _ hi, decide_eq_true hi, Bool.true_and]

/-- XANY (R256): the vote of the executing lanes reaches each of them. -/
theorem execXany_next {s : State} {x : Args} (hd : x.d.toNat < 48) :
    ∃ t, execXany x s = .next t ∧ (∀ l ∈ s.lanesFor x, t.p l x.d.toNat = decide (∃ m ∈ s.lanesFor x, s.p m x.a.toNat = true)) ∧
      OnlyP s t x (s.laneCost 1 []) (s.lanesFor x) x.d.toNat := by
  rw [← List.any_eq]
  exact laneRun_predicates hd

/-- XALL (R256): likewise, and 1 where every executing lane agrees. -/
theorem execXall_next {s : State} {x : Args} (hd : x.d.toNat < 48) :
    ∃ t, execXall x s = .next t ∧ (∀ l ∈ s.lanesFor x, t.p l x.d.toNat = decide (∀ m ∈ s.lanesFor x, s.p m x.a.toNat = true)) ∧
      OnlyP s t x (s.laneCost 1 []) (s.lanesFor x) x.d.toNat := by
  rw [← List.all_eq]
  exact laneRun_predicates hd

end Sys2Proof.Machine

/-! The statements about lane predicates and reads and votes across lanes (11 R253 to R256). -/

namespace Sys2Proof.Machine

/-- Settles O16: the entries of Table 83 name predicates only, and each of them is one write of a predicate per executing lane. -/
theorem lanePredicates : Obligations.LanePredicates := by
  unfold Obligations.LanePredicates
  intro x s
  simp only [List.forall_mem_cons]
  dsimp only [exec]
  exact ⟨⟨rfl, fun hw => Form.predicate_fields hw.2 ⟨rfl, rfl, rfl, rfl⟩ nofun rfl rfl (.inl rfl), lanePred_next⟩,
    ⟨rfl, fun hw => Form.predicate_fields hw.2 ⟨rfl, rfl, rfl, rfl⟩ nofun rfl rfl (.inl rfl), lanePred_next⟩,
    ⟨rfl, fun hw => Form.predicate_fields hw.2 ⟨rfl, rfl, rfl, rfl⟩ nofun rfl rfl (.inl rfl), lanePred_next⟩,
    ⟨rfl, fun hw => Form.predicate_fields hw.2 ⟨rfl, rfl, rfl, rfl⟩ nofun rfl rfl (.inr rfl), laneRun_predicates⟩,
    ⟨rfl, fun hw => Form.predicate_fields hw.2 ⟨rfl, rfl, rfl, rfl⟩ nofun rfl rfl (.inr rfl), laneRun_predicates⟩, List.forall_mem_nil _⟩

/-- Settles O22: what the statement reads from a lane is `laneRead`, the lane that its pattern names is `shuffleLane`, and the rest is the result of each
instruction. -/
theorem crossLaneReads : Obligations.CrossLaneReads := by
  unfold Obligations.CrossLaneReads
  intro x s ls d a b read pat K W from_
  have hread : read = fun m => s.laneRead m a := funext fun m => (s.laneRead_eq m a).symm
  have hfrom : from_ = shuffleLane pat := funext fun l => (shuffleLane_eq pat l).symm
  clear_value read from_
  subst hread hfrom
  dsimp only [exec]
  exact ⟨execXld_next, execXshf_next, execXbal_next, fun hd => ⟨execXany_next hd, execXall_next hd⟩⟩

end Sys2Proof.Machine
